-- ==== Sys2Proof/Word.lean ====
section
/-! DEFINITION. The word types of the QX-4: bytes, 32- and 64-bit values, addresses and the 96-bit instruction word. -/

namespace Sys2Proof

abbrev Byte := BitVec 8
abbrev W16 := BitVec 16
abbrev W32 := BitVec 32
abbrev W64 := BitVec 64
/-- A 48-bit address, virtual or physical (R226, R224). -/
abbrev Addr := BitVec 48
/-- The 96-bit Axivex word (R110). -/
abbrev W96 := BitVec 96
/-- A mask of the 32 lanes of a team: bit L stands for lane L. -/
abbrev Lanes := BitVec 32

end Sys2Proof
end

