-- ==== Sys2Proof/Config.lean ====
section
/-! DEFINITION. Free values: constants with no body, so that nothing can evaluate them (log entry 3),
and the numbers an implementation fixes. -/

namespace Sys2Proof.Config

/-- A fresh free value: State's counter is the argument (log entry 3). -/
opaque freeWord : Nat → BitVec 64
/-- A free value of any width, as a natural number (log entry 3). -/
opaque freeNat : Nat → Nat
/-- The offset, in units of the last place, of an approximate result from the exact one, by
instruction number, FTZ and input bits; it is reduced into the bound of Table 7-4 (R208, log entry 12). -/
opaque approxUlp : Nat → Bool → BitVec 32 → Nat
/-- The offset of an approximate result with an absolute bound, in units of 2^-172 (R208, log entry 12). -/
opaque approxAbs : Nat → Bool → BitVec 32 → Nat
/-- The byte at a physical address of another device (R391, log entry 5): by device, address and
the counter of State. -/
opaque peerByte : Nat → Nat → Nat → BitVec 8
/-- Which location serves an access at another device, its home die's L2 or HBM4E or another die's, by the counter of State and address
(R392, log entry 91). -/
opaque peerServes : Nat → Nat → Nat
/-- The length in bytes of items of an image section to which Table 14-9 gives no layout, by STYPE and kind of item (STYPE + 256 × kind)
and the number of units that they describe (log entry 13). -/
opaque sectionLength : Nat → Nat → Nat
/-- A byte of such items, by the count of State, STYPE and unit, and part and position (log entry 13). -/
opaque sectionByte : Nat → Nat → Nat → BitVec 8
/-- The walker's die and store offset behind a device-register address outside the Headwater blocks, if it is one of a routine store
(R236 gives the firmware no address for it; log entry 115). -/
opaque walkerStore : Nat → Option (Nat × Nat)
/-- A byte of the routine store as die boot leaves it, by offset: the stock routines' bytes are not given (R236, log entry 115). -/
opaque stockByte : Nat → BitVec 8
/-- Register code of DETAIL0 of a lookahead violation (Table 14-1 gives no coding; log entry 14). -/
opaque regDetail : Nat → Nat → BitVec 32
/-- Field code of the fabric-descriptor trap (Table 13-6 gives no coding; log entry 14). -/
opaque fieldDetail : Nat → BitVec 32
/-- DETAIL2 of an engine access fault: engine and job serial, of which no layout is given (log entry 14). -/
opaque engineDetail : Nat → Nat → BitVec 64
/-- The HBM4E bank that holds a physical address (R232; log entry 10). -/
opaque hbmBank : Nat → Nat
/-- The HBM4E channel of a physical address (R452; log entry 10). -/
opaque hbmChannel : Nat → Nat
/-- The result of the signature check of a firmware image, by its version (R454, log entry 23). -/
opaque signatureValid : Nat → Bool
/-- HWVER of the interfaces that a firmware image has, by its version (R455, log entry 23). -/
opaque imageHwver : Nat → Nat
/-- Whether a core fails its checks at a die's boot, or the activation of an image fails, by State's counter and the core
(R452, R455; log entry 3). -/
opaque checkFails : Nat → Nat → Bool
/-- A measured quantity of telemetry, by schema and index (R457; log entry 16). -/
opaque telemetryReading : Nat → Nat → BitVec 64
/-- The number of refresh cycles that a bank takes, by die and bank (R232; log entry 10). -/
opaque refreshLength : Nat → Nat → Nat

end Sys2Proof.Config
end

