-- ==== Sys2Proof/Fields.lean ====
section
/-! DEFINITION. What instructions and events are made of: the operand fields of a word, the names of units,
and the events of the part with the unit each acts on. -/

namespace Sys2Proof

/-! ### Operand fields -/

/-- Guard, lookahead and yield bits of a word (Table 4-3). -/
structure Hdr where
  gtt : BitVec 8
  ga  : BitVec 3
  gb  : BitVec 3
  gc  : BitVec 3
  la  : BitVec 4
  yld : Bool
  deriving DecidableEq, Repr, Inhabited

/-- A 16-bit operand field by KIND (Table 4-4). The field 0x0000 is `g 0 0 0`; where a form does not use
a field, that value stands for none (R112). -/
inductive Opd where
  /-- kind 0b00: MOD, SUB, register number -/
  | g (mod : BitVec 2) (sub : BitVec 4) (n : BitVec 8)
  /-- kind 0b01: MOD, SUB, register number -/
  | k (mod : BitVec 2) (sub : BitVec 4) (n : BitVec 8)
  /-- kind 0b10: MOD, file select of Table 4-5, index -/
  | f (mod : BitVec 2) (file : BitVec 4) (n : BitVec 8)
  /-- kind 0b11: the signed 14-bit immediate, or the value of an option field (R153) -/
  | i (v : BitVec 14)
  deriving DecidableEq, Repr, Inhabited

/-- An operation whose B field is in register form, or unused (R115). -/
structure RegForm where
  d : Opd
  a : Opd
  c : Opd
  b : Opd
  deriving DecidableEq, Repr, Inhabited

/-- An operation whose B field is a 32-bit immediate (R115). -/
structure ImmForm where
  d   : Opd
  a   : Opd
  imm : BitVec 32
  deriving DecidableEq, Repr, Inhabited

/-- An operation whose B field is in memory form (Table 4-7). -/
structure MemForm where
  d     : Opd
  a     : Opd
  ord   : BitVec 2
  scope : BitVec 3
  evict : BitVec 3
  space : Bool
  size  : BitVec 3
  off   : BitVec 20
  deriving DecidableEq, Repr, Inhabited

/-! ### Names of units, used by events -/

structure TeamRef where
  die  : Nat
  core : Nat
  slot : Nat
  deriving DecidableEq, Repr, Inhabited

/-- A group by context id, plan RCB and rank: ranks are counted per plan (R128, log entry 24). -/
structure GroupRef where
  ctx  : Nat
  rcb  : Nat
  rank : Nat
  deriving DecidableEq, Repr, Inhabited

structure CoreRef where
  die  : Nat
  core : Nat
  deriving DecidableEq, Repr, Inhabited

/-- A command queue of a die (R55). -/
structure QRef where
  die : Nat
  q   : Nat
  deriving DecidableEq, Repr, Inhabited

/-- A plan of a context, by its RCB address. -/
structure PlanRef where
  ctx : Nat
  rcb : Nat
  deriving DecidableEq, Repr, Inhabited

structure StageRef where
  ctx   : Nat
  rcb   : Nat
  stage : Nat
  deriving DecidableEq, Repr, Inhabited

structure PipeRef where
  ctx : Nat
  rcb : Nat
  w   : Nat
  deriving DecidableEq, Repr, Inhabited

/-- A barrier: private to a group, of a gang by its position-0 group, or of the context (R347). -/
inductive BarRef where
  | priv (g : GroupRef) (b : Nat)
  | gang (g : GroupRef) (b : Nat)
  | ctx (ctx n : Nat)
  deriving DecidableEq, Repr, Inhabited

/-- A location of a plan (R365). -/
inductive Loc where
  | stage (s : Nat)
  | pipe (w : Nat)
  /-- a stage on a peer device that a cross-device pipe joins to the plan (R365, R372) -/
  | far (dev s : Nat)
  deriving DecidableEq, Repr, Inhabited

/-- One batch of count changes (R368): increments apply before decrements (R372). -/
structure Batch where
  plan  : PlanRef
  /-- its die, or of a batch from device v, 4 × (v + 1) and its die there -/
  src   : Nat
  incs  : List (Loc × W64)
  decs  : List (Loc × W64)
  stamp : Nat
  /-- order among the batches of a cycle -/
  key   : Nat
  /-- cycle from which a node has held it (R374) -/
  came  : Nat
  deriving DecidableEq, Repr, Inhabited

/-- What a change of a pipe counter does when it takes effect at the home (R288, R292). -/
inductive PipeChange where
  | commit (slot : Nat) (time : W64) (stamp : Nat) (isVoid : Bool) (die key : Nat)
  | release (slot : Nat) (spilled : Bool) (stamp : Nat) (die key : Nat)
  | close (key : Nat)
  | deliver (t : TeamRef) (lanes : Lanes) (pc : Addr) (dst : Opd) (pair : W64) (time : Option W64) (stamp : Nat)
  deriving DecidableEq, Repr, Inhabited

/-- The lines of a `cctl` that are still to be acted on, one in each cycle from `start` on: OP, the instruction, and by when those acted on
are done (R252). -/
structure LineRun where
  op    : Nat
  team  : TeamRef
  lanes : Lanes
  pc    : Addr
  lines : List Nat
  start : Nat
  done  : Nat
  deriving DecidableEq, Repr, Inhabited

/-- The accesses that lanes of a team made up to a cycle, which something waits for (R360, R415). -/
structure Settle where
  team  : TeamRef
  lanes : Lanes
  since : Nat
  deriving DecidableEq, Repr, Inhabited

/-- An access of an agent that is performed as a step of its own (R229, R329). -/
structure Access where
  die   : Nat
  write : Bool
  pa    : Nat
  size  : Nat
  data  : Nat
  scope : Nat
  evict : Nat
  /-- the lanes of an `mx.post` that wait for their record (R311) -/
  post  : Option (TeamRef × Lanes)
  /-- the record, once it has been read and checked -/
  record : List W64
  /-- the lines of a `cctl` (R252) -/
  run    : Option LineRun
  deriving DecidableEq, Repr, Inhabited

/-- A frame of the optical fabric (R394). -/
structure Frame where
  srcDev  : Nat
  ctx     : Nat
  window  : Nat
  start   : Nat
  length  : Nat
  offset  : Nat
  gen     : Nat
  seq     : Nat
  payload : List Byte
  deriving DecidableEq, Repr, Inhabited

/-- A control message of the fabric (R400). -/
inductive CtlMsg where
  | batch (b : Batch)
  | credit (p : PipeRef) (total : Nat)
  /-- a collective notice: 0 asks for a commit, 1 grants and 2 refuses it, 3 asks for a redo, 4 begins one; with the sender's rank -/
  | notice (coll chunk kind rank : Nat)
  /-- a partial of a child, with CTXID on the sender, and a result, with the tree (true: ALTTREE); they travel as frames -/
  | partial_ (coll chunk rank ctx : Nat) (alt : Bool) (bytes : List Byte)
  | result (coll chunk : Nat) (alt : Bool) (bytes : List Byte)
  deriving DecidableEq, Repr, Inhabited

/-- A task request travelling to the ready queue's node (R480). -/
inductive TaskReq where
  | post (n : Nat)
  | done (n : Nat)
  | take (floor : Nat)
  deriving DecidableEq, Repr, Inhabited

/-- What the ready queue's node answers (R480): a fault (kind and two details), or for a take the quad of R388 with the task's
LTIME and stamp. `issued` is the cycle in which the waiting lanes issued. -/
structure TaskReply where
  team   : TeamRef
  lanes  : Lanes
  issued : Nat
  key    : Nat
  dst    : Opd
  fault  : Option (Nat × Nat × Nat)
  quad   : Option Nat
  ltime  : W64
  stamp  : Nat
  /-- the shadow slot that the task goes to, as (core, index), with the task -/
  slot   : Option (Nat × Nat × Nat)
  ctx    : Nat
  deriving DecidableEq, Repr, Inhabited

/-! ### Events -/

/-- The events of the part (95_what_each_step_holds), each with the unit and data it acts on. The machine's state
holds the event that happens; the row of the opcode table is `Instr`'s constructor of the same name. -/
inductive Event where
  -- events of issue
  | quadIssue (die core quad : Nat)
  | watchdogExpiry (t : TeamRef)
  | sleepExpiry (t : TeamRef) (lane : Nat)
  | lookaheadResult (t : TeamRef) (lanes : Lanes) (pc : Addr)
  | icacheFill (die cluster line : Nat) (ahead : Bool)
  | cfetchLanded (g : GroupRef) (frame serial : Nat)
  -- events of the command queues
  | tailSubmission (q : QRef) (v : W32)
  | fifoEntryEvaluation (die : Nat)
  | tailerrClear (q : QRef) (v : W64)
  | queueEnable (q : QRef) (v : W64)
  | qheadWrite (q : QRef) (v : W64)
  | cmdNop (q : QRef) (w : W32) (pl : List W32)
  | cmdResume (q : QRef) (w : W32) (pl : List W32)
  | cmdPreempt (q : QRef) (w : W32) (pl : List W32)
  | cmdDrainPlan (q : QRef) (w : W32) (pl : List W32)
  | cmdIndirect (q : QRef) (w : W32) (pl : List W32)
  | cmdReturn (q : QRef) (w : W32) (pl : List W32)
  | cmdSignal (q : QRef) (w : W32) (pl : List W32)
  | cmdWaitTime (q : QRef) (w : W32) (pl : List W32)
  | cmdFence (q : QRef) (w : W32) (pl : List W32)
  | waitTimePoll (q : QRef)
  | fenceCommit (q : QRef)
  | firmwareRestart (die : Nat)
  | ctxidWrite (q : QRef)
  | restorePhase (ctx phase : Nat)
  | startUnits (ctx : Nat)
  -- events of placement
  | gangPlace (s : StageRef) (g : Nat)
  | plwaitExpiry (s : StageRef) (g : Nat)
  | shadowSlotTake (die core ix : Nat)
  | weirSample (p : PlanRef)
  | weirIntervalEnd (p : PlanRef)
  | sluiceDeferredServe (die : Nat)
  | dieLinkFail (a b : Nat)
  | dieUnreachable (die : Nat)
  -- events of memory
  | memoryAccessPerform (a : Access)
  | translationWalk (die : Nat)
  | rdcProbe (die home line : Nat)
  | probeAck (home die line : Nat)
  | dropNotice (home die line : Nat)
  | hbmRefresh (die bank : Nat)
  | invalidationStart (die : Nat)
  | invalidationComplete (die : Nat)
  | migrationStart (die : Nat)
  | migrationEnd (die : Nat)
  | hotnessHalving
  | orderedOverflow (die : Nat)
  | orddrop (die : Nat) (rcb : Nat)
  -- events of copies and pipes
  | copyDescriptorStart (die core chan : Nat)
  | copyReadComplete (die core chan : Nat)
  | deliveryCount (g : GroupRef) (hn serial bytes stamp : Nat)
  | outCopyEnd (die core chan : Nat)
  | handleWaiterWake (g : GroupRef) (hn : Nat)
  | pipeRequestArrival (p : PipeRef)
  | pipeCounterChange (p : PipeRef) (c : PipeChange)
  | tileSpill (p : PipeRef)
  | deadlockDeclaration (p : PlanRef)
  | stagingTransfer (p : PipeRef)
  | tileArrival (p : PipeRef) (time : W64) (bytes : List Byte)
  | creditReport (p : PipeRef) (total : Nat)
  | stagingAck (p : PipeRef)
  -- events of the matrix engines
  | jobStart (die cluster engine : Nat)
  | jobLastRead (die cluster engine : Nat)
  | engineArrival (g : GroupRef) (b engine stamp : Nat)
  | jobComplete (die cluster engine : Nat)
  | selfTest (die engine : Nat) (failed : BitVec 64)
  | controlStoreLoad (die : Nat)
  -- events of barriers, timelines and logical time
  | barrierPhaseAdvance (b : BarRef)
  | barrierWaiterRelease (b : BarRef)
  | tlSigComplete (g : GroupRef) (tc n stamp : Nat) (after : Option Settle)
  | timelineWaiterWake (g : GroupRef) (tc : Nat)
  | tidelineBatchApply (die : Nat) (b : Batch)
  | frontierRecompute (die : Nat)
  | frontierWaiterRelease (t : TeamRef) (lane : Nat)
  | tidelineHeldTimeout (die : Nat)
  | taskRequestArrival (ctx : Nat)
  | taskVerdictReturn (r : TaskReply)
  -- events of the fabric
  | ualinkReplay (port : Nat)
  | ualinkPortFail (port : Nat)
  | ualinkPortRetrain (port : Nat)
  | ualinkRouteTimeout (dev : Nat)
  | sendEligible (entry : Nat)
  | dataPeriodStart
  | guardInterval
  | frameReceive (f : Frame)
  | frameAckReceive (entry offset : Nat) (refused : Bool)
  | controlMessage (m : CtlMsg)
  | circuitRequestArrival (dev : Nat) (conns : List (Nat × Nat × Nat))
  | tableActivation
  | circuitRequestWithdraw (dev : Nat)
  | receiveWindowEnable (w : Nat) (v : W64)
  | childPartialArrival (coll chunk child ctx : Nat) (alt : Bool) (bytes : List Byte)
  | reduceBlockEnd (coll chunk : Nat)
  | commitRequest (coll chunk rank : Nat)
  | broadcastArrival (coll chunk : Nat) (alt : Bool) (bytes : List Byte)
  | redoRequest (coll chunk : Nat)
  | redo (coll chunk : Nat)
  | collectiveFail (coll chunk : Nat)
  -- events of interruption and retirement
  | faultRecordWrite (die : Nat)
  | drainEnd (ctx : Nat)
  | forceCycle (ctx : Nat)
  | quiesce (ctx : Nat)
  | groupResourcesFree (g : GroupRef)
  | launchRetire (p : PlanRef)
  | planRetire (p : PlanRef)
  -- resets and service
  | engineReset (die unit : Nat)
  | channelReset (die unit : Nat)
  | walkerReset (die : Nat)
  | tidelineNodeReset (die : Nat)
  | coreReset (die unit : Nat)
  | dieReset (die unit : Nat)
  | packageWarmReset
  | packageColdReset
  | managementDomainReset
  | dieBoot (die : Nat)
  | hbmChannelRecalibration (die chan : Nat)
  | wavelengthRecalibration (plane wave : Nat)
  | firmwareUpdate (version : Nat)
  | firmwareActivation (die : Nat)
  | thermalEvent (die : Nat)
  | thermalReset (die : Nat)
  | telemetryRead (schema : Nat)
  | counterReadClear (die off : Nat)
  | registerWrite (die off : Nat) (v : W64)
  | waitTimeClockReached (q : QRef)
  | fqbaseWrite (die : Nat) (v : W64)
  | fqtailWrite (die : Nat) (v : W64)
  | firmwareRestartEnd (die : Nat)
  deriving DecidableEq, Repr, Inhabited

end Sys2Proof
end

