-- ==== Sys2Proof/Syntax.lean ====
section
/-! DEFINITION. Instructions of the QX-4 as Lean terms: one constructor per row of spec/opcode_table.json.
201 constructors are Axivex words (R110), each with its header and one of the three shapes of the B field (R115);
127 are events of the part, whose operands the state holds (`Event`). -/

namespace Sys2Proof

/-- The instructions and events of the QX-4. -/
inductive Instr where
  -- class 0 (Table 6-2)
  | nop (h : Hdr) (o : RegForm)
  | bra (h : Hdr) (o : ImmForm)
  | brx (h : Hdr) (o : RegForm)
  | call (h : Hdr) (o : ImmForm)
  | ret (h : Hdr) (o : RegForm)
  | join (h : Hdr) (o : RegForm)
  | jset (h : Hdr) (o : RegForm)
  | jclr (h : Hdr) (o : RegForm)
  | exit (h : Hdr) (o : RegForm)
  | yield (h : Hdr) (o : RegForm)
  | sleep (h : Hdr) (o : ImmForm)
  | fjmp (h : Hdr) (o : ImmForm)
  | cfetch (h : Hdr) (o : RegForm)
  | prefi (h : Hdr) (o : ImmForm)
  -- class 1 (Table 6-3)
  | iadd (h : Hdr) (o : RegForm)
  | isub (h : Hdr) (o : RegForm)
  | imul (h : Hdr) (o : RegForm)
  | imulhi (h : Hdr) (o : RegForm)
  | imad (h : Hdr) (o : RegForm)
  | imadw (h : Hdr) (o : RegForm)
  | idiv (h : Hdr) (o : RegForm)
  | irem (h : Hdr) (o : RegForm)
  | ineg (h : Hdr) (o : RegForm)
  | iabs (h : Hdr) (o : RegForm)
  | imin (h : Hdr) (o : RegForm)
  | imax (h : Hdr) (o : RegForm)
  | iclamp (h : Hdr) (o : RegForm)
  | isad (h : Hdr) (o : RegForm)
  | aadd (h : Hdr) (o : RegForm)
  | lea (h : Hdr) (o : RegForm)
  | mov (h : Hdr) (o : RegForm)
  | movi (h : Hdr) (o : ImmForm)
  | movk (h : Hdr) (o : ImmForm)
  | sel (h : Hdr) (o : RegForm)
  -- class 2 (Table 6-4)
  | and (h : Hdr) (o : RegForm)
  | or (h : Hdr) (o : RegForm)
  | xor (h : Hdr) (o : RegForm)
  | not (h : Hdr) (o : RegForm)
  | lop3 (h : Hdr) (o : ImmForm)
  | shl (h : Hdr) (o : RegForm)
  | shr (h : Hdr) (o : RegForm)
  | sar (h : Hdr) (o : RegForm)
  | rot (h : Hdr) (o : RegForm)
  | shf (h : Hdr) (o : RegForm)
  | popc (h : Hdr) (o : RegForm)
  | clz (h : Hdr) (o : RegForm)
  | ctz (h : Hdr) (o : RegForm)
  | brev (h : Hdr) (o : RegForm)
  | bfe (h : Hdr) (o : RegForm)
  | bfi (h : Hdr) (o : RegForm)
  | prmt (h : Hdr) (o : RegForm)
  | sext (h : Hdr) (o : RegForm)
  -- class 3 (Table 6-5)
  | icmp (h : Hdr) (o : RegForm)
  | fcmp (h : Hdr) (o : RegForm)
  | pset (h : Hdr) (o : ImmForm)
  | p2g (h : Hdr) (o : RegForm)
  | g2p (h : Hdr) (o : RegForm)
  | ballot (h : Hdr) (o : RegForm)
  | vote (h : Hdr) (o : ImmForm)
  -- class 4 (Table 6-9)
  | shfl (h : Hdr) (o : RegForm)
  | bcast (h : Hdr) (o : RegForm)
  | tred (h : Hdr) (o : RegForm)
  | tscan (h : Hdr) (o : RegForm)
  | matchLanes (h : Hdr) (o : RegForm)
  | kmov (h : Hdr) (o : RegForm)
  | kadd (h : Hdr) (o : RegForm)
  | kcmp (h : Hdr) (o : RegForm)
  | kld (h : Hdr) (o : MemForm)
  | rdsr (h : Hdr) (o : RegForm)
  | wrsr (h : Hdr) (o : RegForm)
  | clk (h : Hdr) (o : RegForm)
  -- class 5 (Table 7-3)
  | fadd (h : Hdr) (o : RegForm)
  | fsub (h : Hdr) (o : RegForm)
  | fmul (h : Hdr) (o : RegForm)
  | ffma (h : Hdr) (o : RegForm)
  | fmin (h : Hdr) (o : RegForm)
  | fmax (h : Hdr) (o : RegForm)
  | frcp (h : Hdr) (o : RegForm)
  | frsq (h : Hdr) (o : RegForm)
  | fsqrt (h : Hdr) (o : RegForm)
  | fdiv (h : Hdr) (o : RegForm)
  | fex2 (h : Hdr) (o : RegForm)
  | flg2 (h : Hdr) (o : RegForm)
  | fsin (h : Hdr) (o : RegForm)
  | fcos (h : Hdr) (o : RegForm)
  | ftanh (h : Hdr) (o : RegForm)
  | fclass (h : Hdr) (o : RegForm)
  | fscale (h : Hdr) (o : RegForm)
  | frnd (h : Hdr) (o : RegForm)
  -- class 6 (Table 7-7)
  | hadd2F16 (h : Hdr) (o : RegForm)
  | hmul2F16 (h : Hdr) (o : RegForm)
  | hfma2F16 (h : Hdr) (o : RegForm)
  | hmin2F16 (h : Hdr) (o : RegForm)
  | hmax2F16 (h : Hdr) (o : RegForm)
  | hdot2F16 (h : Hdr) (o : RegForm)
  | hadd2Bf16 (h : Hdr) (o : RegForm)
  | hmul2Bf16 (h : Hdr) (o : RegForm)
  | hfma2Bf16 (h : Hdr) (o : RegForm)
  | hmin2Bf16 (h : Hdr) (o : RegForm)
  | hmax2Bf16 (h : Hdr) (o : RegForm)
  | hdot2Bf16 (h : Hdr) (o : RegForm)
  -- class 7 (Table 7-9)
  | cvt (h : Hdr) (o : RegForm)
  | quant (h : Hdr) (o : RegForm)
  | dequant (h : Hdr) (o : RegForm)
  | packPlanes (h : Hdr) (o : RegForm)
  | packPair (h : Hdr) (o : RegForm)
  | unpackPlanes (h : Hdr) (o : RegForm)
  | unpackPair (h : Hdr) (o : RegForm)
  | scalmax (h : Hdr) (o : RegForm)
  -- classes 8 and 9 (Table 8-7)
  | ld (h : Hdr) (o : MemForm)
  | st (h : Hdr) (o : MemForm)
  | ldk (h : Hdr) (o : MemForm)
  | stc (h : Hdr) (o : MemForm)
  | lde (h : Hdr) (o : MemForm)
  | prefd (h : Hdr) (o : MemForm)
  | cctlIcinv (h : Hdr) (o : MemForm)
  | cctlRdcinv (h : Hdr) (o : MemForm)
  | cctlWb (h : Hdr) (o : MemForm)
  | cctlWbinv (h : Hdr) (o : MemForm)
  | atom (h : Hdr) (o : MemForm)
  | red (h : Hdr) (o : MemForm)
  | cas (h : Hdr) (o : MemForm)
  | ordadd (h : Hdr) (o : MemForm)
  | flushord (h : Hdr) (o : RegForm)
  | fence (h : Hdr) (o : ImmForm)
  -- class 10 (Table 9-3)
  | cpy (h : Hdr) (o : MemForm)
  | cpytIn (h : Hdr) (o : RegForm)
  | cpytOut (h : Hdr) (o : RegForm)
  | cpycsr (h : Hdr) (o : RegForm)
  | bsetArm (h : Hdr) (o : RegForm)
  | bsetClose (h : Hdr) (o : RegForm)
  | bsetDrain (h : Hdr) (o : RegForm)
  | bsetFree (h : Hdr) (o : RegForm)
  | bsetReset (h : Hdr) (o : RegForm)
  | bwait (h : Hdr) (o : RegForm)
  | bquery (h : Hdr) (o : RegForm)
  | wptr (h : Hdr) (o : RegForm)
  | wptrGe (h : Hdr) (o : RegForm)
  -- class 11 (Table 9-8)
  | pres (h : Hdr) (o : RegForm)
  | pcom (h : Hdr) (o : RegForm)
  | ptake (h : Hdr) (o : RegForm)
  | prel (h : Hdr) (o : RegForm)
  | pcpyIn (h : Hdr) (o : RegForm)
  | pcpyOut (h : Hdr) (o : RegForm)
  | pquery (h : Hdr) (o : RegForm)
  | pspill (h : Hdr) (o : RegForm)
  | pdrain (h : Hdr) (o : RegForm)
  -- class 12 (Table 10-3)
  | mxLdb (h : Hdr) (o : RegForm)
  | mxMma (h : Hdr) (o : RegForm)
  | mxGmma (h : Hdr) (o : RegForm)
  | mxRd (h : Hdr) (o : RegForm)
  | mxClr (h : Hdr) (o : RegForm)
  | mxPost (h : Hdr) (o : MemForm)
  | mxRing (h : Hdr) (o : RegForm)
  | mxStat (h : Hdr) (o : ImmForm)
  -- class 13 (Tables 11-7 and 12-5)
  | barArr (h : Hdr) (o : RegForm)
  | barWait (h : Hdr) (o : RegForm)
  | barSync (h : Hdr) (o : RegForm)
  | barBytes (h : Hdr) (o : RegForm)
  | barMem (h : Hdr) (o : RegForm)
  | barMemBind (h : Hdr) (o : RegForm)
  | barMemUnbind (h : Hdr) (o : RegForm)
  | tlSig (h : Hdr) (o : RegForm)
  | tlWait (h : Hdr) (o : RegForm)
  | tlRd (h : Hdr) (o : RegForm)
  | ltSet (h : Hdr) (o : RegForm)
  | ltAdv (h : Hdr) (o : RegForm)
  | ltHold (h : Hdr) (o : RegForm)
  | ltHoldRoot (h : Hdr) (o : RegForm)
  | ltDrop (h : Hdr) (o : RegForm)
  | ltDropRoot (h : Hdr) (o : RegForm)
  | ltFront (h : Hdr) (o : RegForm)
  | ltAwait (h : Hdr) (o : RegForm)
  | tkPost (h : Hdr) (o : RegForm)
  | tkDone (h : Hdr) (o : RegForm)
  | tkArmBind (h : Hdr) (o : RegForm)
  | tkArmUnbind (h : Hdr) (o : RegForm)
  | tkArmTake (h : Hdr) (o : RegForm)
  | tkArmTakeDirect (h : Hdr) (o : RegForm)
  -- class 14 (Table 13-4)
  | fxSend (h : Hdr) (o : RegForm)
  | fxCirc (h : Hdr) (o : RegForm)
  | fxGen (h : Hdr) (o : RegForm)
  | fxGenNe (h : Hdr) (o : RegForm)
  | fxSlot (h : Hdr) (o : RegForm)
  | fxQstat (h : Hdr) (o : RegForm)
  | coFire (h : Hdr) (o : RegForm)
  | coAck (h : Hdr) (o : RegForm)
  | coAckAll (h : Hdr) (o : RegForm)
  | coStat (h : Hdr) (o : RegForm)
  -- class 15 (Table 14-10)
  | trap (h : Hdr) (o : ImmForm)
  | brk (h : Hdr) (o : ImmForm)
  | sysc (h : Hdr) (o : ImmForm)
  | wdkick (h : Hdr) (o : RegForm)
  | rte (h : Hdr) (o : RegForm)
  | rdwin (h : Hdr) (o : RegForm)
  | wrwin (h : Hdr) (o : RegForm)
  | park (h : Hdr) (o : RegForm)
  | unpark (h : Hdr) (o : RegForm)
  | csave (h : Hdr) (o : RegForm)
  | crest (h : Hdr) (o : RegForm)
  | halt (h : Hdr) (o : ImmForm)
  -- events of issue
  | quadIssue
  | watchdogExpiry
  | sleepExpiry
  | lookaheadResult
  | icacheFill
  | cfetchLanded
  -- events of the command queues
  | tailSubmission
  | fifoEntryEvaluation
  | tailerrClear
  | queueEnable
  | qheadWrite
  | cmdNop
  | cmdResume
  | cmdPreempt
  | cmdDrainPlan
  | cmdIndirect
  | cmdReturn
  | cmdSignal
  | cmdWaitTime
  | cmdFence
  | waitTimePoll
  | fenceCommit
  | firmwareRestart
  | ctxidWrite
  | restorePhase
  | startUnits
  -- events of placement
  | gangPlace
  | plwaitExpiry
  | shadowSlotTake
  | weirSample
  | weirIntervalEnd
  | sluiceDeferredServe
  | dieLinkFail
  | dieUnreachable
  -- events of memory
  | memoryAccessPerform
  | translationWalk
  | rdcProbe
  | probeAck
  | dropNotice
  | hbmRefresh
  | invalidationStart
  | invalidationComplete
  | migrationStart
  | migrationEnd
  | hotnessHalving
  | orderedOverflow
  | orddrop
  -- events of copies and pipes
  | copyDescriptorStart
  | copyReadComplete
  | deliveryCount
  | outCopyEnd
  | handleWaiterWake
  | pipeRequestArrival
  | pipeCounterChange
  | tileSpill
  | deadlockDeclaration
  | stagingTransfer
  | tileArrival
  | creditReport
  | stagingAck
  -- events of the matrix engines
  | jobStart
  | jobLastRead
  | engineArrival
  | jobComplete
  | selfTest
  | controlStoreLoad
  -- events of barriers, timelines and logical time
  | barrierPhaseAdvance
  | barrierWaiterRelease
  | tlSigComplete
  | timelineWaiterWake
  | tidelineBatchApply
  | frontierRecompute
  | frontierWaiterRelease
  | tidelineHeldTimeout
  | taskRequestArrival
  | taskVerdictReturn
  -- events of the fabric
  | ualinkReplay
  | ualinkPortFail
  | ualinkPortRetrain
  | ualinkRouteTimeout
  | sendEligible
  | dataPeriodStart
  | guardInterval
  | frameReceive
  | frameAckReceive
  | controlMessage
  | circuitRequestArrival
  | tableActivation
  | circuitRequestWithdraw
  | receiveWindowEnable
  | childPartialArrival
  | reduceBlockEnd
  | commitRequest
  | broadcastArrival
  | redoRequest
  | redo
  | collectiveFail
  -- events of interruption and retirement
  | faultRecordWrite
  | drainEnd
  | forceCycle
  | quiesce
  | groupResourcesFree
  | launchRetire
  | planRetire
  -- resets and service
  | engineReset
  | channelReset
  | walkerReset
  | tidelineNodeReset
  | coreReset
  | dieReset
  | packageWarmReset
  | packageColdReset
  | managementDomainReset
  | dieBoot
  | hbmChannelRecalibration
  | wavelengthRecalibration
  | firmwareUpdate
  | firmwareActivation
  | thermalEvent
  | thermalReset
  | telemetryRead
  | counterReadClear
  | registerWrite
  | waitTimeClockReached
  | fqbaseWrite
  | fqtailWrite
  | firmwareRestartEnd
  deriving DecidableEq, Repr, Inhabited

/-- The row of the opcode table that an event is. -/
def Event.instr : Event → Instr
  | .quadIssue _ _ _ => .quadIssue
  | .watchdogExpiry _ => .watchdogExpiry
  | .sleepExpiry _ _ => .sleepExpiry
  | .lookaheadResult _ _ _ => .lookaheadResult
  | .icacheFill _ _ _ _ => .icacheFill
  | .cfetchLanded _ _ _ => .cfetchLanded
  | .tailSubmission _ _ => .tailSubmission
  | .fifoEntryEvaluation _ => .fifoEntryEvaluation
  | .tailerrClear _ _ => .tailerrClear
  | .queueEnable _ _ => .queueEnable
  | .qheadWrite _ _ => .qheadWrite
  | .cmdNop _ _ _ => .cmdNop
  | .cmdResume _ _ _ => .cmdResume
  | .cmdPreempt _ _ _ => .cmdPreempt
  | .cmdDrainPlan _ _ _ => .cmdDrainPlan
  | .cmdIndirect _ _ _ => .cmdIndirect
  | .cmdReturn _ _ _ => .cmdReturn
  | .cmdSignal _ _ _ => .cmdSignal
  | .cmdWaitTime _ _ _ => .cmdWaitTime
  | .cmdFence _ _ _ => .cmdFence
  | .waitTimePoll _ => .waitTimePoll
  | .fenceCommit _ => .fenceCommit
  | .firmwareRestart _ => .firmwareRestart
  | .ctxidWrite _ => .ctxidWrite
  | .restorePhase _ _ => .restorePhase
  | .startUnits _ => .startUnits
  | .gangPlace _ _ => .gangPlace
  | .plwaitExpiry _ _ => .plwaitExpiry
  | .shadowSlotTake _ _ _ => .shadowSlotTake
  | .weirSample _ => .weirSample
  | .weirIntervalEnd _ => .weirIntervalEnd
  | .sluiceDeferredServe _ => .sluiceDeferredServe
  | .dieLinkFail _ _ => .dieLinkFail
  | .dieUnreachable _ => .dieUnreachable
  | .memoryAccessPerform _ => .memoryAccessPerform
  | .translationWalk _ => .translationWalk
  | .rdcProbe _ _ _ => .rdcProbe
  | .probeAck _ _ _ => .probeAck
  | .dropNotice _ _ _ => .dropNotice
  | .hbmRefresh _ _ => .hbmRefresh
  | .invalidationStart _ => .invalidationStart
  | .invalidationComplete _ => .invalidationComplete
  | .migrationStart _ => .migrationStart
  | .migrationEnd _ => .migrationEnd
  | .hotnessHalving => .hotnessHalving
  | .orderedOverflow _ => .orderedOverflow
  | .orddrop _ _ => .orddrop
  | .copyDescriptorStart _ _ _ => .copyDescriptorStart
  | .copyReadComplete _ _ _ => .copyReadComplete
  | .deliveryCount _ _ _ _ _ => .deliveryCount
  | .outCopyEnd _ _ _ => .outCopyEnd
  | .handleWaiterWake _ _ => .handleWaiterWake
  | .pipeRequestArrival _ => .pipeRequestArrival
  | .pipeCounterChange _ _ => .pipeCounterChange
  | .tileSpill _ => .tileSpill
  | .deadlockDeclaration _ => .deadlockDeclaration
  | .stagingTransfer _ => .stagingTransfer
  | .tileArrival _ _ _ => .tileArrival
  | .creditReport _ _ => .creditReport
  | .stagingAck _ => .stagingAck
  | .jobStart _ _ _ => .jobStart
  | .jobLastRead _ _ _ => .jobLastRead
  | .engineArrival _ _ _ _ => .engineArrival
  | .jobComplete _ _ _ => .jobComplete
  | .selfTest _ _ _ => .selfTest
  | .controlStoreLoad _ => .controlStoreLoad
  | .barrierPhaseAdvance _ => .barrierPhaseAdvance
  | .barrierWaiterRelease _ => .barrierWaiterRelease
  | .tlSigComplete _ _ _ _ _ => .tlSigComplete
  | .timelineWaiterWake _ _ => .timelineWaiterWake
  | .tidelineBatchApply _ _ => .tidelineBatchApply
  | .frontierRecompute _ => .frontierRecompute
  | .frontierWaiterRelease _ _ => .frontierWaiterRelease
  | .tidelineHeldTimeout _ => .tidelineHeldTimeout
  | .taskRequestArrival _ => .taskRequestArrival
  | .taskVerdictReturn _ => .taskVerdictReturn
  | .ualinkReplay _ => .ualinkReplay
  | .ualinkPortFail _ => .ualinkPortFail
  | .ualinkPortRetrain _ => .ualinkPortRetrain
  | .ualinkRouteTimeout _ => .ualinkRouteTimeout
  | .sendEligible _ => .sendEligible
  | .dataPeriodStart => .dataPeriodStart
  | .guardInterval => .guardInterval
  | .frameReceive _ => .frameReceive
  | .frameAckReceive _ _ _ => .frameAckReceive
  | .controlMessage _ => .controlMessage
  | .circuitRequestArrival _ _ => .circuitRequestArrival
  | .tableActivation => .tableActivation
  | .circuitRequestWithdraw _ => .circuitRequestWithdraw
  | .receiveWindowEnable _ _ => .receiveWindowEnable
  | .childPartialArrival _ _ _ _ _ _ => .childPartialArrival
  | .reduceBlockEnd _ _ => .reduceBlockEnd
  | .commitRequest _ _ _ => .commitRequest
  | .broadcastArrival _ _ _ _ => .broadcastArrival
  | .redoRequest _ _ => .redoRequest
  | .redo _ _ => .redo
  | .collectiveFail _ _ => .collectiveFail
  | .faultRecordWrite _ => .faultRecordWrite
  | .drainEnd _ => .drainEnd
  | .forceCycle _ => .forceCycle
  | .quiesce _ => .quiesce
  | .groupResourcesFree _ => .groupResourcesFree
  | .launchRetire _ => .launchRetire
  | .planRetire _ => .planRetire
  | .engineReset _ _ => .engineReset
  | .channelReset _ _ => .channelReset
  | .walkerReset _ => .walkerReset
  | .tidelineNodeReset _ => .tidelineNodeReset
  | .coreReset _ _ => .coreReset
  | .dieReset _ _ => .dieReset
  | .packageWarmReset => .packageWarmReset
  | .packageColdReset => .packageColdReset
  | .managementDomainReset => .managementDomainReset
  | .dieBoot _ => .dieBoot
  | .hbmChannelRecalibration _ _ => .hbmChannelRecalibration
  | .wavelengthRecalibration _ _ => .wavelengthRecalibration
  | .firmwareUpdate _ => .firmwareUpdate
  | .firmwareActivation _ => .firmwareActivation
  | .thermalEvent _ => .thermalEvent
  | .thermalReset _ => .thermalReset
  | .telemetryRead _ => .telemetryRead
  | .counterReadClear _ _ => .counterReadClear
  | .registerWrite _ _ _ => .registerWrite
  | .waitTimeClockReached _ => .waitTimeClockReached
  | .fqbaseWrite _ _ => .fqbaseWrite
  | .fqtailWrite _ _ => .fqtailWrite
  | .firmwareRestartEnd _ => .firmwareRestartEnd

end Sys2Proof
end

