-- ==== Sys2Proof/Machine/Bits.lean ====
section
/-! DEFINITION. Bit fields, byte order, sign extension and the type codes of Table 4-6. -/

namespace Sys2Proof.Machine

/-- The field [hi:lo] of a number (R5). -/
def bits (v hi lo : Nat) : Nat := (v >>> lo) % 2 ^ (hi + 1 - lo)

/-- The number `v` with field [hi:lo] replaced by `x` (R5). -/
def setBits (v hi lo x : Nat) : Nat :=
  let w := hi + 1 - lo
  v - (bits v hi lo) * 2 ^ lo + (x % 2 ^ w) * 2 ^ lo

/-- The bytes of a value of `n` bytes, at ascending addresses (R6). -/
def leBytes : Nat → Nat → List Byte
  | 0, _ => []
  | n + 1, v => BitVec.ofNat 8 v :: leBytes n (v / 256)

/-- The value whose bytes stand at ascending addresses (R6). -/
def leVal : List Byte → Nat
  | [] => 0
  | b :: bs => b.toNat + 256 * leVal bs

/-- A `w`-bit pattern read as two's complement. -/
def toSigned (w v : Nat) : Int :=
  let m := v % 2 ^ w
  if 2 * m < 2 ^ w then (m : Int) else (m : Int) - (2 ^ w : Nat)

/-- An integer reduced modulo 2^w, as a pattern. -/
def wrap (w : Nat) (x : Int) : Nat := (x % ((2 ^ w : Nat) : Int)).toNat

/-- Sat(x, lo, hi) of R11. -/
def sat (x lo hi : Int) : Int := if x < lo then lo else if hi < x then hi else x

/-- Quotient truncated toward zero (R167). -/
def truncDiv (a b : Int) : Int := Int.tdiv a b

/-- The lane numbers of a mask, ascending (R11). -/
def lanesOf (m : Lanes) : List Nat := (List.range 32).filter fun l => m.getLsbD l

/-- The mask of a list of lanes. -/
def maskOf (ls : List Nat) : Lanes := ls.foldl (fun m l => m ||| (1#32 <<< l)) 0#32

/-- Lowest lane of a mask, or 0. -/
def lowest (m : Lanes) : Nat := (lanesOf m).headD 0

/-- Type codes of Table 4-6. -/
inductive Ty where
  | s32 | n32 | s64 | n64 | s16 | n16 | s8 | n8 | b32 | b64 | b128 | f32 | f16 | bf16 | b16 | b8
  deriving DecidableEq, Repr, Inhabited

def Ty.ofCode (c : Nat) : Ty :=
  match c with
  | 0 => .s32 | 1 => .n32 | 2 => .s64 | 3 => .n64 | 4 => .s16 | 5 => .n16 | 6 => .s8 | 7 => .n8
  | 8 => .b32 | 9 => .b64 | 10 => .b128 | 11 => .f32 | 12 => .f16 | 13 => .bf16 | 14 => .b16 | _ => .b8

def Ty.code : Ty → Nat
  | .s32 => 0 | .n32 => 1 | .s64 => 2 | .n64 => 3 | .s16 => 4 | .n16 => 5 | .s8 => 6 | .n8 => 7
  | .b32 => 8 | .b64 => 9 | .b128 => 10 | .f32 => 11 | .f16 => 12 | .bf16 => 13 | .b16 => 14 | .b8 => 15

/-- Width in bits. -/
def Ty.width : Ty → Nat
  | .s32 | .n32 | .b32 | .f32 => 32
  | .s64 | .n64 | .b64 => 64
  | .s16 | .n16 | .f16 | .bf16 | .b16 => 16
  | .s8 | .n8 | .b8 => 8
  | .b128 => 128

def Ty.signed : Ty → Bool
  | .s32 | .s64 | .s16 | .s8 => true
  | _ => false

/-- g registers that an operand of the type occupies (R114, Table 8-8). -/
def Ty.regs (t : Ty) : Nat := if t.width = 128 then 4 else if t.width = 64 then 2 else 1

/-- SIZE code of Table 8-8. -/
def Ty.size (t : Ty) : Nat :=
  match t.width with
  | 8 => 0 | 16 => 1 | 32 => 2 | 64 => 3 | _ => 4

def Ty.min (t : Ty) : Int := if t.signed then -(2 ^ (t.width - 1) : Nat) else 0
def Ty.max (t : Ty) : Int := if t.signed then (2 ^ (t.width - 1) : Nat) - 1 else (2 ^ t.width : Nat) - 1

/-- A pattern read under the type's signedness. -/
def Ty.val (t : Ty) (v : Nat) : Int := if t.signed then toSigned t.width v else ((v % 2 ^ t.width : Nat) : Int)

/-! ### Instruction addresses (R94, R96) -/

/-- A valid instruction address (R94), of the 64-bit value that holds it. -/
def validAddr (a : Nat) : Bool :=
  a / 2 ^ 48 == 0 && [0, 12, 24, 36, 48].contains (a % 64)

def ixOf (a : Addr) : Nat := (a.toNat / 64) * 5 + (a.toNat % 64) / 12
def addrOf (i : Nat) : Addr := BitVec.ofNat 48 (((i / 5) % 2 ^ 42) * 64 + 12 * (i % 5))
/-- Next(a) of R96. -/
def nextPc (a : Addr) : Addr := addrOf (ixOf a + 1)
/-- Rel(a, d) of R96. -/
def relPc (a : Addr) (d : BitVec 32) : Addr :=
  addrOf (((((ixOf a : Int) + 1 + d.toInt) % ((5 * 2 ^ 42 : Nat) : Int))).toNat)

end Sys2Proof.Machine
end

