-- ==== Sys2Proof/Machine/Forms.lean ====
section
/-! DEFINITION. The encoding tables of the chapters as data: for each operation, which operand kinds,
types, widths and option bits its fields accept, and the decode checks 1 and 3 to 7 of Table 4-9 made from them. -/

namespace Sys2Proof.Machine

/-- Operand kinds of Tables 4-4 and 4-5; `z` is the field 0x0000 standing for none. -/
inductive Kd where
  | g | k | i | p | j | b | h | w | tc | sr | ts | z
  deriving DecidableEq, Repr

/-- How many registers an operand spans: fixed, by the operation's type, by A's source type, by the
type of a compare option, twice the type, or a base by SPACE. -/
inductive Wd where
  | n (r : Nat) | t | src | cmp | dbl | base
  deriving DecidableEq, Repr

/-- Source modifiers accepted (R113, R204): none, bit 13 on signed types, both, half select, p complement,
or reserved under R222. -/
inductive Md where
  | no | neg | absNeg | half | compl | no5
  deriving DecidableEq, Repr

/-- What SUB of a g or k operand holds: zero, the operation's type code, the rounding control of R202
with the largest RM and whether FTZ is accepted, or a source type. -/
inductive Sb where
  | zero | ty | rc (maxRm : Nat) (ftz : Bool) | src (ts : List Ty)
  deriving DecidableEq, Repr

inductive Acc where
  | rd | wr | rw
  deriving DecidableEq, Repr

/-- One operand field of an operation. -/
inductive FSpec where
  | zero
  | opt (mask : Nat)
  | opd (acc : Acc) (ks : List Kd) (w : Wd) (md : Md) (sb : Sb)
  deriving DecidableEq, Repr

/-- The B field of an operation (R115). -/
inductive BSpec where
  | reg (c b : FSpec)
  | imm
  | mem (ords : List Nat) (spaces : List Bool) (scopes : List Nat) (sizes : List Nat) (agree atop : Bool)
  deriving DecidableEq, Repr

structure Form where
  d : FSpec
  a : FSpec
  b : BSpec
  /-- type codes accepted in D's SUB; empty where the operation has none -/
  types : List Ty
  deriving DecidableEq, Repr

/-! ### The fields of an instruction word -/

inductive BField where
  | reg (c b : Opd)
  | imm (v : BitVec 32)
  | mem (ord : BitVec 2) (scope evict : BitVec 3) (space : Bool) (size : BitVec 3) (off : BitVec 20)
  deriving DecidableEq, Repr, Inhabited

/-- A word taken apart (Table 4-3). -/
structure View where
  cls : Nat
  opn : Nat
  h   : Hdr
  d   : Opd
  a   : Opd
  b   : BField
  deriving DecidableEq, Repr, Inhabited

end Sys2Proof.Machine

namespace Sys2Proof

open Machine (View)

def RegForm.view (cls opn : Nat) (h : Hdr) (o : RegForm) : View := ⟨cls, opn, h, o.d, o.a, .reg o.c o.b⟩
def ImmForm.view (cls opn : Nat) (h : Hdr) (o : ImmForm) : View := ⟨cls, opn, h, o.d, o.a, .imm o.imm⟩
def MemForm.view (cls opn : Nat) (h : Hdr) (o : MemForm) : View :=
  ⟨cls, opn, h, o.d, o.a, .mem o.ord o.scope o.evict o.space o.size o.off⟩

/-- Operand field of 16 bits (Table 4-4). -/
def Opd.ofBits (x : BitVec 16) : Opd :=
  match (x.extractLsb' 14 2).toNat with
  | 0 => .g (x.extractLsb' 12 2) (x.extractLsb' 8 4) (x.extractLsb' 0 8)
  | 1 => .k (x.extractLsb' 12 2) (x.extractLsb' 8 4) (x.extractLsb' 0 8)
  | 2 => .f (x.extractLsb' 12 2) (x.extractLsb' 8 4) (x.extractLsb' 0 8)
  | _ => .i (x.extractLsb' 0 14)

def Opd.toBits : Opd → BitVec 16
  | .g m s n => 0#2 ++ m ++ s ++ n
  | .k m s n => 1#2 ++ m ++ s ++ n
  | .f m s n => 2#2 ++ m ++ s ++ n
  | .i v => 3#2 ++ v

/-- The field 0x0000. -/
def Opd.none0 : Opd := .g 0 0 0

def Opd.isNone (o : Opd) : Bool := o == Opd.none0

/-- SUB of a g or k operand. -/
def Opd.sub : Opd → Nat
  | .g _ s _ | .k _ s _ | .f _ s _ => s.toNat
  | .i _ => 0

def Opd.mod : Opd → BitVec 2
  | .g m _ _ | .k m _ _ | .f m _ _ => m
  | .i _ => 0

/-- The register or file index. -/
def Opd.idx : Opd → Nat
  | .g _ _ n | .k _ _ n | .f _ _ n => n.toNat
  | .i _ => 0

/-- The value of an option field: [13:0], 0x0000 reading as 0 (R153). -/
def Opd.opt : Opd → Nat
  | .i v => v.toNat
  | _ => 0

/-- Tensor slot number of a ts operand (Table 4-5). -/
def Opd.tsNum : Opd → Nat
  | .f _ s n => 256 * (s.toNat - 8) + n.toNat
  | _ => 0

end Sys2Proof

namespace Sys2Proof.Machine

/-- Type code in D's SUB. -/
def View.ty (v : View) : Ty := Ty.ofCode v.d.sub

/-! ### The tables -/

def dst (ks : List Kd) (w : Wd := .t) : FSpec := .opd .wr ks w .no .ty
def srcF (ks : List Kd) (w : Wd := .t) (md : Md := .no) : FSpec := .opd .rd ks w md .zero
/-- A short immediate, handle, port or other operand that is no register. -/
def lit (ks : List Kd) : FSpec := .opd .rd ks (.n 1) .no .zero
def gki : List Kd := [.g, .k, .i]
def i4 : List Ty := [.s32, .n32, .s64, .n64]
def bb : List Ty := [.b32, .b64]
def noB : BSpec := .reg .zero .zero
def pd : FSpec := .opd .wr [.p] (.n 1) .no .zero
def psrc : FSpec := .opd .rd [.p] (.n 1) .compl .zero

def form0 (opn : Nat) : Option Form :=
  match opn with
  | 0 | 8 | 9 => some ⟨.zero, .zero, noB, []⟩
  | 1 | 11 => some ⟨.zero, .zero, .imm, []⟩
  | 2 => some ⟨dst [.g, .z] (.n 2), srcF [.g] (.n 2), noB, [.b64]⟩
  | 3 => some ⟨dst [.g] (.n 2), .zero, .imm, [.b64]⟩
  | 4 => some ⟨.zero, srcF [.g] (.n 2), noB, []⟩
  | 5 => some ⟨.zero, .opd .rd [.j] (.n 1) .no .zero, noB, []⟩
  | 6 => some ⟨.opd .wr [.j] (.n 1) .no .zero, srcF [.k, .z] (.n 1), noB, []⟩
  | 7 => some ⟨.opd .wr [.j] (.n 1) .no .zero, .zero, noB, []⟩
  | 10 => some ⟨.zero, .zero, .imm, []⟩
  | 12 => some ⟨lit [.i], srcF [.g] (.n 2), .reg .zero (srcF gki (.n 1)), []⟩
  | 13 => some ⟨.zero, srcF [.g] (.n 2), .imm, []⟩
  | _ => none

def form1 (opn : Nat) : Option Form :=
  match opn with
  | 0 | 1 => some ⟨dst [.g], srcF gki .t .neg, .reg (.opt 1) (srcF gki .t .neg), i4⟩
  | 2 | 3 | 6 | 7 | 10 | 11 => some ⟨dst [.g], srcF gki, .reg .zero (srcF gki), i4⟩
  | 4 => some ⟨dst [.g], srcF gki .t .neg, .reg (srcF gki .t .neg) (srcF gki), i4⟩
  | 5 => some ⟨dst [.g], srcF gki (.n 1), .reg (srcF gki .t) (srcF gki (.n 1)), [.s64, .n64]⟩
  | 8 => some ⟨dst [.g], srcF gki, .reg (.opt 1) .zero, i4⟩
  | 9 => some ⟨dst [.g], srcF gki, .reg (.opt 1) .zero, [.s32, .s64]⟩
  | 12 | 13 => some ⟨dst [.g], srcF gki, .reg (srcF gki) (srcF gki), i4⟩
  | 14 => some ⟨dst [.g], srcF [.g], .reg .zero (srcF gki (.n 1)), [.n64]⟩
  | 15 => some ⟨dst [.g], srcF [.g], .reg (lit [.i]) (srcF gki (.n 1)), [.n64]⟩
  | 16 => some ⟨dst [.g], srcF gki, noB, [.b32, .b64, .b128]⟩
  | 17 => some ⟨dst [.g], .zero, .imm, [.s32, .n32, .b32, .f32, .s64, .n64]⟩
  | 18 => some ⟨dst [.g] (.n 2), .zero, .imm, [.b64]⟩
  | 19 => some ⟨dst [.g], srcF gki, .reg psrc (srcF gki), bb⟩
  | _ => none

def form2 (opn : Nat) : Option Form :=
  match opn with
  | 0 | 1 | 2 => some ⟨dst [.g], srcF gki, .reg .zero (srcF gki), bb⟩
  | 3 | 13 => some ⟨dst [.g], srcF gki, noB, bb⟩
  | 4 => some ⟨dst [.g], srcF [.g], .imm, bb⟩
  | 5 | 6 | 7 | 8 => some ⟨dst [.g], srcF gki, .reg .zero (srcF gki (.n 1)), bb⟩
  | 9 | 16 => some ⟨dst [.g], srcF gki, .reg (srcF gki) (srcF gki), [.b32]⟩
  | 10 | 11 | 12 => some ⟨dst [.g] (.n 1), srcF gki, noB, bb⟩
  | 14 => some ⟨dst [.g], srcF gki, .reg .zero (srcF gki (.n 1)), i4⟩
  | 15 => some ⟨dst [.g], srcF gki, .reg (srcF gki (.n 1)) (srcF gki), bb⟩
  | 17 => some ⟨dst [.g], srcF gki, .reg .zero (srcF gki (.n 1)), bb⟩
  | _ => none

def form3 (opn : Nat) : Option Form :=
  match opn with
  | 0 => some ⟨pd, srcF gki .cmp, .reg (.opt 0x3FF7) (srcF gki .cmp), []⟩
  | 1 => some ⟨pd, srcF [.g, .k] .cmp, .reg (.opt 0x3FFF) (srcF gki .cmp), []⟩
  | 2 => some ⟨pd, .zero, .imm, []⟩
  | 3 => some ⟨dst [.g], .zero, noB, [.b32]⟩
  | 4 => some ⟨.zero, srcF gki (.n 1), .reg .zero (srcF gki (.n 1)), []⟩
  | 5 => some ⟨dst [.g, .k], psrc, noB, [.b32]⟩
  | 6 => some ⟨pd, psrc, .imm, []⟩
  | _ => none

def redTypes : List Ty := [.s32, .n32, .s64, .n64, .b32, .b64, .f32]

def form4 (opn : Nat) : Option Form :=
  match opn with
  | 0 => some ⟨dst [.g], srcF [.g], .reg (.opt 0x1F) (srcF gki (.n 1)), bb⟩
  | 1 => some ⟨dst [.g, .k], srcF [.g], .reg .zero (srcF [.k, .i] (.n 1)), bb⟩
  | 2 => some ⟨dst [.g, .k], srcF [.g], .reg (.opt 0xF) .zero, redTypes⟩
  | 3 => some ⟨dst [.g], srcF [.g], .reg (.opt 0x1F) .zero, redTypes⟩
  | 4 => some ⟨dst [.g] (.n 1), srcF [.g], noB, bb⟩
  | 5 => some ⟨dst [.k], srcF gki, noB, bb⟩
  | 6 => some ⟨dst [.k], srcF [.k], .reg (.opt 1) (srcF [.k, .i]), i4⟩
  | 7 => some ⟨pd, srcF [.k] .cmp, .reg (.opt 0x3FF7) (srcF [.k, .i] .cmp), []⟩
  | 8 => some ⟨dst [.k], srcF [.k] .base, .mem [0, 1, 2, 3] [false, true] [0,1,2,3,4,5,6] [2, 3] true false,
      [.b32, .n32, .s32, .b64, .n64, .s64]⟩
  | 9 => some ⟨dst [.g, .k], lit [.sr], noB, bb⟩
  | 10 => some ⟨.opd .wr [.sr] (.n 1) .no .zero, srcF gki (.n 1), noB, []⟩
  | 11 => some ⟨dst [.g, .k], .zero, noB, [.b64]⟩
  | _ => none

/-- A g or k source whose SUB is the rounding control (R202). -/
def rcF (maxRm : Nat) (ftz : Bool) (md : Md) : FSpec := .opd .rd [.g, .k] (.n 1) md (.rc maxRm ftz)

def form5 (opn : Nat) : Option Form :=
  let f := srcF gki (.n 1) .absNeg
  let d := dst [.g]
  match opn with
  | 0 | 1 | 2 | 9 => some ⟨d, rcF 4 true .absNeg, .reg .zero f, [.f32]⟩
  | 3 => some ⟨d, rcF 4 true .absNeg, .reg f f, [.f32]⟩
  | 4 | 5 => some ⟨d, rcF 0 true .absNeg, .reg .zero f, [.f32]⟩
  | 6 | 7 | 10 | 11 | 12 | 13 | 14 => some ⟨d, rcF 0 true .absNeg, noB, [.f32]⟩
  | 8 | 17 => some ⟨d, rcF 4 true .absNeg, noB, [.f32]⟩
  | 15 => some ⟨d, rcF 0 false .no5, noB, [.b32]⟩
  | 16 => some ⟨d, rcF 4 true .absNeg, .reg .zero (srcF gki (.n 1) .no5), [.f32]⟩
  | _ => none

def form6 (opn : Nat) : Option Form :=
  let t : Ty := if opn < 8 then .f16 else .bf16
  let h := srcF gki (.n 1) .half
  match opn % 8 with
  | 0 | 1 => if opn < 16 then some ⟨dst [.g], rcF 4 true .half, .reg .zero h, [t]⟩ else none
  | 2 => if opn < 16 then some ⟨dst [.g], rcF 4 true .half, .reg h h, [t]⟩ else none
  | 3 | 4 => if opn < 16 then some ⟨dst [.g], rcF 0 true .half, .reg .zero h, [t]⟩ else none
  | 5 => if opn < 16 then some ⟨dst [.g], rcF 4 true .half, .reg (srcF gki (.n 1) .no5) h, [.f32]⟩ else none
  | _ => none

/-- The types of `cvt` (R216). -/
def cvtTypes : List Ty := [.s32, .n32, .s64, .n64, .s16, .n16, .s8, .n8, .f16, .bf16, .f32]

def form7 (opn : Nat) : Option Form :=
  match opn with
  | 0 => some ⟨dst [.g], .opd .rd [.g, .k] .src .no (.src cvtTypes), .reg (.opt 0x1F) .zero, cvtTypes⟩
  | 1 => some ⟨dst [.g], srcF [.g, .k] (.n 1), .reg (.opt 0x1FE8) (srcF gki (.n 1)), [.s32]⟩
  | 2 => some ⟨dst [.g], srcF [.g, .k] (.n 1), .reg (.opt 0x3C1F) (srcF gki (.n 1)), [.f32]⟩
  | 3 => some ⟨dst [.g], srcF [.g, .k] (.n 1), .reg (.opt 0x1FFF) (srcF [.g, .k, .i] (.n 1)), [.b32]⟩
  | 4 => some ⟨dst [.g], srcF [.g, .k] (.n 1), .reg (.opt 0x1FE8) .zero, [.s32, .b64]⟩
  | 5 => some ⟨dst [.g, .k], .opd .rd [.g] (.n 1) .no (.src [.f32, .f16, .bf16]),
      .reg (.opt 0x8) (srcF [.g, .z] (.n 1)), [.f32]⟩
  | _ => none

def allSc : List Nat := [0, 1, 2, 3, 4, 5, 6]
def memTypes : List Ty :=
  [.s8, .n8, .b8, .s16, .n16, .b16, .f16, .bf16, .s32, .n32, .b32, .f32, .s64, .n64, .b64, .b128]
def sz5 : List Nat := [0, 1, 2, 3, 4]
def baseF : FSpec := srcF [.g] .base
def dataF : FSpec := .opd .rd [.g] .t .no .ty

def form8 (opn : Nat) : Option Form :=
  match opn with
  | 0 => some ⟨dst [.g], baseF, .mem [0, 1, 2, 3] [false, true] allSc sz5 true false, memTypes⟩
  | 1 => some ⟨dataF, baseF, .mem [0, 1, 2, 3] [false, true] allSc sz5 true false, memTypes⟩
  | 2 => some ⟨dst [.g] (.n 2), baseF, .mem [1, 2] [false, true] allSc [0, 1, 2] false false, [.b64]⟩
  | 3 => some ⟨dataF, baseF, .mem [0, 1] [false, true] allSc sz5 true false, memTypes⟩
  | 4 => some ⟨dst [.g], baseF, .mem [0, 1] [false, true] allSc sz5 true false, memTypes⟩
  | 5 => some ⟨.opt 0x1F, srcF [.g] (.n 2), .mem [0] [false] [0] [0] false false, []⟩
  | 6 => some ⟨.opt 0x3C1F, srcF [.g] (.n 2), .mem [0] [false] [0] [0] false false, []⟩
  | _ => none

def form9 (opn : Nat) : Option Form :=
  match opn with
  | 0 => some ⟨.opd .rw [.g] .t .no .ty, baseF, .mem [0, 1, 2, 3] [false, true] allSc [2, 3] true true,
      [.s32, .n32, .s64, .n64, .b32, .b64, .f32]⟩
  | 1 => some ⟨dataF, baseF, .mem [0, 1, 2, 3] [false, true] allSc [2, 3] true true,
      [.s32, .n32, .s64, .n64, .b32, .b64, .f32]⟩
  | 2 => some ⟨.opd .rw [.g] .dbl .no .ty, baseF, .mem [0, 1, 2, 3] [false, true] allSc [2, 3] true false, bb⟩
  | 3 => some ⟨dataF, srcF [.g] (.n 2), .mem [0, 1] [false] [0] [2] true false, [.f32]⟩
  | 4 => some ⟨lit [.i], .zero, noB, []⟩
  | 5 => some ⟨.zero, .zero, .imm, []⟩
  | _ => none

def form10 (opn : Nat) : Option Form :=
  match opn with
  | 0 => some ⟨lit [.h], baseF, .mem [0] [false, true] [0] [2, 3, 4] false false, []⟩
  | 1 => some ⟨lit [.h], srcF [.g] (.n 4), .reg (.opt 0xFFF) (lit [.ts]), []⟩
  | 2 => some ⟨lit [.h], srcF [.g] (.n 2), .reg (lit [.h]) (srcF [.g] (.n 2)), []⟩
  | 3 => some ⟨lit [.h], srcF [.g, .k, .i, .z] (.n 1), .reg (.opt 0xFF) (srcF [.g, .k, .i, .z] (.n 1)), []⟩
  | 4 => some ⟨lit [.h], .zero, .reg (.opt 3) .zero, []⟩
  | 5 => some ⟨dst [.g] (.n 2), lit [.h], noB, [.b64]⟩
  | 6 => some ⟨dst [.g] (.n 1), lit [.h], .reg (.opt 1) (srcF [.g, .k, .i, .z] (.n 1)), [.n32]⟩
  | _ => none

def form11 (opn : Nat) : Option Form :=
  match opn with
  | 0 | 2 => some ⟨dst [.g, .k] (.n 2), lit [.w], noB, [.b64]⟩
  | 1 | 3 => some ⟨.zero, srcF [.g, .k] (.n 2), noB, []⟩
  | 4 => some ⟨lit [.h], srcF [.g, .k] (.n 2), .reg (.opt 3) .zero, []⟩
  | 5 => some ⟨dst [.g], lit [.w], noB, bb⟩
  | 6 => some ⟨.zero, lit [.w], .reg .zero (srcF gki (.n 1)), []⟩
  | 7 => some ⟨.zero, lit [.w], noB, []⟩
  | _ => none

def form12 (opn : Nat) : Option Form :=
  let d := lit [.tc, .z]
  let q := srcF [.g] (.n 4)
  let p := srcF [.g] (.n 2)
  match opn with
  | 0 | 3 => some ⟨d, q, .reg .zero p, []⟩
  | 1 => some ⟨d, q, .reg (srcF [.g, .z] (.n 2)) p, []⟩
  | 2 => some ⟨d, q, .reg p p, []⟩
  | 4 => some ⟨d, q, noB, []⟩
  | 5 => some ⟨.zero, baseF, .mem [0, 1] [false, true] [0] [4] false false, []⟩
  | 6 => some ⟨lit [.h], lit [.b, .z], noB, []⟩
  | 7 => some ⟨dst [.g] (.n 2), .zero, .imm, [.b64]⟩
  | _ => none

def form13 (opn : Nat) : Option Form :=
  let s1 := srcF gki (.n 1)
  let time := srcF gki (.n 2)
  match opn with
  | 0 | 2 => some ⟨dst [.g, .z] (.n 1), lit [.b], noB, [.n32]⟩
  | 1 | 3 => some ⟨.zero, lit [.b], .reg .zero s1, []⟩
  | 4 => some ⟨.zero, lit [.b], .reg (.opt 0x78) (srcF [.g, .k, .i, .z] (.n 1)), []⟩
  | 8 => some ⟨dst [.g, .z] (.n 2), lit [.tc], noB, [.b64]⟩
  | 9 => some ⟨.zero, lit [.tc], .reg .zero time, []⟩
  | 10 => some ⟨dst [.g, .k] (.n 2), lit [.tc], .reg (.opt 1) .zero, [.b64]⟩
  | 16 => some ⟨.zero, time, noB, []⟩
  | 17 => some ⟨.zero, lit [.i], .reg .zero s1, []⟩
  | 18 => some ⟨.zero, time, .reg (.opt 1) .zero, []⟩
  | 19 => some ⟨.zero, srcF [.g, .k, .i, .z] (.n 2), .reg (.opt 1) .zero, []⟩
  | 20 => some ⟨dst [.g, .k] (.n 2), lit [.w, .i], noB, [.b64]⟩
  | 21 => some ⟨.zero, lit [.w, .i], .reg .zero time, []⟩
  | 24 | 25 => some ⟨.zero, s1, noB, []⟩
  | 26 => some ⟨dst [.g, .z] (.n 4), lit [.ts, .z], .reg (.opt 0x3F) (lit [.h, .z]), [.b128]⟩
  | _ => none

def form14 (opn : Nat) : Option Form :=
  let s1 := srcF gki (.n 1)
  match opn with
  | 0 => some ⟨lit [.tc, .z], srcF [.g] (.n 4), .reg (srcF [.g] (.n 2)) s1, []⟩
  | 1 => some ⟨dst [.g], s1, noB, [.n32]⟩
  | 2 => some ⟨dst [.g, .k], .zero, .reg (.opt 1) (srcF [.g, .k, .i, .z] (.n 1)), [.n32]⟩
  | 3 => some ⟨.zero, srcF [.g] (.n 2), noB, []⟩
  | 4 => some ⟨dst [.g] (.n 2), lit [.i], .reg .zero s1, [.b64]⟩
  | 8 => some ⟨.zero, s1, noB, []⟩
  | 9 => some ⟨dst [.g], srcF [.g, .k, .i, .z] (.n 1), .reg (.opt 1) .zero, [.n32]⟩
  | 10 => some ⟨dst [.g] (.n 2), s1, noB, [.b64]⟩
  | _ => none

def form15 (opn : Nat) : Option Form :=
  let tgt := srcF [.g] (.n 1)
  let s1 := srcF gki (.n 1)
  match opn with
  | 0 | 1 => some ⟨.zero, .zero, .imm, []⟩
  | 2 => some ⟨dst [.g], srcF [.g] (.n 2), .imm, [.n32]⟩
  | 3 => some ⟨.zero, .zero, noB, []⟩
  | 56 => some ⟨.zero, srcF [.g] (.n 4), noB, []⟩
  | 57 => some ⟨dst [.g] (.n 2), tgt, .reg .zero s1, [.b64]⟩
  | 58 => some ⟨.opd .rd [.g] (.n 2) .no .ty, tgt, .reg .zero s1, [.b64]⟩
  | 59 | 60 => some ⟨.zero, tgt, .reg .zero s1, []⟩
  | 61 | 62 => some ⟨.zero, tgt, .reg .zero (srcF [.g] (.n 2)), []⟩
  | 63 => some ⟨dst [.g], .zero, .imm, [.b32]⟩
  | _ => none

/-- The form of an operation, or none where Table 4-8 does not assign it. -/
def formOf (cls opn : Nat) : Option Form :=
  match cls with
  | 0 => form0 opn | 1 => form1 opn | 2 => form2 opn | 3 => form3 opn
  | 4 => form4 opn | 5 => form5 opn | 6 => form6 opn | 7 => form7 opn
  | 8 => form8 opn | 9 => form9 opn | 10 => form10 opn | 11 => form11 opn
  | 12 => form12 opn | 13 => form13 opn | 14 => form14 opn | 15 => form15 opn
  | _ => none

/-! ### The checks of Table 4-9 (check numbers; 0 where none fails) -/

/-- The lower of two failing checks, 0 standing for none. -/
def firstFail (a b : Nat) : Nat := if a = 0 then b else if b = 0 then a else min a b

def firstFails (l : List Nat) : Nat := l.foldl firstFail 0

def failIf (c : Bool) (n : Nat) : Nat := if c then n else 0

/-- The type that a compare option names (Table 6-6). -/
def cmpTy (opt : Nat) : Ty := Ty.ofCode (bits opt 7 4)

def View.opt (v : View) : Nat :=
  match v.b with
  | .reg c _ => c.opt
  | _ => 0

def View.bOpd (v : View) : Opd :=
  match v.b with
  | .reg _ b => b
  | _ => Opd.none0

def View.cOpd (v : View) : Opd :=
  match v.b with
  | .reg c _ => c
  | _ => Opd.none0

def View.imm (v : View) : Nat :=
  match v.b with
  | .imm x => x.toNat
  | _ => 0

def View.space (v : View) : Bool :=
  match v.b with
  | .mem _ _ _ s _ _ => s
  | _ => false

/-- Registers an operand spans. -/
def Wd.regs (v : View) : Wd → Nat
  | .n r => r
  | .t => v.ty.regs
  | .src => (Ty.ofCode v.a.sub).regs
  | .cmp => (cmpTy v.opt).regs
  | .dbl => 2 * v.ty.regs
  | .base => if v.space then 1 else 2

/-- Number of entries of a file (Tables 0-5, 4-5). -/
def fileKind (sel : Nat) : Option (Kd × Nat) :=
  match sel with
  | 0 => some (.p, 8) | 1 => some (.j, 8) | 2 => some (.b, 16) | 3 => some (.h, 64)
  | 4 => some (.w, 32) | 5 => some (.tc, 8) | 6 => some (.sr, 20)
  | 8 | 9 | 10 | 11 => some (.ts, 256)
  | _ => none

/-- Reserved MOD bits of a g or k source (R113, R204, R222). -/
def modFail (v : View) (md : Md) (m : BitVec 2) : Nat :=
  match md with
  | .no | .compl => failIf (m != 0) 3
  | .no5 => failIf (m != 0) 5
  | .neg => failIf (m.getLsbD 0 || (m.getLsbD 1 && !v.ty.signed)) 3
  | .absNeg | .half => 0

/-- SUB of a g or k operand (R114, R202). -/
def subFail (v : View) (types : List Ty) (sb : Sb) (s : Nat) : Nat :=
  match sb with
  | .zero => failIf (s != 0) 3
  | .ty => failIf (!types.contains v.ty) 5
  | .rc mx ftz => failIf (s % 8 > mx || (s ≥ 8 && !ftz)) 5
  | .src ts => failIf (!ts.contains (Ty.ofCode s)) 5

/-- Alignment of a register operand (R9, R152). -/
def alignFail (r n : Nat) (isG : Bool) : Nat :=
  failIf (n % r != 0 || (isG && r ≥ 2 && n == 255)) 6

/-- MOD of an operand of another file: bit 12 of a predicate complements, every other bit is reserved (Table 4-4). -/
def fileModFail (m : BitVec 2) (s : BitVec 4) : Nat := failIf (if s == 0 then m.getLsbD 1 else m != 0) 3

/-- A g or k operand where the entry accepts none: bits reserved in any operand come first (R117, log entry 88); SUB of a D field would be a type code. -/
def wrongKind (isD : Bool) (m : BitVec 2) (s : BitVec 4) : Nat := firstFails [failIf (m != 0 || (!isD && s != 0)) 3, 5]

/-- The check that a field fails; `isD`: it is the D field. -/
def fieldFail (v : View) (types : List Ty) (isD : Bool) (s : FSpec) (o : Opd) : Nat :=
  match s with
  | .zero => failIf (!o.isNone) 3
  | .opt mask =>
    match o with
    | .i x => failIf (x.toNat &&& (0x3FFF ^^^ mask) != 0) 3
    | .f m s _ => firstFails [fileModFail m s, failIf (fileKind s.toNat).isNone 4, 5]
    | .g m s _ | .k m s _ => if o.isNone then 0 else wrongKind isD m s
  | .opd _ ks w md sb =>
    if o.isNone && ks.contains .z then 0 else
    match o with
    | .g m s n => if !ks.contains .g then wrongKind isD m s else
        firstFails [modFail v md m, subFail v types sb s.toNat, alignFail (w.regs v) n.toNat true]
    | .k m s n => if !ks.contains .k then wrongKind isD m s else
        firstFails [modFail v md m, subFail v types sb s.toNat, failIf (n.toNat > 63) 5, alignFail (w.regs v) n.toNat false]
    | .i _ => failIf (!ks.contains .i) 5
    | .f m s n =>
      let mf := if isD then failIf (m != 0) 3 else fileModFail m s
      match fileKind s.toNat with
      | none => firstFails [mf, 4]
      | some (kd, lim) => firstFails [mf, failIf (!ks.contains kd || n.toNat ≥ lim) 5]

/-- Values that the entry of an operation does not accept, and reserved bits of its immediates,
beyond what the form says. -/
def extraFail (v : View) : Nat :=
  let o := v.opt
  let im := v.imm
  match v.cls, v.opn with
  | 0, 12 => failIf (match v.d with | .i x => x.toNat > 15 | _ => false) 5        -- R163
  | 0, 13 => failIf (im < 1 || im > 16) 5                                          -- R164
  | 1, 15 => failIf (match v.cOpd with | .i x => x.toNat > 31 | _ => false) 5      -- R169
  | 1, 16 => failIf (v.ty == .b128 && (match v.a with | .g .. => false | _ => true)) 5
  | 2, 4 =>                                                                        -- R171
    let r := v.ty.regs
    firstFails [failIf (bits im 7 0 != 0) 3, alignFail r (bits im 23 16) true, alignFail r (bits im 15 8) true]
  | 3, 0 | 4, 7 => failIf (bits o 13 10 > 5 || !i4.contains (cmpTy o)) 5           -- R176
  | 3, 1 => failIf (bits o 13 10 > 13 || !(cmpTy o == .f32 || cmpTy o == .f16 || cmpTy o == .bf16)) 5
  | 3, 2 => failIf (bits im 31 22 != 0) 3                                          -- R178
  | 3, 6 => failIf (bits im 31 7 != 0) 3                                           -- R180
  | 4, 0 => failIf (bits o 4 2 > 5) 5                                              -- R182
  | 4, 2 | 4, 3 =>                                                                 -- Table 6-10
    let op := bits o 3 0
    let t := v.ty
    failIf (!(if op ≤ 2 then i4.contains t else if op ≤ 5 then bb.contains t
      else if 8 ≤ op && op ≤ 10 then t == .f32 else false)) 5
  | 4, 9 =>                                                                        -- R189
    let w64 := v.a.idx == 4 || v.a.idx == 14
    failIf (v.ty != (if w64 then .b64 else .b32)) 5
  | 4, 10 => failIf (v.d.idx != 19) 5
  | 7, 0 =>                                                                        -- R216
    let isF (t : Ty) := t == .f32 || t == .f16 || t == .bf16
    let st := Ty.ofCode v.a.sub
    let dt := v.ty
    let exact := (!isF dt && !isF st) || (isF st && isF dt && (dt == st || dt == .f32))
    firstFails [failIf (bits o 2 0 > 4) 5, failIf (exact && bits o 2 0 != 0) 5,
      failIf (bits o 3 3 == 1 && !isF dt && !isF st) 5]
  | 7, 1 => firstFails [failIf (bits o 9 5 < 2 || bits o 9 5 > 16) 5, failIf (bits o 12 10 > 2) 5]
  | 7, 2 => firstFails [failIf (bits o 2 0 > 4) 5, failIf (bits o 12 10 > 2) 5]
  | 7, 3 =>                                                                        -- R219
    if bits o 12 10 == 0 then
      firstFails [failIf (bits o 9 5 < 2 || bits o 9 5 > 16) 5, failIf (bits o 4 0 != 0) 5, failIf (!v.bOpd.isNone) 3]
    else firstFails [failIf (bits o 12 10 > 2) 5, failIf (bits o 9 5 != 0) 3, failIf (bits o 2 0 > 4) 5]
  | 7, 4 =>                                                                        -- R220
    if bits o 12 10 == 0 then firstFails [failIf (bits o 9 5 < 1 || bits o 9 5 > 16) 5, failIf (v.ty != .s32) 5]
    else firstFails [failIf (bits o 12 10 > 2) 5, failIf (bits o 9 5 != 0) 3, failIf (v.ty != .b64) 5]
  | 7, 5 => failIf (Ty.ofCode v.a.sub != .f32 && !v.bOpd.isNone) 5                 -- R221
  | 8, 6 => failIf (bits v.d.opt 13 10 > 3) 5                                      -- R252
  | 9, 0 | 9, 1 =>                                                                 -- Table 8-10
    let at_ := match v.b with | .mem _ _ _ _ _ off => bits off.toNat 19 16 | _ => 0
    let t := v.ty
    failIf (!(if at_ ≤ 2 then i4.contains t else if at_ ≤ 5 then bb.contains t
      else if at_ == 6 then v.opn == 0 && bb.contains t
      else if 8 ≤ at_ && at_ ≤ 10 then t == .f32 else false)) 5
  | 9, 4 => failIf (match v.d with | .i x => !(x.toNat ≤ 3 || x.toNat == 7) | _ => false) 5
  | 9, 5 => firstFails [failIf (bits im 26 0 != 0) 3, failIf (bits im 29 27 == 7) 4, failIf (bits im 31 30 == 0) 5]
  | 10, 2 => failIf (v.d == v.cOpd) 5                                              -- Table 9-3
  | 10, 3 =>
    let arm := bits o 2 0 == 0
    firstFails [failIf (bits o 2 0 > 4) 5, failIf (!arm && bits o 7 3 != 0) 3,
      failIf (!arm && (!v.a.isNone || !v.bOpd.isNone)) 3]
  | 10, 6 => failIf (bits o 0 0 == 0 && !v.bOpd.isNone) 3
  | 11, 6 => failIf (match v.bOpd with | .i x => x.toNat < 1 || x.toNat > 256 | _ => false) 5
  | 12, 7 => failIf (im > 4) 5                                                     -- R327
  | 13, 4 =>                                                                       -- Table 11-7
    if bits o 3 3 == 0 then failIf (bits o 6 4 != 0) 5
    else if bits o 6 4 == 0 then failIf (!v.bOpd.isNone) 5
    else failIf (!(2 ≤ bits o 6 4 && bits o 6 4 ≤ 4)) 5
  | 13, 17 => failIf (match v.a with | .i x => x.toNat > 3 | _ => false) 5
  | 13, 19 => failIf (bits o 0 0 == 1 && !v.a.isNone) 3
  | 13, 26 =>
    let op := bits o 1 0
    firstFails [
      failIf (op != 0 && (!v.a.isNone || !v.bOpd.isNone)) 3,
      failIf (op == 0 && (v.a.isNone || v.bOpd.isNone)) 5,
      failIf (op < 2 && !v.d.isNone) 3, failIf (op ≥ 2 && v.d.isNone) 5,
      failIf (op == 3 && bits o 2 2 != 0) 3, failIf ((op == 1 || op == 2) && bits o 5 3 != 0) 3]
  | 14, 2 => failIf (bits o 0 0 == 0 && !v.bOpd.isNone) 3
  | 14, 4 => failIf (match v.a with | .i x => x.toNat > 3 | _ => false) 5
  | 14, 9 => failIf (bits o 0 0 == 1 && !v.a.isNone) 3
  | 15, 63 => failIf (im == 0 || im > 15) 5                                        -- R441
  | _, _ => 0

def memFail (v : View) (ords : List Nat) (spaces : List Bool) (scopes sizes : List Nat) (agree : Bool) : Nat :=
  match v.b with
  | .mem ord scope _ space size _ => firstFails
      [failIf (scope.toNat == 7 || size.toNat > 4) 4,
       failIf (!ords.contains ord.toNat || !spaces.contains space || !scopes.contains scope.toNat ||
         !sizes.contains size.toNat || (agree && size.toNat != v.ty.size)) 5]
  | _ => 3

/-- The first of checks 3 to 6 of Table 4-9 that a word's fields fail, 0 where none does. -/
def formFail (f : Form) (v : View) : Nat :=
  let fb := match f.b with
    | .reg c b => firstFail (fieldFail v f.types false c v.cOpd) (fieldFail v f.types false b v.bOpd)
    | .imm => 0
    | .mem ords spaces scopes sizes agree _ => memFail v ords spaces scopes sizes agree
  firstFails [fieldFail v f.types true f.d v.d, fieldFail v f.types false f.a v.a, fb, extraFail v]

/-- The check number that fails, from check 1 on; the privilege check 2 and check 7 are made by the machine. -/
def View.fail (v : View) : Nat :=
  match formOf v.cls v.opn with
  | none => 1
  | some f => formFail f v

/-- The detail of the illegal-instruction trap for a failed check (Table 4-9). -/
def checkDetail (check : Nat) : Nat := if check = 1 then 1 else check - 1

/-! ### Registers an instruction reads and writes (R144, R132, R27) -/

inductive RegName where
  | g (n : Nat) | k (n : Nat) | p (n : Nat) | j (n : Nat)
  deriving DecidableEq, Repr, Inhabited

def regSpan (mk : Nat → RegName) (n r : Nat) : List RegName := (List.range r).map fun i => mk (n + i)

def opdRegs (v : View) (w : Wd) (o : Opd) : List RegName :=
  match o with
  | .g _ _ n => regSpan .g n.toNat (w.regs v)
  | .k _ _ n => regSpan .k n.toNat (w.regs v)
  | .f _ s n => if s == 0 then [.p n.toNat] else if s == 1 then [.j n.toNat] else []
  | .i _ => []

def fieldRegs (wr must : Bool) (v : View) (s : FSpec) (o : Opd) : List RegName :=
  match s with
  | .opd acc ks w _ _ =>
    if o.isNone && ks.contains .z && !must then [] else
    if wr then (if acc == .rd then [] else opdRegs v w o) else (if acc == .wr then [] else opdRegs v w o)
  | _ => []

/-- `pack.planes` uses no B operand (R219). -/
def View.unusedB (v : View) : Bool := v.cls == 7 && v.opn == 3 && bits v.opt 12 10 == 0

/-- The operation that the option names takes an A operand: a field 0x0000 is then g0 (Tables 9-3, 12-5, 13-4). -/
def View.takesA (v : View) : Bool :=
  match v.cls, v.opn with
  | 10, 3 => bits v.opt 2 0 == 0
  | 13, 19 | 14, 9 => bits v.opt 0 0 == 0
  | _, _ => false

/-- The same of a B operand (Tables 9-3, 11-7, 13-4). -/
def View.takesB (v : View) : Bool :=
  match v.cls, v.opn with
  | 10, 3 => bits v.opt 2 0 == 0
  | 10, 6 | 14, 2 => bits v.opt 0 0 == 1
  | 13, 4 => bits v.opt 3 3 == 0 || bits v.opt 6 4 != 0
  | _, _ => false

def specRegs (wr : Bool) (v : View) : List RegName :=
  match formOf v.cls v.opn with
  | none => []
  | some f =>
    let fb := match f.b with
      | .reg c b => fieldRegs wr false v c v.cOpd ++ (if v.unusedB then [] else fieldRegs wr v.takesB v b v.bOpd)
      | _ => []
    fieldRegs wr false v f.d v.d ++ fieldRegs wr v.takesA v f.a v.a ++ fb

/-- The predicate that receives the complement: the second of a pair (R135), where the word has one. -/
def View.pe (v : View) : Option Nat :=
  match v.cls, v.opn with
  | 3, 0 | 3, 1 | 4, 7 => some (bits v.opt 2 0)
  | 3, 2 => some (bits v.imm 19 17)
  | 3, 6 => some (bits v.imm 4 2)
  | _, _ => none

/-- Registers read, beside the guard's predicates; p7 is no register (R9). Old predicate pair values are read under a combining
mode (R135). -/
def View.reads (v : View) : List RegName :=
  let im := v.imm
  let more : List RegName := match v.cls, v.opn with
    | 2, 4 => regSpan .g (bits im 23 16) v.ty.regs ++ regSpan .g (bits im 15 8) v.ty.regs
    | 3, 2 => [.p (bits im 10 8), .p (bits im 13 11), .p (bits im 16 14)]
    | 3, 3 => (List.range 7).map .p
    | _, _ => []
  (specRegs false v ++ more).filter (· != .p 7)

/-- Registers written; `m` is the lane's mask operand of `g2p` (R179). `movk` writes the odd register only (R170). -/
def View.writes (v : View) (m : Nat) : List RegName :=
  let base := specRegs true v
  let base := if v.cls == 1 && v.opn == 18 then base.drop 1 else base
  let base := if v.cls == 9 && v.opn == 2 then base.take v.ty.regs else base
  let preds : List RegName := (match v.pe with | some q => [.p q] | none => []) ++
    (if v.cls == 3 && v.opn == 4 then ((List.range 7).filter fun i => m.testBit i).map .p else [])
  (base ++ preds).filter (· != .p 7)

end Sys2Proof.Machine

namespace Sys2Proof

open Machine (RegName)

/-- Predicates read by the guard, other than p7 (R144). -/
def Hdr.preds (h : Hdr) : List RegName :=
  ([h.ga.toNat, h.gb.toNat, h.gc.toNat].filter (· != 7)).map .p

end Sys2Proof

namespace Sys2Proof.Machine

/-- True where every g register named lies below REGS (check 7, R27). -/
def View.regsOk (v : View) (regs : Nat) : Bool :=
  (v.reads ++ v.writes 0 ++ (if v.cls == 1 && v.opn == 18 then specRegs true v else [])).all fun r =>
    match r with
    | .g n => n < regs
    | _ => true

/-! ### The word of an instruction -/

/-- The fields of an Axivex instruction; none for an event. -/
def viewOf : Instr → Option View
  | .nop h o => some (o.view 0 0 h) | .bra h o => some (o.view 0 1 h) | .brx h o => some (o.view 0 2 h)
  | .call h o => some (o.view 0 3 h) | .ret h o => some (o.view 0 4 h) | .join h o => some (o.view 0 5 h)
  | .jset h o => some (o.view 0 6 h) | .jclr h o => some (o.view 0 7 h) | .exit h o => some (o.view 0 8 h)
  | .yield h o => some (o.view 0 9 h) | .sleep h o => some (o.view 0 10 h) | .fjmp h o => some (o.view 0 11 h)
  | .cfetch h o => some (o.view 0 12 h) | .prefi h o => some (o.view 0 13 h)
  | .iadd h o => some (o.view 1 0 h) | .isub h o => some (o.view 1 1 h) | .imul h o => some (o.view 1 2 h)
  | .imulhi h o => some (o.view 1 3 h) | .imad h o => some (o.view 1 4 h) | .imadw h o => some (o.view 1 5 h)
  | .idiv h o => some (o.view 1 6 h) | .irem h o => some (o.view 1 7 h) | .ineg h o => some (o.view 1 8 h)
  | .iabs h o => some (o.view 1 9 h) | .imin h o => some (o.view 1 10 h) | .imax h o => some (o.view 1 11 h)
  | .iclamp h o => some (o.view 1 12 h) | .isad h o => some (o.view 1 13 h) | .aadd h o => some (o.view 1 14 h)
  | .lea h o => some (o.view 1 15 h) | .mov h o => some (o.view 1 16 h) | .movi h o => some (o.view 1 17 h)
  | .movk h o => some (o.view 1 18 h) | .sel h o => some (o.view 1 19 h)
  | .and h o => some (o.view 2 0 h) | .or h o => some (o.view 2 1 h) | .xor h o => some (o.view 2 2 h)
  | .not h o => some (o.view 2 3 h) | .lop3 h o => some (o.view 2 4 h) | .shl h o => some (o.view 2 5 h)
  | .shr h o => some (o.view 2 6 h) | .sar h o => some (o.view 2 7 h) | .rot h o => some (o.view 2 8 h)
  | .shf h o => some (o.view 2 9 h) | .popc h o => some (o.view 2 10 h) | .clz h o => some (o.view 2 11 h)
  | .ctz h o => some (o.view 2 12 h) | .brev h o => some (o.view 2 13 h) | .bfe h o => some (o.view 2 14 h)
  | .bfi h o => some (o.view 2 15 h) | .prmt h o => some (o.view 2 16 h) | .sext h o => some (o.view 2 17 h)
  | .icmp h o => some (o.view 3 0 h) | .fcmp h o => some (o.view 3 1 h) | .pset h o => some (o.view 3 2 h)
  | .p2g h o => some (o.view 3 3 h) | .g2p h o => some (o.view 3 4 h) | .ballot h o => some (o.view 3 5 h)
  | .vote h o => some (o.view 3 6 h)
  | .shfl h o => some (o.view 4 0 h) | .bcast h o => some (o.view 4 1 h) | .tred h o => some (o.view 4 2 h)
  | .tscan h o => some (o.view 4 3 h) | .matchLanes h o => some (o.view 4 4 h) | .kmov h o => some (o.view 4 5 h)
  | .kadd h o => some (o.view 4 6 h) | .kcmp h o => some (o.view 4 7 h) | .kld h o => some (o.view 4 8 h)
  | .rdsr h o => some (o.view 4 9 h) | .wrsr h o => some (o.view 4 10 h) | .clk h o => some (o.view 4 11 h)
  | .fadd h o => some (o.view 5 0 h) | .fsub h o => some (o.view 5 1 h) | .fmul h o => some (o.view 5 2 h)
  | .ffma h o => some (o.view 5 3 h) | .fmin h o => some (o.view 5 4 h) | .fmax h o => some (o.view 5 5 h)
  | .frcp h o => some (o.view 5 6 h) | .frsq h o => some (o.view 5 7 h) | .fsqrt h o => some (o.view 5 8 h)
  | .fdiv h o => some (o.view 5 9 h) | .fex2 h o => some (o.view 5 10 h) | .flg2 h o => some (o.view 5 11 h)
  | .fsin h o => some (o.view 5 12 h) | .fcos h o => some (o.view 5 13 h) | .ftanh h o => some (o.view 5 14 h)
  | .fclass h o => some (o.view 5 15 h) | .fscale h o => some (o.view 5 16 h) | .frnd h o => some (o.view 5 17 h)
  | .hadd2F16 h o => some (o.view 6 0 h) | .hmul2F16 h o => some (o.view 6 1 h) | .hfma2F16 h o => some (o.view 6 2 h)
  | .hmin2F16 h o => some (o.view 6 3 h) | .hmax2F16 h o => some (o.view 6 4 h) | .hdot2F16 h o => some (o.view 6 5 h)
  | .hadd2Bf16 h o => some (o.view 6 8 h) | .hmul2Bf16 h o => some (o.view 6 9 h) | .hfma2Bf16 h o => some (o.view 6 10 h)
  | .hmin2Bf16 h o => some (o.view 6 11 h) | .hmax2Bf16 h o => some (o.view 6 12 h) | .hdot2Bf16 h o => some (o.view 6 13 h)
  | .cvt h o => some (o.view 7 0 h) | .quant h o => some (o.view 7 1 h) | .dequant h o => some (o.view 7 2 h)
  | .packPlanes h o => some (o.view 7 3 h) | .packPair h o => some (o.view 7 3 h)
  | .unpackPlanes h o => some (o.view 7 4 h) | .unpackPair h o => some (o.view 7 4 h) | .scalmax h o => some (o.view 7 5 h)
  | .ld h o => some (o.view 8 0 h) | .st h o => some (o.view 8 1 h) | .ldk h o => some (o.view 8 2 h)
  | .stc h o => some (o.view 8 3 h) | .lde h o => some (o.view 8 4 h) | .prefd h o => some (o.view 8 5 h)
  | .cctlIcinv h o | .cctlRdcinv h o | .cctlWb h o | .cctlWbinv h o => some (o.view 8 6 h)
  | .atom h o => some (o.view 9 0 h) | .red h o => some (o.view 9 1 h) | .cas h o => some (o.view 9 2 h)
  | .ordadd h o => some (o.view 9 3 h) | .flushord h o => some (o.view 9 4 h) | .fence h o => some (o.view 9 5 h)
  | .cpy h o => some (o.view 10 0 h) | .cpytIn h o | .cpytOut h o => some (o.view 10 1 h)
  | .cpycsr h o => some (o.view 10 2 h)
  | .bsetArm h o | .bsetClose h o | .bsetDrain h o | .bsetFree h o | .bsetReset h o => some (o.view 10 3 h)
  | .bwait h o => some (o.view 10 4 h) | .bquery h o => some (o.view 10 5 h)
  | .wptr h o | .wptrGe h o => some (o.view 10 6 h)
  | .pres h o => some (o.view 11 0 h) | .pcom h o => some (o.view 11 1 h) | .ptake h o => some (o.view 11 2 h)
  | .prel h o => some (o.view 11 3 h) | .pcpyIn h o | .pcpyOut h o => some (o.view 11 4 h)
  | .pquery h o => some (o.view 11 5 h) | .pspill h o => some (o.view 11 6 h) | .pdrain h o => some (o.view 11 7 h)
  | .mxLdb h o => some (o.view 12 0 h) | .mxMma h o => some (o.view 12 1 h) | .mxGmma h o => some (o.view 12 2 h)
  | .mxRd h o => some (o.view 12 3 h) | .mxClr h o => some (o.view 12 4 h) | .mxPost h o => some (o.view 12 5 h)
  | .mxRing h o => some (o.view 12 6 h) | .mxStat h o => some (o.view 12 7 h)
  | .barArr h o => some (o.view 13 0 h) | .barWait h o => some (o.view 13 1 h) | .barSync h o => some (o.view 13 2 h)
  | .barBytes h o => some (o.view 13 3 h)
  | .barMem h o | .barMemBind h o | .barMemUnbind h o => some (o.view 13 4 h)
  | .tlSig h o => some (o.view 13 8 h) | .tlWait h o => some (o.view 13 9 h) | .tlRd h o => some (o.view 13 10 h)
  | .ltSet h o => some (o.view 13 16 h) | .ltAdv h o => some (o.view 13 17 h)
  | .ltHold h o | .ltHoldRoot h o => some (o.view 13 18 h)
  | .ltDrop h o | .ltDropRoot h o => some (o.view 13 19 h)
  | .ltFront h o => some (o.view 13 20 h) | .ltAwait h o => some (o.view 13 21 h)
  | .tkPost h o => some (o.view 13 24 h) | .tkDone h o => some (o.view 13 25 h)
  | .tkArmBind h o | .tkArmUnbind h o | .tkArmTake h o | .tkArmTakeDirect h o => some (o.view 13 26 h)
  | .fxSend h o => some (o.view 14 0 h) | .fxCirc h o => some (o.view 14 1 h)
  | .fxGen h o | .fxGenNe h o => some (o.view 14 2 h)
  | .fxSlot h o => some (o.view 14 3 h) | .fxQstat h o => some (o.view 14 4 h)
  | .coFire h o => some (o.view 14 8 h) | .coAck h o | .coAckAll h o => some (o.view 14 9 h)
  | .coStat h o => some (o.view 14 10 h)
  | .trap h o => some (o.view 15 0 h) | .brk h o => some (o.view 15 1 h) | .sysc h o => some (o.view 15 2 h)
  | .wdkick h o => some (o.view 15 3 h) | .rte h o => some (o.view 15 56 h) | .rdwin h o => some (o.view 15 57 h)
  | .wrwin h o => some (o.view 15 58 h) | .park h o => some (o.view 15 59 h) | .unpark h o => some (o.view 15 60 h)
  | .csave h o => some (o.view 15 61 h) | .crest h o => some (o.view 15 62 h) | .halt h o => some (o.view 15 63 h)
  | _ => none

end Sys2Proof.Machine
end

