-- ==== Sys2Proof/WellFormed.lean ====
section
/-! DEFINITION. Well-formed instructions: every field holds a value that the entry of the operation accepts
(Table 4-9, checks 3 to 6), and the option bits that tell two rows of the opcode table apart name this row. -/

namespace Sys2Proof

open Machine

/-- The option bits that select among rows sharing one (CLASS, OPN) stand as the constructor says. -/
def Instr.subOp : Instr → Bool
  | .cctlIcinv _ o => bits o.d.opt 13 10 == 0
  | .cctlRdcinv _ o => bits o.d.opt 13 10 == 1
  | .cctlWb _ o => bits o.d.opt 13 10 == 2
  | .cctlWbinv _ o => bits o.d.opt 13 10 == 3
  | .packPlanes _ o => bits o.c.opt 12 10 == 0
  | .packPair _ o => bits o.c.opt 12 10 != 0
  | .unpackPlanes _ o => bits o.c.opt 12 10 == 0
  | .unpackPair _ o => bits o.c.opt 12 10 != 0
  | .cpytIn _ o => !o.c.opt.testBit 10
  | .cpytOut _ o => o.c.opt.testBit 10
  | .bsetArm _ o => bits o.c.opt 2 0 == 0
  | .bsetClose _ o => bits o.c.opt 2 0 == 1
  | .bsetDrain _ o => bits o.c.opt 2 0 == 2
  | .bsetFree _ o => bits o.c.opt 2 0 == 3
  | .bsetReset _ o => bits o.c.opt 2 0 == 4
  | .wptr _ o => !o.c.opt.testBit 0
  | .wptrGe _ o => o.c.opt.testBit 0
  | .pcpyIn _ o => !o.c.opt.testBit 0
  | .pcpyOut _ o => o.c.opt.testBit 0
  | .barMem _ o => !o.c.opt.testBit 3
  | .barMemBind _ o => o.c.opt.testBit 3 && bits o.c.opt 6 4 != 0
  | .barMemUnbind _ o => o.c.opt.testBit 3 && bits o.c.opt 6 4 == 0
  | .ltHold _ o => !o.c.opt.testBit 0
  | .ltHoldRoot _ o => o.c.opt.testBit 0
  | .ltDrop _ o => !o.c.opt.testBit 0
  | .ltDropRoot _ o => o.c.opt.testBit 0
  | .tkArmBind _ o => bits o.c.opt 1 0 == 0
  | .tkArmUnbind _ o => bits o.c.opt 1 0 == 1
  | .tkArmTake _ o => bits o.c.opt 1 0 == 2
  | .tkArmTakeDirect _ o => bits o.c.opt 1 0 == 3
  | .fxGen _ o => !o.c.opt.testBit 0
  | .fxGenNe _ o => o.c.opt.testBit 0
  | .coAck _ o => !o.c.opt.testBit 0
  | .coAckAll _ o => o.c.opt.testBit 0
  | _ => true

/-- An instruction that a word can hold; an event is well-formed as it stands. -/
def Instr.wf (i : Instr) : Bool :=
  match viewOf i with
  | none => true
  | some v => v.fail == 0 && i.subOp

end Sys2Proof
end

