-- ==== Sys2Proof/Decode.lean ====
section
/-! DEFINITION. Decoding of the 96-bit word (R110 to R117) and the encoder beside it. -/

namespace Sys2Proof

open Machine

/-- Why a word is no instruction: the checks of Table 4-9 that the word alone decides, by name. -/
inductive Reject where
  /-- check 1: (CLASS, OPN) is unassigned -/
  | unassigned
  /-- check 3: a reserved bit is not zero -/
  | reservedBit
  /-- check 4: a reserved SCOPE, SIZE, type code or file select -/
  | reservedCode
  /-- check 5: an operand kind, type or value that the entry does not accept -/
  | operandKind
  /-- check 6: a misaligned pair or quad -/
  | alignment
  deriving DecidableEq, Repr

def Reject.ofCheck (n : Nat) : Reject :=
  match n with
  | 1 => .unassigned | 3 => .reservedBit | 4 => .reservedCode | 5 => .operandKind | _ => .alignment

/-- Order number of the check in Table 4-9. -/
def Reject.check : Reject → Nat
  | .unassigned => 1 | .reservedBit => 3 | .reservedCode => 4 | .operandKind => 5 | .alignment => 6

/-- The guard, lookahead and yield fields (Table 4-3). -/
def hdrOf (w : W96) : Hdr :=
  { gtt := w.extractLsb' 78 8, ga := w.extractLsb' 75 3, gb := w.extractLsb' 72 3, gc := w.extractLsb' 69 3,
    la := w.extractLsb' 65 4, yld := w.getLsbD 64 }

/-- The B field in one of its three forms (R115). -/
def bFieldOf (s : BSpec) (w : W96) : BField :=
  match s with
  | .reg .. => .reg (Opd.ofBits (w.extractLsb' 16 16)) (Opd.ofBits (w.extractLsb' 0 16))
  | .imm => .imm (w.extractLsb' 0 32)
  | .mem .. => .mem (w.extractLsb' 30 2) (w.extractLsb' 27 3) (w.extractLsb' 24 3) (w.getLsbD 23)
      (w.extractLsb' 20 3) (w.extractLsb' 0 20)

def clsOf (w : W96) : Nat := (w.extractLsb' 92 4).toNat
def opnOf (w : W96) : Nat := (w.extractLsb' 86 6).toNat

/-- The word's fields; none where (CLASS, OPN) is unassigned. -/
def splitWord (w : W96) : Option View :=
  (formOf (clsOf w) (opnOf w)).map fun f =>
    ⟨clsOf w, opnOf w, hdrOf w, Opd.ofBits (w.extractLsb' 48 16), Opd.ofBits (w.extractLsb' 32 16), bFieldOf f.b w⟩

/-- The B field as its 32 bits. -/
def bBits : BField → BitVec 32
  | .reg c b => c.toBits ++ b.toBits
  | .imm v => v
  | .mem ord scope evict space size off => ord ++ scope ++ evict ++ BitVec.ofBool space ++ size ++ off

/-- The word of the fields (Table 4-3). -/
def joinWord (v : View) : W96 :=
  BitVec.ofNat 4 v.cls ++ BitVec.ofNat 6 v.opn ++ v.h.gtt ++ v.h.ga ++ v.h.gb ++ v.h.gc ++ v.h.la ++
    BitVec.ofBool v.h.yld ++ v.d.toBits ++ v.a.toBits ++ bBits v.b

/-- Class 0, operations whose B field is in register form. -/
def build0Reg (opn : Nat) (h : Hdr) (o : RegForm) : Option Instr :=
  match opn with
  | 0 => some (.nop h o)
  | 2 => some (.brx h o)
  | 4 => some (.ret h o)
  | 5 => some (.join h o)
  | 6 => some (.jset h o)
  | 7 => some (.jclr h o)
  | 8 => some (.exit h o)
  | 9 => some (.yield h o)
  | 12 => some (.cfetch h o)
  | _ => none

/-- Class 0, operations whose B field is in immediate form. -/
def build0Imm (opn : Nat) (h : Hdr) (o : ImmForm) : Option Instr :=
  match opn with
  | 1 => some (.bra h o)
  | 3 => some (.call h o)
  | 10 => some (.sleep h o)
  | 11 => some (.fjmp h o)
  | 13 => some (.prefi h o)
  | _ => none

/-- Class 1, operations whose B field is in register form. -/
def build1Reg (opn : Nat) (h : Hdr) (o : RegForm) : Option Instr :=
  match opn with
  | 0 => some (.iadd h o)
  | 1 => some (.isub h o)
  | 2 => some (.imul h o)
  | 3 => some (.imulhi h o)
  | 4 => some (.imad h o)
  | 5 => some (.imadw h o)
  | 6 => some (.idiv h o)
  | 7 => some (.irem h o)
  | 8 => some (.ineg h o)
  | 9 => some (.iabs h o)
  | 10 => some (.imin h o)
  | 11 => some (.imax h o)
  | 12 => some (.iclamp h o)
  | 13 => some (.isad h o)
  | 14 => some (.aadd h o)
  | 15 => some (.lea h o)
  | 16 => some (.mov h o)
  | 19 => some (.sel h o)
  | _ => none

/-- Class 1, operations whose B field is in immediate form. -/
def build1Imm (opn : Nat) (h : Hdr) (o : ImmForm) : Option Instr :=
  match opn with
  | 17 => some (.movi h o)
  | 18 => some (.movk h o)
  | _ => none

/-- Class 2, operations whose B field is in register form. -/
def build2Reg (opn : Nat) (h : Hdr) (o : RegForm) : Option Instr :=
  match opn with
  | 0 => some (.and h o)
  | 1 => some (.or h o)
  | 2 => some (.xor h o)
  | 3 => some (.not h o)
  | 5 => some (.shl h o)
  | 6 => some (.shr h o)
  | 7 => some (.sar h o)
  | 8 => some (.rot h o)
  | 9 => some (.shf h o)
  | 10 => some (.popc h o)
  | 11 => some (.clz h o)
  | 12 => some (.ctz h o)
  | 13 => some (.brev h o)
  | 14 => some (.bfe h o)
  | 15 => some (.bfi h o)
  | 16 => some (.prmt h o)
  | 17 => some (.sext h o)
  | _ => none

/-- Class 2, operations whose B field is in immediate form. -/
def build2Imm (opn : Nat) (h : Hdr) (o : ImmForm) : Option Instr :=
  match opn with
  | 4 => some (.lop3 h o)
  | _ => none

/-- Class 3, operations whose B field is in register form. -/
def build3Reg (opn : Nat) (h : Hdr) (o : RegForm) : Option Instr :=
  match opn with
  | 0 => some (.icmp h o)
  | 1 => some (.fcmp h o)
  | 3 => some (.p2g h o)
  | 4 => some (.g2p h o)
  | 5 => some (.ballot h o)
  | _ => none

/-- Class 3, operations whose B field is in immediate form. -/
def build3Imm (opn : Nat) (h : Hdr) (o : ImmForm) : Option Instr :=
  match opn with
  | 2 => some (.pset h o)
  | 6 => some (.vote h o)
  | _ => none

/-- Class 4, operations whose B field is in register form. -/
def build4Reg (opn : Nat) (h : Hdr) (o : RegForm) : Option Instr :=
  match opn with
  | 0 => some (.shfl h o)
  | 1 => some (.bcast h o)
  | 2 => some (.tred h o)
  | 3 => some (.tscan h o)
  | 4 => some (.matchLanes h o)
  | 5 => some (.kmov h o)
  | 6 => some (.kadd h o)
  | 7 => some (.kcmp h o)
  | 9 => some (.rdsr h o)
  | 10 => some (.wrsr h o)
  | 11 => some (.clk h o)
  | _ => none

/-- Class 4, operations whose B field is in memory form. -/
def build4Mem (opn : Nat) (h : Hdr) (o : MemForm) : Option Instr :=
  match opn with
  | 8 => some (.kld h o)
  | _ => none

/-- Class 5, operations whose B field is in register form. -/
def build5Reg (opn : Nat) (h : Hdr) (o : RegForm) : Option Instr :=
  match opn with
  | 0 => some (.fadd h o)
  | 1 => some (.fsub h o)
  | 2 => some (.fmul h o)
  | 3 => some (.ffma h o)
  | 4 => some (.fmin h o)
  | 5 => some (.fmax h o)
  | 6 => some (.frcp h o)
  | 7 => some (.frsq h o)
  | 8 => some (.fsqrt h o)
  | 9 => some (.fdiv h o)
  | 10 => some (.fex2 h o)
  | 11 => some (.flg2 h o)
  | 12 => some (.fsin h o)
  | 13 => some (.fcos h o)
  | 14 => some (.ftanh h o)
  | 15 => some (.fclass h o)
  | 16 => some (.fscale h o)
  | 17 => some (.frnd h o)
  | _ => none

/-- Class 6, operations whose B field is in register form. -/
def build6Reg (opn : Nat) (h : Hdr) (o : RegForm) : Option Instr :=
  match opn with
  | 0 => some (.hadd2F16 h o)
  | 1 => some (.hmul2F16 h o)
  | 2 => some (.hfma2F16 h o)
  | 3 => some (.hmin2F16 h o)
  | 4 => some (.hmax2F16 h o)
  | 5 => some (.hdot2F16 h o)
  | 8 => some (.hadd2Bf16 h o)
  | 9 => some (.hmul2Bf16 h o)
  | 10 => some (.hfma2Bf16 h o)
  | 11 => some (.hmin2Bf16 h o)
  | 12 => some (.hmax2Bf16 h o)
  | 13 => some (.hdot2Bf16 h o)
  | _ => none

/-- Class 7, operations whose B field is in register form. -/
def build7Reg (opn : Nat) (h : Hdr) (o : RegForm) : Option Instr :=
  match opn with
  | 0 => some (.cvt h o)
  | 1 => some (.quant h o)
  | 2 => some (.dequant h o)
  | 3 => if bits o.c.opt 12 10 == 0 then some (.packPlanes h o) else some (.packPair h o)
  | 4 => if bits o.c.opt 12 10 == 0 then some (.unpackPlanes h o) else some (.unpackPair h o)
  | 5 => some (.scalmax h o)
  | _ => none

/-- Class 8, operations whose B field is in memory form. -/
def build8Mem (opn : Nat) (h : Hdr) (o : MemForm) : Option Instr :=
  match opn with
  | 0 => some (.ld h o)
  | 1 => some (.st h o)
  | 2 => some (.ldk h o)
  | 3 => some (.stc h o)
  | 4 => some (.lde h o)
  | 5 => some (.prefd h o)
  | 6 => if bits o.d.opt 13 10 == 0 then some (.cctlIcinv h o) else if bits o.d.opt 13 10 == 1 then some (.cctlRdcinv h o) else if bits o.d.opt 13 10 == 2 then some (.cctlWb h o) else some (.cctlWbinv h o)
  | _ => none

/-- Class 9, operations whose B field is in register form. -/
def build9Reg (opn : Nat) (h : Hdr) (o : RegForm) : Option Instr :=
  match opn with
  | 4 => some (.flushord h o)
  | _ => none

/-- Class 9, operations whose B field is in immediate form. -/
def build9Imm (opn : Nat) (h : Hdr) (o : ImmForm) : Option Instr :=
  match opn with
  | 5 => some (.fence h o)
  | _ => none

/-- Class 9, operations whose B field is in memory form. -/
def build9Mem (opn : Nat) (h : Hdr) (o : MemForm) : Option Instr :=
  match opn with
  | 0 => some (.atom h o)
  | 1 => some (.red h o)
  | 2 => some (.cas h o)
  | 3 => some (.ordadd h o)
  | _ => none

/-- Class 10, operations whose B field is in register form. -/
def build10Reg (opn : Nat) (h : Hdr) (o : RegForm) : Option Instr :=
  match opn with
  | 1 => if !o.c.opt.testBit 10 then some (.cpytIn h o) else some (.cpytOut h o)
  | 2 => some (.cpycsr h o)
  | 3 => if bits o.c.opt 2 0 == 0 then some (.bsetArm h o) else if bits o.c.opt 2 0 == 1 then some (.bsetClose h o) else if bits o.c.opt 2 0 == 2 then some (.bsetDrain h o) else if bits o.c.opt 2 0 == 3 then some (.bsetFree h o) else some (.bsetReset h o)
  | 4 => some (.bwait h o)
  | 5 => some (.bquery h o)
  | 6 => if !o.c.opt.testBit 0 then some (.wptr h o) else some (.wptrGe h o)
  | _ => none

/-- Class 10, operations whose B field is in memory form. -/
def build10Mem (opn : Nat) (h : Hdr) (o : MemForm) : Option Instr :=
  match opn with
  | 0 => some (.cpy h o)
  | _ => none

/-- Class 11, operations whose B field is in register form. -/
def build11Reg (opn : Nat) (h : Hdr) (o : RegForm) : Option Instr :=
  match opn with
  | 0 => some (.pres h o)
  | 1 => some (.pcom h o)
  | 2 => some (.ptake h o)
  | 3 => some (.prel h o)
  | 4 => if !o.c.opt.testBit 0 then some (.pcpyIn h o) else some (.pcpyOut h o)
  | 5 => some (.pquery h o)
  | 6 => some (.pspill h o)
  | 7 => some (.pdrain h o)
  | _ => none

/-- Class 12, operations whose B field is in register form. -/
def build12Reg (opn : Nat) (h : Hdr) (o : RegForm) : Option Instr :=
  match opn with
  | 0 => some (.mxLdb h o)
  | 1 => some (.mxMma h o)
  | 2 => some (.mxGmma h o)
  | 3 => some (.mxRd h o)
  | 4 => some (.mxClr h o)
  | 6 => some (.mxRing h o)
  | _ => none

/-- Class 12, operations whose B field is in immediate form. -/
def build12Imm (opn : Nat) (h : Hdr) (o : ImmForm) : Option Instr :=
  match opn with
  | 7 => some (.mxStat h o)
  | _ => none

/-- Class 12, operations whose B field is in memory form. -/
def build12Mem (opn : Nat) (h : Hdr) (o : MemForm) : Option Instr :=
  match opn with
  | 5 => some (.mxPost h o)
  | _ => none

/-- Class 13, operations whose B field is in register form. -/
def build13Reg (opn : Nat) (h : Hdr) (o : RegForm) : Option Instr :=
  match opn with
  | 0 => some (.barArr h o)
  | 1 => some (.barWait h o)
  | 2 => some (.barSync h o)
  | 3 => some (.barBytes h o)
  | 4 => if !o.c.opt.testBit 3 then some (.barMem h o) else if o.c.opt.testBit 3 && bits o.c.opt 6 4 != 0 then some (.barMemBind h o) else some (.barMemUnbind h o)
  | 8 => some (.tlSig h o)
  | 9 => some (.tlWait h o)
  | 10 => some (.tlRd h o)
  | 16 => some (.ltSet h o)
  | 17 => some (.ltAdv h o)
  | 18 => if !o.c.opt.testBit 0 then some (.ltHold h o) else some (.ltHoldRoot h o)
  | 19 => if !o.c.opt.testBit 0 then some (.ltDrop h o) else some (.ltDropRoot h o)
  | 20 => some (.ltFront h o)
  | 21 => some (.ltAwait h o)
  | 24 => some (.tkPost h o)
  | 25 => some (.tkDone h o)
  | 26 => if bits o.c.opt 1 0 == 0 then some (.tkArmBind h o) else if bits o.c.opt 1 0 == 1 then some (.tkArmUnbind h o) else if bits o.c.opt 1 0 == 2 then some (.tkArmTake h o) else some (.tkArmTakeDirect h o)
  | _ => none

/-- Class 14, operations whose B field is in register form. -/
def build14Reg (opn : Nat) (h : Hdr) (o : RegForm) : Option Instr :=
  match opn with
  | 0 => some (.fxSend h o)
  | 1 => some (.fxCirc h o)
  | 2 => if !o.c.opt.testBit 0 then some (.fxGen h o) else some (.fxGenNe h o)
  | 3 => some (.fxSlot h o)
  | 4 => some (.fxQstat h o)
  | 8 => some (.coFire h o)
  | 9 => if !o.c.opt.testBit 0 then some (.coAck h o) else some (.coAckAll h o)
  | 10 => some (.coStat h o)
  | _ => none

/-- Class 15, operations whose B field is in register form. -/
def build15Reg (opn : Nat) (h : Hdr) (o : RegForm) : Option Instr :=
  match opn with
  | 3 => some (.wdkick h o)
  | 56 => some (.rte h o)
  | 57 => some (.rdwin h o)
  | 58 => some (.wrwin h o)
  | 59 => some (.park h o)
  | 60 => some (.unpark h o)
  | 61 => some (.csave h o)
  | 62 => some (.crest h o)
  | _ => none

/-- Class 15, operations whose B field is in immediate form. -/
def build15Imm (opn : Nat) (h : Hdr) (o : ImmForm) : Option Instr :=
  match opn with
  | 0 => some (.trap h o)
  | 1 => some (.brk h o)
  | 2 => some (.sysc h o)
  | 63 => some (.halt h o)
  | _ => none

def buildReg (cls opn : Nat) (h : Hdr) (o : RegForm) : Option Instr :=
  match cls with
  | 0 => build0Reg opn h o
  | 1 => build1Reg opn h o
  | 2 => build2Reg opn h o
  | 3 => build3Reg opn h o
  | 4 => build4Reg opn h o
  | 5 => build5Reg opn h o
  | 6 => build6Reg opn h o
  | 7 => build7Reg opn h o
  | 9 => build9Reg opn h o
  | 10 => build10Reg opn h o
  | 11 => build11Reg opn h o
  | 12 => build12Reg opn h o
  | 13 => build13Reg opn h o
  | 14 => build14Reg opn h o
  | 15 => build15Reg opn h o
  | _ => none

def buildImm (cls opn : Nat) (h : Hdr) (o : ImmForm) : Option Instr :=
  match cls with
  | 0 => build0Imm opn h o
  | 1 => build1Imm opn h o
  | 2 => build2Imm opn h o
  | 3 => build3Imm opn h o
  | 9 => build9Imm opn h o
  | 12 => build12Imm opn h o
  | 15 => build15Imm opn h o
  | _ => none

def buildMem (cls opn : Nat) (h : Hdr) (o : MemForm) : Option Instr :=
  match cls with
  | 4 => build4Mem opn h o
  | 8 => build8Mem opn h o
  | 9 => build9Mem opn h o
  | 10 => build10Mem opn h o
  | 12 => build12Mem opn h o
  | _ => none

/-- The instruction of a word's fields. -/
def build (v : View) : Option Instr :=
  match v.b with
  | .reg c b => buildReg v.cls v.opn v.h ⟨v.d, v.a, c, b⟩
  | .imm x => buildImm v.cls v.opn v.h ⟨v.d, v.a, x⟩
  | .mem ord scope evict space size off => buildMem v.cls v.opn v.h ⟨v.d, v.a, ord, scope, evict, space, size, off⟩

/-- The instruction of a word, or the first check of Table 4-9 that fails among those the word decides. -/
def decode (w : W96) : Except Reject Instr :=
  match splitWord w with
  | none => .error .unassigned
  | some v =>
    if v.fail = 0 then
      match build v with
      | some i => .ok i
      | none => .error .unassigned
    else .error (Reject.ofCheck v.fail)

/-- The word of an instruction; none for an event, which has no word. -/
def encode (i : Instr) : Option W96 := (viewOf i).map joinWord

/-- A word whose three 32-bit parts stand at a, a+4 and a+8, little-endian (R95), from its bytes. -/
def wordOfBytes (bs : List Byte) : W96 := BitVec.ofNat 96 (leVal (bs.take 12))

/-- Bytes of a word, ascending (R95). -/
def bytesOfWord (w : W96) : List Byte := leBytes 12 w.toNat

/-- The instruction read from bits `w` numbered as the opcode table numbers them: the word's part at the lowest
address, [31:0], is the first. Bits above `nbits` are zero. -/
def decodeTableWord (nbits w : Nat) : Option Instr :=
  match decode (wordOfBytes (leBytes 12 (w % 2 ^ nbits))) with
  | .ok i => some i
  | .error _ => none

end Sys2Proof
end

