-- ==== Sys2Proof/Machine/State.lean ====
section
/-! DEFINITION. The state of one QX-4 package as plain data, the reasons a step can stop, and the state after reset. -/

namespace Sys2Proof.Machine

/-! ### Threads and teams (05) -/

/-- Thread states (Table 5-1); Waiting-join names its j register. -/
inductive LaneSt where
  | runnable
  | join (j : Nat)
  | op
  | parked
  | exited
  deriving DecidableEq, Repr, Inhabited

/-- Buffer handle states (Table 9-1). -/
inductive HSt where
  | free | filling | full | draining
  deriving DecidableEq, Repr, Inhabited

/-- What a Waiting-op lane waits for; a parked lane keeps it as its wait descriptor (R423, Table 14-8). -/
inductive Wait where
  | none
  /-- `sleep`, until CLOCK reaches the value (R162) -/
  | sleep (until_ : Nat)
  /-- the wait part of `bar.wait` and `bar.sync`: barrier and generation (R357) -/
  | bar (b : Nat) (gen : W16)
  /-- `bar.arr` or `bar.sync` of a lane whose bit is still set (R349) -/
  | arrival (b : Nat)
  /-- a handle in one of these states (R269) -/
  | handle (h : Nat) (sts : List HSt)
  /-- two handles FILLING, for `cpycsr` (R276) -/
  | handles (h1 h2 : Nat)
  /-- `bset.free`: FREE, FULL, or DRAINING with no out-copy left (Table 9-2) -/
  | handleFree (h : Nat)
  /-- WPTR of a handle at or beyond the value, or not FILLING (R280) -/
  | wptr (h : Nat) (n : Nat)
  /-- `tl.wait` (R361) -/
  | timeline (tc : Nat) (x : W64)
  /-- `pres` or `ptake` queued at the home (R288) -/
  | pipe (w : Nat)
  /-- `pres` or `ptake` on a pipe with no home yet (R23) -/
  | pipeHome (w : Nat)
  /-- `lt.await` on a location (R386) -/
  | frontier (l : Loc) (t : W64)
  /-- `tk.post`, `tk.done` or a take at the queue's node, with the cycle of its issue (R480) -/
  | task (issued : Nat)
  /-- take from shadow slot (R388) -/
  | slotTake (slot : Nat)
  /-- `mx.post` until its record is read (R311) -/
  | mxPost (due : Nat)
  /-- `fx.circ` (R411) -/
  | circ
  /-- `fx.gen.ne` (R412) -/
  | gen (x : W16)
  /-- `co.ack` of a chunk, or of all (R416) -/
  | coll (c : Option Nat)
  /-- `halt` (R441) -/
  | halt (m : Nat) (dst : Opd)
  /-- `sysc` until its reply (R435) -/
  | sysc
  /-- `rte` whose reply, a quad with its release's stamp, the area cannot take (R428) -/
  | reply (quad stamp : Nat)
  /-- `ordadd` with the area of a die full, since the cycle named, of a value to an address (R258) -/
  | ordFull (since va die : Nat) (value : W32)
  /-- an access whose walk is held by a migration, since the cycle named (R239, R241) -/
  | walk (va since : Nat)
  /-- an aperture access with no port up, to a physical address, since the cycle named (R393) -/
  | port (dev pa since : Nat)
  deriving DecidableEq, Repr, Inhabited

/-- A lookahead window (R143): the address of its instruction, the cycle it completes (none while that is not known), how many
more instructions may pass, the registers it writes, and what those of the lane held before, which they show until it completes
(R149). -/
structure Window where
  pc     : Addr
  due    : Option Nat
  left   : Nat
  writes : List RegName
  olds   : List (RegName × Nat)
  /-- a `fence`: memory and engine instructions are held (R259); one that waits for reads alone -/
  fence  : Bool
  reads  : Bool
  deriving DecidableEq, Repr, Inhabited

/-- An access of a lane: its instruction, the cycle of its issue, the cycle by which it is performed, whether it reads, and the virtual
address that was translated for it (R239, R259, R360). -/
structure LaneAcc where
  pc    : Addr
  since : Nat
  due   : Nat
  read  : Bool
  va    : Option Nat
  deriving DecidableEq, Repr, Inhabited

/-- Where an agent stands, for the scope test (R334): die, core, group. -/
structure Who where
  die  : Nat
  core : Nat
  grp  : GroupRef
  deriving DecidableEq, Repr, Inhabited

/-- A release that an acquire may observe: stamp, scope, releaser (R335). -/
structure Rel where
  stamp : Nat
  scope : Nat
  who   : Who
  deriving DecidableEq, Repr, Inhabited

structure Lane where
  pc      : Addr
  st      : LaneSt
  g       : List W32
  p       : BitVec 7
  win     : List Window
  wait    : Wait
  /-- resume address or buffer position, with the handle serial of a `cpy` (R250, R273) -/
  ra      : Option (Nat × Nat)
  /-- RA while it is not valid, as the divergence window writes and reads it (Table 14-6) -/
  raOld   : Nat
  psv     : Bool
  pserial : W32
  fserial : W32
  tag     : W32
  ltnow   : W64
  horizon : Nat
  /-- scopes of the lane's release fences, at which every later store is a release, and releases its loads observed (Table 11-1) -/
  relF    : List Nat
  seen    : List Rel
  /-- first cycle in which the lane may issue again (R149, R150) -/
  hold    : Nat
  /-- the wait is satisfied, and the lane goes on in this cycle -/
  wakeAt  : Option Nat
  /-- its accesses that may still be on their way -/
  accs    : List LaneAcc
  deriving DecidableEq, Repr, Inhabited

/-- A k result not yet written: the address and the lanes of its instruction, the cycle of the write, and what is written (R155). -/
structure KPend where
  pc     : Addr
  lanes  : Lanes
  due    : Nat
  writes : List (Nat × W32)
  deriving DecidableEq, Repr, Inhabited

structure Team where
  ref    : TeamRef
  grp    : GroupRef
  ix     : Nat
  k      : List W32
  mask   : List Lanes
  /-- arrival masks for b0 to b15 with the largest stamp received (R349) -/
  arr    : List (Lanes × Nat)
  wdc    : Nat
  plive  : BitVec 7
  /-- passed over by rotation before this cycle (R130) -/
  yldTo  : Nat
  /-- fetch freeze: the line awaited and the address that needs it (R99) -/
  freeze : Option (Nat × Addr)
  /-- k results not yet written (R155) -/
  kpend  : List KPend
  /-- a lane arrived at a join, a join released, or `wdkick`, in this cycle (R147) -/
  wdzero : Bool
  /-- the team issued while diverged in this cycle (R147) -/
  wddiv  : Bool
  /-- the last cycle in which lanes exited, and those lanes (R381) -/
  exits  : Nat × Lanes
  lanes  : List Lane
  deriving DecidableEq, Repr, Inhabited

/-- What takes effect among the issues of a cycle: an instruction selected for issue, as its team, address and the voting lanes at it
(R131), or an `mx.post` whose record has been read, which posts in its quad's turn (R311). -/
structure Issue where
  team  : TeamRef
  pc    : Addr
  lanes : Lanes
  post  : Option Access
  deriving DecidableEq, Repr, Inhabited

/-! ### Groups and gangs -/

/-- Table 9-1. -/
structure Handle where
  st     : HSt
  base   : Nat
  len    : Nat
  res    : Nat
  wptr   : Nat
  err    : Nat
  closed : Bool
  /-- BAREN and BAR -/
  baren  : Bool
  bar    : Nat
  outs   : Nat
  serial : W16
  /-- an out-copy or job with END or AEND waits for OUTS = 0 (R268, R318) -/
  ending : Bool
  /-- barrier of `mx.ring` (R319) -/
  ring   : Option Nat
  /-- largest stamp of the deliveries that WPTR counts, and of the reads that return the handle to FREE (R266, R268, R279) -/
  stamp  : Nat
  rstamp : Nat
  deriving DecidableEq, Repr, Inhabited

inductive FrameSt where
  | empty | pending | landed | faulted
  deriving DecidableEq, Repr, Inhabited

/-- R105. -/
structure OFrame where
  seg    : BitVec 36
  woff   : Nat
  st     : FrameSt
  serial : W16
  deriving DecidableEq, Repr, Inhabited

/-- R353: issued count, value, stamp, and the numbers above V that have completed with their stamps. -/
structure Timeline where
  n     : W64
  v     : W64
  stamp : Nat
  done  : List (W64 × Nat)
  deriving DecidableEq, Repr, Inhabited

/-- First error, its serial or counter number, and further errors (Tables 10-8, 13-5). -/
structure ErrWord where
  kind : Nat
  num  : Nat
  more : Nat
  deriving DecidableEq, Repr, Inhabited

structure Group where
  ref     : GroupRef
  stage   : Nat
  role    : Nat
  roleId  : Nat
  pos     : Nat
  gang    : Nat
  die     : Nat
  core    : Nat
  /-- scratchpad byte of the core where the window begins, and WINLIM (R227) -/
  winBase : Nat
  winLim  : Nat
  /-- bytes of its own allocation -/
  alloc   : Nat
  regs    : Nat
  teams   : Nat
  grid    : Nat × Nat × Nat
  handles : List Handle
  frames  : List OFrame
  tcs     : List Timeline
  holds   : List (W64 × Nat)
  running : List Nat
  mxErr   : ErrWord
  mxSer   : Nat
  sendErr : ErrWord
  fired   : List Nat
  placed  : Nat
  /-- cycle X of R444, and cycle R + 8 of R445 once known -/
  exitAt  : Option Nat
  freeAt  : Option Nat
  /-- team slots of a group that a save recorded as ended, which SLOTCYC has not yet counted (R446) -/
  owed    : Nat
  /-- a GROUP, DOMAIN or CONTEXT reply has stopped it (R426) -/
  stopped : Bool
  deriving DecidableEq, Repr, Inhabited

/-- The RCB of a group's plan. -/
abbrev Group.rcb (g : Group) : Nat := g.ref.rcb

/-- A `bar.arr` or `bar.sync` of the cycle whose generation is decided at the cycle's end (R356): the order key of the team's
arrival, the lanes, their destination, and whether they wait. -/
structure BarAsk where
  key   : Nat
  /-- the number by which the instruction named the barrier -/
  num   : Nat
  team  : TeamRef
  lanes : Lanes
  dst   : Opd
  sync  : Bool
  deriving DecidableEq, Repr, Inhabited

/-- Table 11-5, with the events of the cycle that R350 applies at its end. -/
structure Bar where
  gen     : W16
  expect  : Nat
  pend    : Option Nat
  arr     : Nat
  carry   : Nat
  bytes   : Int
  touched : Bool
  stamp   : Nat
  done    : Nat
  /-- arrivals of the cycle: order key and stamp -/
  arrs    : List (Nat × Nat)
  counts  : List (Int × Nat)
  mems    : List (Nat × Nat)
  asks    : List BarAsk
  deriving DecidableEq, Repr, Inhabited

/-- Binding of a private or gang barrier to a context barrier, with who binds it (R347). -/
structure Bind where
  who : BarRef
  n   : Nat
  deriving DecidableEq, Repr, Inhabited

/-- Scope of a context barrier and the place of the first team that bound it (R347, R359). -/
structure CBar where
  ctx   : Nat
  n     : Nat
  scope : Nat
  die   : Nat
  core  : Nat
  deriving DecidableEq, Repr, Inhabited

/-! ### Fault records (14) -/

/-- A fault record (Tables 14-2, 3-3) and the units that wait for its reply. -/
inductive RecUnit where
  | none
  /-- lanes of a team that parked with it; the record of a `kld` fault names the lowest alone (R188) -/
  | lanes (t : TeamRef) (m : Lanes)
  | chan (die core ix : Nat)
  | engine (die ix : Nat)
  | send (entry : Nat)
  /-- a record about a plan, with no unit of its own -/
  | plan (rcb : Nat)
  deriving DecidableEq, Repr, Inhabited

structure Rec where
  die    : Nat
  serial : Nat
  kind   : Nat
  ctx    : Nat
  core   : Nat
  slot   : Nat
  teamix : Nat
  fw     : Bool
  time   : Nat
  pc     : Addr
  lanes  : Lanes
  d0     : W32
  grank  : Nat
  d1     : W64
  d2     : W64
  d3     : W64
  d4     : W64
  key    : Nat
  unit   : RecUnit
  /-- words from 0x10 on of a record with a layout of its own -/
  raw    : List W64
  deriving DecidableEq, Repr, Inhabited

/-! ### Contexts and plans (01, 02, 03) -/

/-- Task states (Table 1-12). -/
inductive TaskSt where
  | idle | armed | ready | running | done | continuation
  deriving DecidableEq, Repr, Inhabited

/-- The live copy of a task entry (R44, R378); that of a continuation entry is taken where a chain walk first meets it (log entry 98). -/
structure Task where
  n      : Nat
  st     : TaskSt
  count  : Nat
  prio   : Nat
  nsucc  : Nat
  chain  : Bool
  succ   : List Nat
  arg    : W64
  ltime  : W64
  poster : Nat
  plan   : Nat
  runner : Option GroupRef
  missing : Bool
  stamp  : Nat
  /-- cycle in which it entered the ready queue, by which a returned task finds its place (R81) -/
  since  : Nat
  deriving DecidableEq, Repr, Inhabited

/-- A task request on its way to or waiting at the queue's node (R480). -/
structure TaskMsg where
  due    : Nat
  team   : TeamRef
  lanes  : Lanes
  die    : Nat
  grp    : GroupRef
  req    : TaskReq
  dst    : Opd
  /-- the shadow slot that takes, as (core, ix) -/
  slot   : Option (Nat × Nat)
  stamp  : Nat
  key    : Nat
  /-- cycles of its issue, and from which its count change may form (R468) -/
  issued : Nat
  formed : Nat
  /-- the record that a fault of an implied completion makes (R381) -/
  implied : Option Rec
  deriving DecidableEq, Repr, Inhabited

/-- Where a RESUME or PREEMPT of the context stands (R67, R430). -/
inductive CtxPhase where
  /-- RESIDENT is set; the context waits for a free id -/
  | checked
  /-- restoring the phase -/
  | restoring (phase : Nat)
  | running
  /-- drain since the parse, ending at the cycle -/
  | draining (ends : Nat)
  | forcing (f : Nat)
  | stopped
  deriving DecidableEq, Repr, Inhabited

/-- An entry of an image's section table (Table 1-13). -/
structure Sect where
  stype : Nat
  unit  : Nat
  off   : Nat
  len   : Nat
  crc   : Nat
  deriving DecidableEq, Repr, Inhabited

structure Ctx where
  /-- number of the context in the model; the context id once written -/
  id       : Nat
  rcb      : Nat
  image    : Nat
  /-- the section table of its image, as the check of the RESUME read it (R50, R67) -/
  sects    : List Sect
  fresh    : Bool
  coord    : Nat
  queue    : Nat
  phase    : CtxPhase
  ptroot   : Nat
  walkfmt  : Nat
  overlay  : Bool
  collen   : Bool
  tsbase   : Nat
  tkbase   : Nat
  frarea   : Nat
  drainus  : Nat
  /-- effective L2RATE, HBMRATE, LINKRATE, FABRATE as last read (R19), and COLLSHARE -/
  rates    : List Nat
  collShare : Nat
  plans    : List Nat
  tasks    : List Task
  /-- eight ready FIFOs, priority 0 first -/
  ready    : List (List Nat)
  takes    : List TaskMsg
  msgs     : List TaskMsg
  /-- replies held while the restore runs, with the stamps of their releases (R427, R428) -/
  replies  : List (List W32 × Nat)
  /-- PLANLIST and NPLANS of its image -/
  planlist : Nat × Nat
  resumed  : Nat
  saveArea : Nat × Nat
  /-- the queue whose PREEMPT saves the context -/
  saver    : Option QRef
  deriving DecidableEq, Repr, Inhabited

structure Role where
  entry   : Addr
  roleId  : Nat
  regs    : Nat
  teams   : Nat
  groups  : Nat
  scratch : Nat
  deriving DecidableEq, Repr, Inhabited

/-- A gang waiting for placement: die chosen, since when, and placement address bits [20:16] or g mod 32. -/
structure WaitGang where
  g     : Nat
  die   : Nat
  since : Nat
  hash  : Nat
  off   : Bool
  deriving DecidableEq, Repr, Inhabited

structure Stage where
  srcb    : Nat
  init    : Nat
  min     : Nat
  max     : Nat
  dies    : Nat
  share   : Nat
  owned   : List CoreRef
  roles   : List Role
  args    : List W64
  waiting : List WaitGang
  /-- next gang serial (R128), or groups of a launch looked up so far -/
  serial  : Nat
  open_   : Bool
  root    : Option W64
  stopped : Bool
  /-- effective FDOM and WDLOG as read at RESUME (R19) -/
  fdom    : Nat
  wdlog   : Nat
  /-- its effective rates as last read (R18, R19) -/
  rates   : List Nat
  gotCore : Bool
  /-- groups of the stage resident -/
  live    : Nat
  deriving DecidableEq, Repr, Inhabited

/-- The collective of a launch as read at RESUME (R404): the record, with the two trees as parent ranks (0xFFFF: the root). -/
structure Coll where
  id      : Nat
  op      : Nat
  nmem    : Nat
  rank    : Nat
  clog    : Nat
  rwin    : Nat
  members : List Nat
  tree    : List Nat
  alttree : List Nat
  tmous   : Nat
  deriving DecidableEq, Repr, Inhabited

/-- The launch record (Table 1-8) as checked at RESUME. -/
structure Launch where
  grid     : Nat × Nat × Nat
  parg     : Nat
  ptlog    : Nat
  pnone    : Bool
  targets  : List (Nat × Nat)
  coll     : Option Coll
  resbase  : Nat
  nchunk   : Nat
  chunkmap : Nat
  /-- linear indexes whose group has retired -/
  retired  : List Nat
  placed   : List (Nat × Nat)
  /-- where its retired-group bitmap is kept since a die that held groups of it was lost (R92) -/
  lost     : Option Nat
  /-- the launch has retired (R447) -/
  over_    : Bool
  deriving DecidableEq, Repr, Inhabited

structure Plan where
  ctx      : Nat
  rcb      : Nat
  body     : Nat
  launch   : Option Launch
  stages   : List Stage
  npipes   : Nat
  spill    : Nat
  spillBlk : Nat
  wint     : Nat
  whyst    : Nat
  wdlk     : Nat
  wfreeze  : Bool
  started  : Nat
  /-- Weir samples of the interval: FILLED sums by pipe -/
  samples  : List (Nat × Nat)
  quiet    : Nat
  declared : Bool
  draining : Bool
  spilling : Bool
  retired  : Bool
  /-- the largest stamp with which a group of it has exited, which a FENCE releases (R449) -/
  stamp    : Nat
  deriving DecidableEq, Repr, Inhabited

/-- Race record of a sector (Table 11-3). -/
structure Race where
  w : Option (BitVec 31 × Nat × W32)
  r : Option (BitVec 31 × Nat × W32)
  deriving DecidableEq, Repr, Inhabited

/-! ### Pipes (09) -/

inductive SlotSt where
  | free | reserved | committed | taken | spilling
  deriving DecidableEq, Repr, Inhabited

structure Slot where
  st     : SlotSt
  ticket : Nat
  holder : Option GroupRef
  time   : W64
  isVoid : Bool
  /-- stamp of the commit, and of the last release (R289) -/
  stamp  : Nat
  rstamp : Nat
  /-- its lines stand in the home's L2 (R283) -/
  lines  : Bool
  deriving DecidableEq, Repr, Inhabited

/-- A tile of the spill slice: position, ticket, time, holder when taken. -/
structure Spilled where
  pos    : Nat
  ticket : Nat
  time   : W64
  stamp  : Nat
  holder : Option GroupRef
  /-- its `prel` has issued, or its transfer from a staging queue -/
  gone   : Bool
  deriving DecidableEq, Repr, Inhabited

/-- A `pres` or `ptake` at the home. -/
structure PipeReq where
  take  : Bool
  team  : TeamRef
  lanes : Lanes
  pc    : Addr
  grp   : GroupRef
  key   : Nat
  /-- cycles from the home to the requester (R288) -/
  lat   : Nat
  /-- destination register operand -/
  dst   : Opd
  isNew : Bool
  /-- cycle from which the home serves it: later than now for one sent there when the home was fixed (R23) -/
  since : Nat
  /-- the window that the instruction opens where it is served at once -/
  win   : Window
  deriving DecidableEq, Repr, Inhabited

structure Pipe where
  ref      : PipeRef
  depth    : Nat
  home     : Option Nat
  slotSize : Nat
  tslot    : Nat
  prod     : Nat
  cons     : Nat
  path     : W16
  peer     : Nat
  prem     : Bool
  crem     : Bool
  staging  : Nat
  spillOff : Nat
  spillCap : Nat
  slots    : List Slot
  ticket   : Nat
  closed   : Bool
  spilled  : List Spilled
  queue    : List PipeReq
  /-- commits and releases waiting for copies of the slot, or of the slice position where spilled -/
  deferred : List (Nat × Bool × PipeChange)
  /-- changes that take effect in the cycle -/
  changes  : List PipeChange
  m        : Nat
  sent     : Nat
  /-- releases at the home so far, for the credit report -/
  releases : Nat
  /-- tiles that a spill still has to take, and the slice position it tries next (R295) -/
  toSpill  : Nat
  spillNext : Nat
  data     : List Host.Cell
  race     : List (Nat × Race)
  deriving DecidableEq, Repr, Inhabited

/-! ### Copies (09) -/

/-- Where an element's bytes stand. -/
inductive Site where
  /-- virtual address of the group's context -/
  | mem (va : Nat)
  /-- byte of the core's scratchpad -/
  | scr (a : Nat)
  /-- byte of a pipe's slot array -/
  | pipe (p : PipeRef) (off : Nat)
  /-- nothing: reads zero, or is not written -/
  | nowhere
  /-- outside the buffer: not written, and ERR becomes 2 (R274) -/
  | over
  /-- outside the window: reads a free value (log entry 21) -/
  | beyond
  /-- through an index whose read has met an uncorrectable error: not moved, and ERR becomes 1 (R263) -/
  | lost
  /-- through a gather index at `tab`: below `extent` it stands at `base` plus the swizzled offset `part + index * stride`;
  `sw` holds SWBITS, SWBASE and SWSHIFT (R40, R274) -/
  | gather (tab base part stride extent : Nat) (sw : Nat × Nat × Nat)
  deriving DecidableEq, Repr, Inhabited

/-- One element of a copy, with format codes of Table 1-10 on both sides. -/
structure Elem where
  /-- handle that counts it -/
  h    : Nat
  src  : Site
  dst  : Site
  sfmt : Nat
  dfmt : Nat
  size : Nat
  /-- bytes that it counts in WPTR -/
  cnt  : Nat
  deriving DecidableEq, Repr, Inhabited

/-- A translation-buffer entry (R235). -/
structure Tb where
  ctx  : Nat
  va   : Nat
  size : Nat
  pa   : Nat
  perm : Nat
  /-- cycle from which the entry stands: the end of its walk -/
  at_  : Nat
  deriving DecidableEq, Repr, Inhabited

inductive CopyKind where
  | inCopy | outCopy
  /-- row-range walk: descriptor address, first row, count, value handle -/
  | csr (desc first n hv hvSerial : Nat)
  /-- overlay frame and serial (R106) -/
  | frame (f serial : Nat)
  /-- prefetch of a shadow slot (R80) -/
  | prefetch (ix : Nat)
  deriving DecidableEq, Repr, Inhabited

structure CopyDesc where
  kind    : CopyKind
  grp     : GroupRef
  h       : Nat
  hserial : W16
  fin     : Bool
  /-- line reads still to complete, each a list of elements (R261) -/
  reads   : List (List Elem)
  /-- cycle in which each of them completes; none where it has not been issued. A row-range walk whose reads are not `listed` has one entry, for
  what it reads first (R261, R276) -/
  ready   : List (Option Nat)
  listed  : Bool
  done    : Nat
  issued  : Nat
  /-- its place in the order of issue of its core's copies (R266) -/
  order   : Nat
  started : Option Nat
  /-- serial of its copy-fault record, 0 while the record is being written -/
  stopped : Option Nat
  stamp   : Nat
  /-- EVICT of its source reads (R273) -/
  evict   : Nat
  /-- ROWPTR, COLIDX, VALS and the bytes of a value, once a row-range walk has read them (R276) -/
  rows    : List Nat
  /-- Sluice has let its next read pass, or holds it (R87, R88) -/
  drawn   : Bool
  /-- pipe slot, or slice position where spilled, that it reads or writes -/
  pipe    : Option (PipeRef × Nat × Bool)
  /-- an out-copy whose end has been counted in OUTS -/
  counted : Bool
  /-- translations that an invalidation or a migration dropped while the copy was in flight; it keeps them (R239) -/
  old     : List Tb
  deriving DecidableEq, Repr, Inhabited

structure Chan where
  die   : Nat
  core  : Nat
  ix    : Nat
  queue : List CopyDesc
  /-- first cycle in which it may issue reads -/
  next  : Nat
  deriving DecidableEq, Repr, Inhabited

/-! ### Matrix engines (10) -/

structure Job where
  grp    : GroupRef
  words  : List W64
  serial : Nat
  num    : Option W64
  stamp  : Nat
  die    : Nat
  cluster : Nat
  /-- cycle of its posting, by which it stands in a queue (R313), and the serial of its handle then (R270) -/
  posted : Nat
  hserial : W16
  /-- tensor slot and layout snapshots (R38) -/
  slot   : List W64
  layout : List W64
  /-- pipe slots, or slice positions where true, that it reads (R320) -/
  tiles  : List (PipeRef × Nat × Bool)
  deriving DecidableEq, Repr, Inhabited

structure RunJob where
  job     : Job
  engines : List Nat
  /-- cycle of its start, from which its reads are made, a step's every step later (log entry 95) -/
  start   : Nat
  /-- steps done, and the cycle in which the next has its data, or ends where `fetched` -/
  step    : Nat
  ends    : Nat
  fetched : Bool
  /-- Sluice has let the step's accesses pass, or holds them (R87, R326) -/
  drawn   : Bool
  /-- cycle by which its writes are performed (R317) -/
  wrote   : Nat
  /-- elements of an RD into a handle, in the order of their buffer offsets where that is not their own (R316) -/
  order   : List Nat
  stopped : Option Nat
  err     : Nat
  reroute : Bool
  /-- it has started: its source handle drains (R318) -/
  begun   : Bool
  readEnd : Bool
  /-- barrier bound to its source handle when it started (R319) -/
  ring    : Option Nat
  deriving DecidableEq, Repr, Inhabited

structure AccSet where
  holder : Option (GroupRef × Nat)
  f      : List (Nat × W32)
  i      : List (Nat × BitVec 48)
  deriving DecidableEq, Repr, Inhabited

/-- One line of the instruction cache with its bytes at the fill (R98, R102). -/
structure ILine where
  line  : Nat
  bytes : List Byte
  deriving DecidableEq, Repr, Inhabited

/-- A cluster: its job queue, accumulator sets and instruction cache. -/
structure Cluster where
  die    : Nat
  ix     : Nat
  queue  : List Job
  sets   : List AccSet
  icache : List ILine
  /-- fills under way: line, and whether ahead only -/
  fills  : List (Nat × Bool)
  /-- lines that are fetched a second time, after an uncorrectable error that a demand fetch met (R101) -/
  again  : List Nat
  /-- errors in the array of its instruction cache, which come from outside: the unit of 16 bytes (address / 16), and whether it cannot be
  corrected (R98, R101) -/
  flaws  : List (Nat × Bool)
  deriving DecidableEq, Repr, Inhabited

/-- A column group of a page: tag, who wrote it, rows by (k, physical column), scales by (K-block, column). -/
structure ColGroup where
  page   : Nat
  cg     : Nat
  tag    : W16
  ctx    : Nat
  deriving DecidableEq, Repr, Inhabited

structure Engine where
  die     : Nat
  ix      : Nat
  groups  : List ColGroup
  /-- byte at page * 2^18 + k * 512 + column -/
  rows    : List (Nat × Byte)
  /-- scale mark at (page * 8 + block) * 512 + column: format (0 none, 1 sc16, 2 sc8, 3 exactly 1.0) and bits -/
  scales  : List (Nat × Nat × W16)
  run     : Option RunJob
  /-- the job that has just ended, whose handle and ring effects come next -/
  tail    : Option RunJob
  /-- jobs that have left the engine and whose last writes are not performed, with their errors (R317) -/
  ending  : List (RunJob × List Nat)
  /-- cycle from which MXBUSY has still to count it; none while it runs no job (R328) -/
  busyFrom : Option Nat
  /-- cycle in which its last job ended (R324) -/
  idleAt  : Option Nat
  last    : Option (GroupRef × Nat)
  csver   : W16
  csnew   : Option W16
  /-- the control store, 32 KiB in two halves, and which of them is active (R325) -/
  store   : List Host.Cell
  half    : Nat
  fence   : W64
  deriving DecidableEq, Repr, Inhabited

/-! ### Memory side (08) -/

/-- A line of an L2 or RDC; a die lists the least recently used first (R231). -/
structure Line where
  line    : Nat
  evict   : Nat
  dirty   : Nat
  poison  : Nat
  race    : List (Nat × Race)
  /-- bytes, of an aperture line only (R230 rule 4) -/
  bytes   : List Byte
  deriving DecidableEq, Repr, Inhabited

/-- Releases whose value or release sequence stands at a location (R336): kind of place, address, size. -/
structure RelAt where
  place : Nat
  addr  : Nat
  size  : Nat
  rels  : List Rel
  deriving DecidableEq, Repr, Inhabited

/-- An entry of an ordered list (R255). -/
structure Ord where
  addr  : Nat
  rcb   : Nat
  rank  : Nat
  lane  : Nat
  team  : Nat
  seq   : Nat
  value : W32
  /-- virtual address, by which an ordered target is found -/
  va    : Nat
  deriving DecidableEq, Repr, Inhabited

structure Bucket where
  ctx    : Nat
  res    : Nat
  tokens : Nat
  saved  : Nat
  asof   : Nat
  deriving DecidableEq, Repr, Inhabited

/-- Who waits for requests on the memory path: the lanes of an instruction that issued at a cycle and has a window (or not), a unit that
an event lets go on, or nobody, for a prefetch (R251). -/
inductive Waiter where
  | lanes (team : TeamRef) (lanes : Lanes) (pc : Addr) (since : Nat) (win : Bool)
  | unit (e : Event)
  | nobody
  deriving DecidableEq, Repr, Inhabited

/-- A request whose bucket is short (R87): its context, what it needs, each a resource of a die with sectors, the first being the one
that waits; whether it may draw on the reserved part (R88); whether its node's rate is zero (R18); and who waits for it. -/
structure Deferred where
  ctx   : Nat
  needs : List (Nat × Nat × Nat)
  copy  : Bool
  zero  : Bool
  who   : Waiter
  deriving DecidableEq, Repr, Inhabited

/-- An invalidation under way: its context, the cycle of its start, the pages of the translations that it dropped, as address and size,
and the cycle by which what engines read through them has come (R239). -/
structure Invalidation where
  ctx   : Nat
  start : Nat
  pages : List (Nat × Nat)
  ends  : Nat
  deriving DecidableEq, Repr, Inhabited

/-- A migration under way, as its registers named it when it started: context, virtual address, destination, and the old block; what it
waits for, as an invalidation does; and the cycle in which its copy has been made, once it has begun (R241). -/
structure Migration where
  ctx  : Nat
  va   : Nat
  dst  : Nat
  old  : Nat
  wait : Invalidation
  copy : Option Nat
  deriving DecidableEq, Repr, Inhabited

/-! ### Cores and dies -/

/-- Shadow task slot (R80). -/
inductive ShSt where
  | empty | loading | loaded
  deriving DecidableEq, Repr, Inhabited

structure Shadow where
  ix     : Nat
  grp    : GroupRef
  ts     : Nat
  h      : Nat
  floor  : Nat
  st     : ShSt
  task   : Option Nat
  /-- cycle in which its take left for the queue's node, while that stands -/
  asked  : Option Nat
  /-- the handle that its prefetch fills, or has filled -/
  into   : Nat
  /-- the tensor slot and its layout as `tk.arm` read them (R38) -/
  slot   : List W64
  layout : List W64
  deriving DecidableEq, Repr, Inhabited

structure Core where
  die    : Nat
  ix     : Nat
  rot    : List Nat
  longTo : List Nat
  crossTo : List Nat
  /-- first cycle in which each quad issues again after a register bank conflict (Table 5-6) -/
  issTo  : List Nat
  tb     : List Tb
  shadow : List Shadow
  owner  : Option (Nat × Nat × Nat)
  fenced : Bool
  /-- a moved core takes no gang before a resident donor group's exit (R85) -/
  hold   : Bool
  deriving DecidableEq, Repr, Inhabited

structure Departed where
  ctx   : Nat
  rcb   : Nat
  left  : Nat
  area  : Nat
  root  : Nat
  fmt   : Nat
  deriving DecidableEq, Repr, Inhabited

/-- An entry of a Tideline replica (R372). -/
structure TlEntry where
  ctx  : Nat
  rcb  : Nat
  loc  : Loc
  time : W64
  n    : Int
  deriving DecidableEq, Repr, Inhabited

/-- Why a queue's command waits. -/
inductive Block where
  | none
  | time (addr thr : Nat)
  | clock (thr : Nat)
  | fence
  | resume (ctx : Nat)
  | preempt
  deriving DecidableEq, Repr, Inhabited

structure Queue where
  /-- next header word of each open indirect level, level 1 first: address, words left -/
  levels   : List (Nat × Nat)
  block    : Block
  /-- the largest stamp that its commands have acquired: of WAIT_TIMEs, and of the work that a FENCE waited for (R63) -/
  horizon  : Nat
  /-- plans that earlier RESUMEs of the queue started and that have not retired, by context RCB and plan RCB (R63) -/
  plans    : List PlanRef
  deriving DecidableEq, Repr, Inhabited

/-- The walker engine's core once firmware has loaded its routine store (R236): its registers, the window's physical base, and the store. -/
structure Rv where
  x     : List W32
  pc    : W32
  win   : Nat
  store : List Byte
  /-- routines with a byte that has been written: 2 × format, and 1 more for the remap routine -/
  loaded : List Nat
  deriving DecidableEq, Repr, Inhabited

structure Die where
  ix       : Nat
  up       : Bool
  fwcore   : Nat
  links    : Nat
  c        : Nat
  queues   : List Queue
  fifo     : List (Nat × W32)
  backed   : List (Nat × W32)
  served   : Nat
  newRecs  : List Rec
  backlog  : List Rec
  waitRecs : List Rec
  /-- records written and not answered: serial, context, unit -/
  open_    : List (Nat × Nat × RecUnit)
  departed : List Departed
  events   : Nat
  /-- C(d) when a hotness record, a submission entry and a fence event were last raised (R441) -/
  raised   : List Nat
  l2       : List Line
  rdc      : List Line
  /-- the directory of the home: for each line shared, a bit for each die with a copy (R229); it outlives the line's stay in L2 -/
  dirs     : List (Nat × Nat)
  hot      : List (Nat × List Nat)
  ords     : List Ord
  /-- cycle in which the walker engine has served its walks (R238) -/
  walkAt   : Nat
  /-- the walker's core with its store, once a byte of it has been written or a routine of it has run; none: as die boot leaves it (R236) -/
  rv       : Option Rv
  hold     : Option Migration
  /-- prefetches whose walk it holds: core, group, address, EVICT (R241, R251) -/
  prefs    : List (Nat × GroupRef × Nat × Nat)
  inv      : Option Invalidation
  /-- probes of this home that are not acknowledged: line and die (R230) -/
  probes   : List (Nat × Nat)
  repl     : List TlEntry
  /-- the replica from which frontiers are read, and later ones with their cycles (Table 12-3) -/
  vis      : List TlEntry
  snaps    : List (Nat × List TlEntry)
  /-- batches that have reached the node, by arrival, with those held -/
  held     : List Batch
  stamps   : List (Nat × Nat)
  sending  : List Deferred
  buckets  : List Bucket
  claimed  : List (Nat × Nat)
  /-- the context that a resource's rotation served last (R87) -/
  turns    : List (Nat × Nat)
  banks    : List (Nat × Nat)
  /-- HBM4E banks under refresh, with the cycle in which it ends (R232) -/
  refresh  : List (Nat × Nat)
  /-- HBM4E channels in training, with the cycle in which it ends (R452) -/
  training : List (Nat × Nat)
  bad      : List (Nat × Bool)
  deriving DecidableEq, Repr, Inhabited

/-! ### Fabric and collectives (13) -/

structure SlotTable where
  nslot  : Nat
  slotUs : Nat
  tail   : Nat
  /-- peer of plane q in slot k at index 32 k + q -/
  peers  : List (Option Nat)
  deriving DecidableEq, Repr, Inhabited

/-- A unit's access, or a fetch, for which no port is up: its die, core and address, since when it waits, and when it last tried (R393). -/
structure PortWait where
  die   : Nat
  core  : Nat
  va    : Nat
  since : Nat
  last  : Nat
  deriving DecidableEq, Repr, Inhabited

/-- What an entry of a send queue carries (R397): bytes of memory of an `fx.send`, a tile of a cross-device pipe with its time (R300), a control
message (R400), or a partial or result of a collective, which its frames make known (R406). -/
inductive Load where
  | send
  | tile (time : W64) (bytes : List Byte)
  | msg (m : CtlMsg)
  | part (m : CtlMsg) (bytes : List Byte)
  deriving DecidableEq, Repr, Inhabited

/-- Something on its way over a UALink port: the port, the mask of those that may carry it, the cycle by which it comes, who makes it, and
since when no port of the mask is up (R393). -/
structure Flight where
  port : Nat
  mask : Nat
  due  : Nat
  who  : Waiter
  held : Option Nat
  deriving DecidableEq, Repr, Inhabited

structure SendEntry where
  id      : Nat
  dest    : Nat
  win     : Nat
  grp     : GroupRef
  tc      : Option (Nat × W64)
  src     : Nat
  len     : Nat
  offset  : Nat
  gen     : W16
  /-- cycles in which it formed, and from which it may be sent -/
  formed  : Nat
  elig    : Nat
  /-- next offset to send, offsets awaiting acknowledgement with the cycle sent, offsets acknowledged -/
  next    : Nat
  flight  : List (Nat × Nat)
  acked   : List Nat
  lost    : List Nat
  /-- sequence number of its first frame -/
  seq     : Nat
  die     : Nat
  core    : Nat
  queue   : Nat
  stamp   : Nat
  stopped : Option Nat
  stranded : Bool
  /-- Sluice has let its next frame pass, or holds it (R87, R398) -/
  drawn   : Bool
  load    : Load
  deriving DecidableEq, Repr, Inhabited

/-- A pending `fx.circ` (R402). -/
structure Circ where
  team  : TeamRef
  lanes : Lanes
  dst   : Opd
  /-- LA of the instruction -/
  la    : Nat
  /-- cycle in which the request reached the switch planes -/
  at_   : Option Nat
  deriving DecidableEq, Repr, Inhabited

structure Fabric where
  devid   : Nat
  ftime   : Nat
  phase   : Nat
  active  : Option SlotTable
  staged  : Option SlotTable
  base    : Nat
  circ    : Option Circ
  /-- peers whose `fx.circ` is pending, with its arrival and the connections (slot, plane, peer) it names -/
  peers   : List (Nat × Nat × List (Nat × Nat × Nat))
  /-- the boundary at which the satisfied request is applied -/
  apply   : Option Nat
  entries : List SendEntry
  nextId  : Nat
  nextSeq : Nat
  seen    : List (Nat × Nat)
  ports   : Nat
  planes  : Nat
  lambda  : List (Nat × Nat)
  fibre   : List Nat
  /-- when each plane is free, in 28ths of a cycle, and each UALink port, in 25ths -/
  planeAt : List Nat
  portAt  : List Nat
  /-- the device's own traffic that no queue has room for, and all that has left the device, with its destination -/
  waiting : List SendEntry
  sent    : List (Nat × Frame)
  sentMsg : List (Nat × CtlMsg)
  outAck  : List (Nat × Nat × Bool)
  /-- stores and atomics that have left through an aperture: device, address, bytes (R392) -/
  outApt  : List (Nat × Nat × List Byte)
  /-- accesses, fills and reads that ports carry (R393) -/
  flight  : List Flight
  blocked : List PortWait
  deriving DecidableEq, Repr, Inhabited

/-- What a chunk does (R417); that it has failed is a mark beside it, since a failed member still serves the others (R407). -/
inductive ChunkSt where
  | gathering | reducing | sent | result | redo
  deriving DecidableEq, Repr, Inhabited

structure Chunk where
  ctx     : Nat
  rcb     : Nat
  coll    : Nat
  c       : Nat
  counter : Nat
  /-- fires of the device's own groups still to come -/
  fires   : Nat
  st      : ChunkSt
  failed  : Bool
  alt     : Bool
  held    : Bool
  /-- cycle in which the counter reached zero -/
  zeroAt  : Option Nat
  /-- a reduce block runs -/
  busy    : Bool
  /-- at the alternate root: a commit has been granted, a redo has begun -/
  commit  : Bool
  redone  : Bool
  value   : List Byte
  /-- partials of ALTTREE that came before this member's redo: child, sender's CTXID and bytes -/
  early   : List (Nat × Nat × List Byte)
  /-- fires that wait for accesses (R415), each with its first cycle, and the largest stamp of the device's fires -/
  owed    : List (Nat × List Settle)
  stamp   : Nat
  /-- transfers and blocks that Sluice holds or has let pass, by the events with which they go on (R88) -/
  passed  : List Event
  deriving DecidableEq, Repr, Inhabited

/-- A context that a save has taken from the device while chunks of its launches have no result (R408): as it was, and its plans. Its number
here is that of no resident context, and is its CTXID modulo 4096. -/
structure Away where
  ctx   : Ctx
  plans : List Plan
  deriving DecidableEq, Repr, Inhabited

/-! ### Service (15) -/

structure Config where
  kind  : Nat
  seq   : W32
  /-- fenced cores, and fenced sub-arrays by die and engine -/
  cores : List CoreRef
  subs  : List (Nat × Nat × W64)
  /-- its signature verifies (R456) -/
  signed : Bool
  /-- the body of a record of kind 2 or 3, LENGTH bytes -/
  body   : List Byte
  deriving DecidableEq, Repr, Inhabited

/-- An event that telemetry reports (R457, R458): a fault record, a fence of sub-arrays of an engine or of a core, a thermal event. -/
inductive SvcEvent where
  | fault (serial kind die time : Nat)
  | fence (die engine time : Nat)
  | coreFence (die core time : Nat)
  | thermal (die time : Nat)
  deriving DecidableEq, Repr, Inhabited

structure Service where
  /-- the marker copies M0 and M1, as their bytes (Table 15-3) -/
  m0      : List Byte
  m1      : List Byte
  /-- versions of the images in the banks; none: a bank partly written -/
  bankA   : Option Nat
  bankB   : Option Nat
  /-- the update under way: the version, and 1 while its image is written, or 2 + 2 × SEQ + copy while that marker copy is (R454) -/
  update  : Option (Nat × Nat)
  version : List Nat
  records : List Config
  /-- the records that the last boot of a die has put into use (R456) -/
  used    : List Config
  badSigs : Nat
  served  : List (Nat × List W64)
  badacc  : List Nat
  events  : List SvcEvent
  deriving DecidableEq, Repr, Inhabited

/-- A section body whose bytes Table 14-9 does not lay out: the image for which it was written, STYPE, the unit, its bytes, and what they
record (log entry 13). -/
structure Section where
  image   : Nat
  stype   : Nat
  unit    : Nat
  bytes   : List Byte
  /-- the largest stamp and horizon saved (Table 14-9) -/
  stamp   : Nat
  teams   : List Team
  shadows : List (Nat × Nat × Shadow)
  plans   : List Plan
  /-- stage core shares, by plan RCB (R79) -/
  shares  : List (Nat × List Nat)
  tasks   : List Task
  ready   : List (List Nat)
  entries : List TlEntry
  held    : List Batch
  /-- the times of the stages' root holds, by plan RCB (R382) -/
  roots   : List (Nat × List (Option W64))
  pipes   : List Pipe
  groups  : List Group
  bars    : List (BarRef × Bar)
  binds   : List Bind
  cbars   : List CBar
  chunks  : List Chunk
  scratch : List Host.Cell
  jobs    : List Job
  runs    : List RunJob
  sets    : List AccSet
  engines : List Engine
  chans   : List Chan
  entries2 : List SendEntry
  replies : List (List W32)
  deriving DecidableEq, Repr, Inhabited

/-- An effect of class 15 at the end of the cycle (R429, R439): `park`, `unpark` with its stamp, a window write. -/
inductive EndOp where
  | park (t : TeamRef) (m : Lanes)
  | unpark (t : TeamRef) (m : Lanes) (stamp : Nat)
  | put (t : TeamRef) (ix v : Nat)
  deriving DecidableEq, Repr, Inhabited

/-! ### The package -/

structure State where
  /-- CLOCK (R190); reads are reduced to 64 bits -/
  clock    : Nat
  mem      : List Host.Cell
  scratch  : List Host.Cell
  srace    : List (Nat × Race)
  rels     : List RelAt
  /-- atomics on their way in their sectors' orders: place, sector, cycle of arrival, cycle of application (R253) -/
  atoms    : List (Nat × Nat × Nat × Nat)
  hw       : List (Nat × W64)
  lastRead : W64
  teams    : List Team
  groups   : List Group
  bars     : List (BarRef × Bar)
  binds    : List Bind
  cbars    : List CBar
  ctxs     : List Ctx
  plans    : List Plan
  pipes    : List Pipe
  dies     : List Die
  cores    : List Core
  clusters : List Cluster
  engines  : List Engine
  chans    : List Chan
  fab      : Fabric
  chunks   : List Chunk
  aways    : List Away
  svc      : Service
  sections : List Section
  irqs     : List (Nat × W32)
  /-- free values taken so far (log entry 3) -/
  fresh    : Nat
  /-- the model's own schedule (log entry 1) -/
  agenda   : List (Nat × Event)
  eoc      : List Event
  inputs   : List Event
  acted    : List Event
  /-- the work at the cycle's end has begun; joins and watchdogs have been looked at -/
  closing  : Bool
  watched  : Bool
  /-- what the quads have chosen to issue in this cycle, and what of it is still to run -/
  chosen   : List Issue
  issues   : List Issue
  /-- what class 15 leaves to the cycle's end, in order -/
  parks    : List EndOp
  cur      : Option Issue
  /-- the event that happens in this step, with its operands -/
  ev       : Option Event
  deriving DecidableEq, Repr, Inhabited

/-- Why a step stops with a fault. Each is the model's own. No step raises one of the first three; the last is raised only by a state that
no run reaches, whose agenda names a unit out of range. -/
inductive Fault where
  /-- a word's meaning was asked to run with no instruction selected for issue; raised by the word meanings; safe -/
  | noIssue
  /-- an event's meaning was asked to run with no event of its kind happening; raised by the event meanings; safe -/
  | noEvent
  /-- the selected team is not resident; raised by the word meanings; safe -/
  | noTeam
  /-- an event names a unit that the package does not have; raised by the event meanings; safe -/
  | noUnit
  deriving DecidableEq, Repr, Inhabited

/-- Why a step is refused. -/
inductive Refusal where
  /-- no meaning yet for the instruction; raised by `exec`; safe -/
  | notModelled (mnemonic : String)
  deriving DecidableEq, Repr, Inhabited

/-! ### Reset: package cold reset and die boot (R450, R453, R456) -/

/-- A queue at reset. -/
def Queue.init : Queue := ⟨[], .none, 0, []⟩

/-- A die after boot: nothing fenced, so its firmware core is core 0 (R53, log entry 7); all links up. -/
def Die.init (d : Nat) : Die :=
  { ix := d, up := true, fwcore := 0, links := 15, c := 0, queues := List.replicate 32 Queue.init,
    fifo := [], backed := [], served := 31, newRecs := [], backlog := [], waitRecs := [], open_ := [], departed := [],
    events := 0, raised := [0, 0, 0], l2 := [], rdc := [], dirs := [], hot := [], ords := [], walkAt := 0, rv := none, hold := none, prefs := [], inv := none, probes := [],
    repl := [], vis := [], snaps := [], held := [], stamps := [], sending := [], buckets := [], claimed := [], turns := [], banks := [], refresh := [],
    training := [], bad := [] }

def Fabric.init : Fabric :=
  { devid := 0, ftime := 0, phase := 0, active := none, staged := none, base := 0, circ := none, peers := [],
    apply := none, entries := [], nextId := 0, nextSeq := 0, seen := [], ports := 0xFFFF,
    planes := 0xFFFFFFFF, lambda := [], fibre := [], planeAt := List.replicate 32 0, portAt := List.replicate 16 0, waiting := [],
    sent := [], sentMsg := [], outAck := [], outApt := [], flight := [], blocked := [] }

/-- Flash with no valid marker copy, so bank A runs (R453); no configuration record (log entry 7). -/
def Service.init : Service :=
  { m0 := List.replicate 20 0, m1 := List.replicate 20 0, bankA := some 0, bankB := some 0, update := none, version := [0, 0, 0, 0]
    records := [], used := [], badSigs := 0,
    served := [], badacc := [0, 0, 0, 0], events := [] }

/-- The package right after cold reset and die boot. Cores, clusters, engines and channels are listed only once
something differs from their reset value. -/
def State.reset : State :=
  { clock := 0, mem := [], scratch := [], srace := [], rels := [], atoms := [], hw := [], lastRead := 0, teams := [], groups := [], bars := [],
    binds := [], cbars := [], ctxs := [], plans := [], pipes := [], dies := [Die.init 0, Die.init 1, Die.init 2, Die.init 3],
    cores := [], clusters := [], engines := [], chans := [], fab := Fabric.init, chunks := [], aways := [], svc := Service.init,
    sections := [], irqs := [], fresh := 0,
    agenda := ([0, 1, 2, 3].map fun d => (1, .firmwareRestartEnd d)) ++ [(2 ^ 20, .hotnessHalving)], eoc := [], inputs := [], acted := [], closing := false, watched := false, chosen := [], issues := [], parks := [], cur := none, ev := none }

end Sys2Proof.Machine

namespace Sys2Proof.Config

/-- What the bytes of an image section record, by STYPE, where Table 14-9 does not lay them out and no save of this device wrote them
(log entry 13). -/
opaque sectionMeaning : Nat → List (BitVec 8) → Sys2Proof.Machine.Section

end Sys2Proof.Config
end

