-- ==== Sys2Proof/Machine/Ops.lean ====
section
/-! DEFINITION. The named operations over memory, registers, units, counters and the schedule; taking a trap. -/

namespace Sys2Proof.Machine

/-! ### Byte stores in canonical form -/

/-- The byte at an address; an unlisted address reads 0 (log entry 2). -/
def cellGet (m : List Host.Cell) (a : Nat) : Byte :=
  match m with
  | [] => 0
  | (x, b) :: t => if x = a then b else if a < x then 0 else cellGet t a

/-- Write one byte, keeping addresses rising and listing no zero. -/
def cellPut (m : List Host.Cell) (a : Nat) (v : Byte) : List Host.Cell :=
  match m with
  | [] => if v = 0 then [] else [(a, v)]
  | (x, b) :: t =>
    if a < x then (if v = 0 then (x, b) :: t else (a, v) :: (x, b) :: t)
    else if x = a then (if v = 0 then t else (a, v) :: t)
    else (x, b) :: cellPut t a v

def cellsGet (m : List Host.Cell) (a : Nat) : Nat → List Byte
  | 0 => []
  | n + 1 => cellGet m a :: cellsGet m (a + 1) n

def cellsPut (m : List Host.Cell) (a : Nat) : List Byte → List Host.Cell
  | [] => m
  | b :: bs => cellsPut (cellPut m a b) (a + 1) bs

/-- Drop every byte of [lo, hi). -/
def cellsClear (m : List Host.Cell) (lo hi : Nat) : List Host.Cell :=
  m.filter fun c => !(lo ≤ c.1 && c.1 < hi)

/-- The canonical form: addresses strictly rising, and no entry that reads as an unlisted one. -/
def Memory.wf : List Host.Cell → Bool
  | [] => true
  | [(_, b)] => b != 0
  | (x, b) :: (y, c) :: t => b != 0 && x < y && Memory.wf ((y, c) :: t)

/-! ### Local HBM4E and scratchpad (R6, R70, R227) -/

/-- Bytes of local HBM4E (Table 8-1). -/
def hbmBytes : Nat := 0xC000000000
def dieBytes : Nat := 0x3000000000
/-- Home die of a physical address, if it has one (R70). -/
def homeOf (pa : Nat) : Option Nat := if pa < hbmBytes then some (pa / dieBytes) else none

def State.memBytes (s : State) (pa n : Nat) : List Byte := cellsGet s.mem pa n
def State.memVal (s : State) (pa n : Nat) : Nat := leVal (s.memBytes pa n)
def State.memPut (s : State) (pa : Nat) (bs : List Byte) : State := { s with mem := cellsPut s.mem pa bs }
def State.memWrite (s : State) (pa n v : Nat) : State := s.memPut pa (leBytes n v)

/-- Bytes of one core's scratchpad. -/
def scratchBytes : Nat := 393216
/-- Places of a core's scratchpad in the model: as many as 33 gaps of its size and itself need (log entry 38). -/
def scratchSpan : Nat := 2 ^ 24
/-- Number of a core's first scratchpad place in the package. -/
def scrBase (die core : Nat) : Nat := (die * 128 + core) * scratchSpan
def State.scrBytes (s : State) (a n : Nat) : List Byte := cellsGet s.scratch a n
def State.scrPut (s : State) (a : Nat) (bs : List Byte) : State := { s with scratch := cellsPut s.scratch a bs }

/-! ### Lists by index and by key -/

def updAt {α : Type} (l : List α) (i : Nat) (f : α → α) : List α :=
  match l, i with
  | [], _ => []
  | x :: t, 0 => f x :: t
  | x :: t, n + 1 => x :: updAt t n f

/-- Apply `f` to the entries that satisfy `p`. -/
def updIf {α : Type} (l : List α) (p : α → Bool) (f : α → α) : List α := l.map fun x => if p x then f x else x

/-- Apply `f` to the first entry that satisfies `p`. -/
def updFirst {α : Type} (p : α → Bool) (f : α → α) : List α → List α
  | [] => []
  | x :: t => if p x then f x :: t else x :: updFirst p f t

/-- Apply `f` to the last entry that satisfies `p`. -/
def updLast {α : Type} (p : α → Bool) (f : α → α) (l : List α) : List α := (updFirst p f l.reverse).reverse

/-- Update the entry that satisfies `p`, adding `d` first where none does. -/
def upsert {α : Type} (l : List α) (p : α → Bool) (d : α) (f : α → α) : List α :=
  if l.any p then updIf l p f else l ++ [f d]

/-- Insert in ascending order of a key, after equals. -/
def insertBy {α : Type} (key : α → Nat) (x : α) : List α → List α
  | [] => [x]
  | y :: t => if key x < key y then x :: y :: t else y :: insertBy key x t

def sortBy {α : Type} (key : α → Nat) (l : List α) : List α := l.foldl (fun acc x => insertBy key x acc) []

/-- The item with the least key, the first of equals. -/
def leastBy {α : Type} (key : α → Nat) (l : List α) : Option α :=
  l.foldl (fun (b : Option α) x => match b with
    | some y => if key x < key y then some x else b
    | none => some x) none

/-- Lookup in a list of pairs with a default. -/
def lookD {α : Type} (l : List (Nat × α)) (k : Nat) (d : α) : α :=
  match l with
  | [] => d
  | (x, v) :: t => if x = k then v else lookD t k d

def putKey {α : Type} (l : List (Nat × α)) (k : Nat) (v : α) : List (Nat × α) :=
  match l with
  | [] => [(k, v)]
  | (x, w) :: t => if x = k then (k, v) :: t else (x, w) :: putKey t k v

/-! ### Error words (Tables 10-8, 13-5) -/

def errWordVal (e : ErrWord) : Nat := e.kind + e.num % 2 ^ 32 * 2 ^ 8 + min e.more 65535 * 2 ^ 40

/-- Record an error of a job or send: the first keeps its kind and number, others are counted. -/
def ErrWord.add (e : ErrWord) (kind num : Nat) : ErrWord :=
  if e.kind = 0 then { e with kind := kind, num := num } else { e with more := min (e.more + 1) 65535 }

/-! ### Units -/

def State.team? (s : State) (t : TeamRef) : Option Team := s.teams.find? (·.ref == t)
def State.modTeam (s : State) (t : TeamRef) (f : Team → Team) : State :=
  { s with teams := updIf s.teams (·.ref == t) f }

def Team.lane (t : Team) (l : Nat) : Lane := t.lanes.getD l default
def Team.modLane (t : Team) (l : Nat) (f : Lane → Lane) : Team := { t with lanes := updAt t.lanes l f }
def State.modLane (s : State) (t : TeamRef) (l : Nat) (f : Lane → Lane) : State := s.modTeam t fun x => x.modLane l f
/-- Apply an update to every lane of a mask. -/
def State.modLanes (s : State) (t : TeamRef) (m : Lanes) (f : Nat → Lane → Lane) : State :=
  s.modTeam t fun x => { x with lanes := x.lanes.zipIdx.map fun (y, i) => if m.getLsbD i then f i y else y }
def State.lane (s : State) (t : TeamRef) (l : Nat) : Lane :=
  match s.team? t with
  | some x => x.lane l
  | none => default

/-- Lanes of a team in a state that satisfies `p`. -/
def Team.lanesIn (t : Team) (p : Lane → Bool) : Lanes :=
  maskOf ((List.range 32).filter fun l => p (t.lane l))

def State.group? (s : State) (g : GroupRef) : Option Group := s.groups.find? (·.ref == g)
def State.modGroup (s : State) (g : GroupRef) (f : Group → Group) : State :=
  { s with groups := updIf s.groups (·.ref == g) f }
/-- What a context that has left a device keeps there, under a number of its own: chunks (R408), and the groups, jobs and sends that outlive
its retirement (R445, R449). -/
def State.away? (s : State) (ctx : Nat) : Option Away := s.aways.find? (·.ctx.id == ctx)
def State.ctx? (s : State) (c : Nat) : Option Ctx := (s.ctxs.find? (·.id == c)).or ((s.away? c).map (·.ctx))
def State.modCtx (s : State) (c : Nat) (f : Ctx → Ctx) : State := { s with ctxs := updIf s.ctxs (·.id == c) f }
def State.plan? (s : State) (c rcb : Nat) : Option Plan :=
  (s.plans.find? fun p => p.ctx == c && p.rcb == rcb).or ((s.away? c).bind fun a => a.plans.find? (·.rcb == rcb))
/-- The same reference under another context id. -/
def GroupRef.ofCtx (ctx : Nat) (g : GroupRef) : GroupRef := ⟨ctx, g.rcb, g.rank⟩
def renameBar (ctx : Nat) (b : BarRef) : BarRef := match b with
  | .priv g n => .priv (GroupRef.ofCtx ctx g) n
  | .gang g n => .gang (GroupRef.ofCtx ctx g) n
  | .ctx _ n => .ctx ctx n
/-- A group holds resources or has exited; any other record only keeps the timelines of a group that is yet to be placed (R354). -/
def Group.stands (g : Group) : Bool := g.teams != 0 || g.exitAt.isSome
def State.modPlan (s : State) (c rcb : Nat) (f : Plan → Plan) : State :=
  { s with plans := updIf s.plans (fun p => p.ctx == c && p.rcb == rcb) f }
def State.pipe? (s : State) (p : PipeRef) : Option Pipe := s.pipes.find? (·.ref == p)
def State.modPipe (s : State) (p : PipeRef) (f : Pipe → Pipe) : State := { s with pipes := updIf s.pipes (·.ref == p) f }

def State.die (s : State) (d : Nat) : Die := s.dies.getD d (Die.init d)
def State.modDie (s : State) (d : Nat) (f : Die → Die) : State := { s with dies := updAt s.dies d f }

def Core.init (d c : Nat) : Core :=
  { die := d, ix := c, rot := [7, 7, 7, 7], longTo := [0, 0, 0, 0], crossTo := [0, 0, 0, 0], issTo := [0, 0, 0, 0], tb := [], shadow := [],
    owner := none, fenced := false, hold := false }
def State.core (s : State) (d c : Nat) : Core :=
  (s.cores.find? fun x => x.die == d && x.ix == c).getD (Core.init d c)
def State.modCore (s : State) (d c : Nat) (f : Core → Core) : State :=
  { s with cores := upsert s.cores (fun x => x.die == d && x.ix == c) (Core.init d c) f }

def Cluster.init (d c : Nat) : Cluster :=
  { die := d, ix := c, queue := [], sets := [⟨none, [], []⟩, ⟨none, [], []⟩], icache := [], fills := [], again := [], flaws := [] }
def State.cluster (s : State) (d c : Nat) : Cluster :=
  (s.clusters.find? fun x => x.die == d && x.ix == c).getD (Cluster.init d c)
def State.modCluster (s : State) (d c : Nat) (f : Cluster → Cluster) : State :=
  { s with clusters := upsert s.clusters (fun x => x.die == d && x.ix == c) (Cluster.init d c) f }

def Engine.init (d e : Nat) : Engine :=
  { die := d, ix := e, groups := [], rows := [], scales := [], run := none, tail := none, ending := [], busyFrom := none, idleAt := none, last := none, csver := 0, csnew := none,
    store := [], half := 0, fence := 0 }
def State.engine (s : State) (d e : Nat) : Engine :=
  (s.engines.find? fun x => x.die == d && x.ix == e).getD (Engine.init d e)
def State.modEngine (s : State) (d e : Nat) (f : Engine → Engine) : State :=
  { s with engines := upsert s.engines (fun x => x.die == d && x.ix == e) (Engine.init d e) f }

def State.chan (s : State) (d c i : Nat) : Chan :=
  (s.chans.find? fun x => x.die == d && x.core == c && x.ix == i).getD ⟨d, c, i, [], 0⟩
def State.modChan (s : State) (d c i : Nat) (f : Chan → Chan) : State :=
  { s with chans := upsert s.chans (fun x => x.die == d && x.core == c && x.ix == i) ⟨d, c, i, [], 0⟩ f }

def State.bar? (s : State) (b : BarRef) : Option Bar := (s.bars.find? (·.1 == b)).map (·.2)
def State.modBar (s : State) (b : BarRef) (f : Bar → Bar) : State :=
  { s with bars := updIf s.bars (·.1 == b) fun x => (x.1, f x.2) }

def State.chunk? (s : State) (ctx rcb c : Nat) : Option Chunk :=
  s.chunks.find? fun x => x.ctx == ctx && x.rcb == rcb && x.c == c
def State.modChunk (s : State) (ctx rcb c : Nat) (f : Chunk → Chunk) : State :=
  { s with chunks := updIf s.chunks (fun x => x.ctx == ctx && x.rcb == rcb && x.c == c) f }

/-- The mark under which the units of a context stand while it is being saved. -/
def heldMark (ctx : Nat) : Nat := 2 ^ 48 + ctx
/-- The units of a context have been stopped for a save (Table 14-7). -/
def State.halted (s : State) (ctx : Nat) : Bool := s.sections.any fun x => x.image == heldMark ctx

/-! ### Schedule (log entry 1) -/

/-- Have an event happen `n` cycles from now. -/
def State.after (s : State) (n : Nat) (i : Event) : State := { s with agenda := s.agenda ++ [(s.clock + n, i)] }
/-- Have an event happen at a cycle, or now where that has passed. -/
def State.at_ (s : State) (c : Nat) (i : Event) : State := { s with agenda := s.agenda ++ [(max c s.clock, i)] }
/-- Have an event happen at the end of the cycle, once. -/
def State.atEnd (s : State) (i : Event) : State := if s.eoc.contains i then s else { s with eoc := s.eoc ++ [i] }
/-- Forget scheduled events that satisfy `p`. -/
def State.cancel (s : State) (p : Event → Bool) : State := { s with agenda := s.agenda.filter fun e => !p e.2 }
def State.isDue (s : State) (p : Event → Bool) : Bool := s.agenda.any fun e => p e.2

/-- Have an event happen at a cycle, unless it already will. -/
def State.once (s : State) (c : Nat) (e : Event) : State := if s.agenda.contains (max c s.clock, e) then s else s.at_ c e

/-! ### Headwater register words and counters (R51) -/

def hwBase (d : Nat) : Nat := 0xFFF000000000 + 0x10000000 * d

/-- Registers that are device-wide stand once (R419); others per die. Offsets of Table 13-9. -/
def hwKey (d off : Nat) : Nat := if 0xE00 ≤ off && off < 0x1000 then off else d * 0x10000 + off

/-- Reset values other than zero of stored register words (Tables 2-1, 2-2, 3-1, 8-5, 9-10, 13-9, 14-11). -/
def hwReset (off : Nat) : W64 :=
  if 0x1000 ≤ off && off < 0x1800 && off % 64 == 0 then BitVec.ofNat 64 (10 * 2 ^ 48)
  else match off with
    | 0x008 => 1
    | 0x828 => 4096
    | 0x920 => 0x1000
    | 0x928 => BitVec.ofNat 64 (8 * 2 ^ 48)
    | 0xA00 => 0x0600
    | 0xE20 => 1000
    | 0x4000 => BitVec.ofNat 64 (8 * 2 ^ 48)
    | _ => 0

/-- The stored word of a register. -/
def State.reg (s : State) (d off : Nat) : W64 := lookD s.hw (hwKey d off) (hwReset off)
def State.setReg (s : State) (d off : Nat) (v : W64) : State := { s with hw := putKey s.hw (hwKey d off) v }
/-- Field [hi:lo] of a register. -/
def State.fld (s : State) (d off hi lo : Nat) : Nat := bits (s.reg d off).toNat hi lo
def State.setFld (s : State) (d off hi lo v : Nat) : State :=
  s.setReg d off (BitVec.ofNat 64 (setBits (s.reg d off).toNat hi lo v))
/-- Add to a counter field, which holds at its maximum. -/
def State.bump (s : State) (d off hi lo : Nat) (n : Nat := 1) : State :=
  s.setFld d off hi lo (min (s.fld d off hi lo + n) (2 ^ (hi + 1 - lo) - 1))

/-! ### Registers of a lane (R9, R154) -/

def Lane.rg (l : Lane) (n : Nat) : W32 := l.g.getD n 0
def Lane.wg (l : Lane) (n : Nat) (v : W32) : Lane := { l with g := updAt l.g n fun _ => v }
/-- The value of `r` registers from `n`, the first least significant. -/
def Lane.rgs (l : Lane) (n r : Nat) : Nat :=
  match r with
  | 0 => 0
  | r + 1 => (l.rg n).toNat + 2 ^ 32 * l.rgs (n + 1) r
def Lane.wgs (l : Lane) (n r v : Nat) : Lane :=
  match r with
  | 0 => l
  | r + 1 => (l.wg n (BitVec.ofNat 32 v)).wgs (n + 1) r (v / 2 ^ 32)
/-- Predicate read; p7 reads true (R9). -/
def Lane.rp (l : Lane) (n : Nat) : Bool := n ≥ 7 || l.p.getLsbD n
/-- Predicate write; a write to p7 is discarded. -/
def Lane.wp (l : Lane) (n : Nat) (v : Bool) : Lane :=
  if n ≥ 7 then l else { l with p := BitVec.ofNat 7 (setBits l.p.toNat n n v.toNat) }
def Team.rk (t : Team) (n r : Nat) : Nat :=
  match r with
  | 0 => 0
  | r + 1 => (t.k.getD n 0).toNat + 2 ^ 32 * t.rk (n + 1) r

/-- Set the liveness bits of predicates that an executing lane writes (R432). -/
def State.live (s : State) (t : TeamRef) (ps : List Nat) : State :=
  s.modTeam t fun x => { x with plive := ps.foldl (fun m i => if i < 7 then m ||| (1#7 <<< i) else m) x.plive }

/-- Schedule the write of k registers at the end of a result latency (R155). -/
def State.writeK (s : State) (t : TeamRef) (m : Lanes) (pc : Addr) (n r v lat : Nat) : State :=
  let kw := (List.range r).map fun i => (n + i, BitVec.ofNat 32 (v / 2 ^ (32 * i)))
  (s.modTeam t fun x => { x with kpend := x.kpend ++ [⟨pc, m, s.clock + lat, kw⟩] }).after lat (.lookaheadResult t m pc)

/-- Write the pending k results that satisfy `p`. -/
def Team.flushK (t : Team) (p : KPend → Bool) : Team :=
  { t with k := (t.kpend.filter p).foldl (fun k e => e.writes.foldl (fun k w => updAt k w.1 fun _ => w.2) k) t.k
           kpend := t.kpend.filter fun e => !p e }

/-- Complete the pending results of the windows of lanes `m` now (R146). -/
def Team.flushLanes (t : Team) (m : Lanes) : Team := t.flushK fun e => e.lanes &&& m != 0

/-- The last k result of an instruction of lanes `m` that is pending comes at another cycle, `f` of that before. -/
def State.moveK (s : State) (t : TeamRef) (m : Lanes) (pc : Addr) (f : Nat → Nat) : State :=
  let mine (e : KPend) : Bool := e.pc == pc && e.lanes &&& m != 0
  match (s.team? t).bind fun tm => tm.kpend.reverse.find? mine with
  | none => s
  | some e => (s.modTeam t fun x => { x with kpend := updLast mine (fun e => { e with due := f e.due }) x.kpend }).at_ (f e.due)
      (.lookaheadResult t e.lanes pc)

/-- The k results that a team awaits beyond its first `m` come `n` cycles later. -/
def State.lateK (s : State) (t : TeamRef) (m n : Nat) : State :=
  if n = 0 then s else
  match s.team? t with
  | none => s
  | some tm =>
    let late := (tm.kpend.drop m).map fun e => { e with due := e.due + n }
    let s := s.modTeam t fun x => { x with kpend := x.kpend.take m ++ late }
    { s with agenda := s.agenda ++ late.map fun e => (e.due, .lookaheadResult t e.lanes e.pc) }

/-- Cycle by which the lane's accesses that satisfy `p` have been performed. -/
def Lane.performed (l : Lane) (p : LaneAcc → Bool) : Nat := l.accs.foldl (fun m a => if p a then max m a.due else m) 0

/-- Cycles until a lane's accesses so far have been performed. -/
def Lane.settled (y : Lane) (clock : Nat) : Nat := y.performed (fun _ => true) - clock

/-- A fence that was issued after an access waits for it. -/
def Window.awaits (w : Window) (a : LaneAcc) : Bool :=
  w.fence && (a.read || !w.reads) && (match w.due with
    | some t => a.since < t
    | none => false)

/-- The access that an instruction of lanes `m` made at a cycle is performed at another, `f` of that before, and with it the result that
its window awaits, and the end of a fence after it: memory-path events that are met after issue (R87, R393). `win`: its instruction has a
window. -/
def Lane.move (l : Lane) (pc : Addr) (since : Nat) (f : Nat → Nat) (win : Bool) : Lane :=
  let mine (a : LaneAcc) : Bool := a.pc == pc && a.since == since
  let accs := updIf l.accs mine fun a => { a with due := f a.due }
  let ws := if win then updLast (·.pc == pc) (fun w => { w with due := w.due.map f }) l.win else l.win
  { l with accs := accs
           win := ws.map fun w => { w with due := w.due.map fun t =>
             (accs.filter fun a => mine a && w.awaits a).foldl (fun t a => max t a.due) t } }

def State.moveAccess (s : State) (t : TeamRef) (m : Lanes) (pc : Addr) (since : Nat) (f : Nat → Nat) (win : Bool) : State :=
  (s.modLanes t m fun _ l => l.move pc since f win).moveK t m pc f

/-- Cycle by which the accesses that lanes made up to a cycle have been performed. -/
def State.performedBy (s : State) (t : TeamRef) (m : Lanes) (since : Nat) : Nat :=
  match s.team? t with
  | none => 0
  | some tm => (lanesOf m).foldl (fun c l => max c ((tm.lane l).performed fun a => a.since ≤ since)) 0

/-- Accesses that something waits for have been performed. -/
def State.settledNow (s : State) (w : Settle) : Bool := s.performedBy w.team w.lanes w.since ≤ s.clock

/-! ### Identity, clocks and stamps -/

/-- Order of global identifiers (R128). -/
def identKey (ctx rank ix lane : Nat) : Nat := ((ctx * 2 ^ 64 + rank) * 8 + ix) * 32 + lane
def Team.key (t : Team) (lane : Nat) : Nat := identKey t.grp.ctx t.grp.rank t.ix lane

/-- The key of a thread in a race record (R343). -/
def raceKey (t : TeamRef) (lane ctx : Nat) : BitVec 31 :=
  BitVec.ofNat 31 (t.die * 2 ^ 29 + t.core * 2 ^ 22 + t.slot * 2 ^ 17 + lane * 2 ^ 12 + ctx % 4096)

/-- An event of a die's firmware core is raised: a hotness record (0), a submission entry (1) or a fence event (2); the writes that raise it
carry C(d) (R441). -/
def State.raiseEvent (s : State) (d k : Nat) : State := s.modDie d fun x => { x with raised := updAt x.raised k fun _ => x.c }

/-- Stamp of a release by a thread, and C(d) afterwards (R340). -/
def State.release (s : State) (d h : Nat) : Nat × State :=
  let r := max (s.die d).c h + 1
  (r, s.modDie d fun x => { x with c := max x.c r })

/-- Releases of several lanes in turn; the largest stamp. -/
def State.releaseLanes (s : State) (t : TeamRef) (m : Lanes) : Nat × State :=
  (lanesOf m).foldl (fun (st : Nat × State) l =>
    let (r, s') := st.2.release t.die (st.2.lane t l).horizon
    (max st.1 r, s')) (0, s)

/-- Raise a lane's horizon (R341). -/
def Lane.acquire (l : Lane) (stamp : Nat) : Lane := { l with horizon := max l.horizon stamp }

/-! ### Taking a trap (R420 to R425) -/

/-- Priority of a thread trap (Table 14-1): the kinds stand in order of priority. -/
def trapPrio (kind : Nat) : Nat := kind

/-- How a lane stands after its trap (R422): parked at the instruction, past it for `trap`, and Waiting-op for `sysc`; a watchdog's record
(R148) parks lanes at different instructions. -/
def parkedLane (kind : Nat) (pc : Addr) (l : Lane) : Lane :=
  if kind = 0x23 then { l with st := .op, pc := pc, wait := .sysc, win := [], psv := true, pserial := 0, wakeAt := none }
  else { l with st := .parked, pc := if kind = 0x21 then nextPc pc else if kind = 0x25 then l.pc else pc, wait := .none, win := [], psv := true,
                pserial := 0, wakeAt := none }

/-- What a trap record says besides its place: kind and details. -/
structure TrapInfo where
  kind : Nat
  d0   : W32
  d1   : W64
  d2   : W64
  d3   : W64
  d4   : W64
  deriving DecidableEq, Repr, Inhabited

def TrapInfo.simple (kind : Nat) (d0 : Nat := 0) (d1 : Nat := 0) : TrapInfo :=
  ⟨kind, BitVec.ofNat 32 d0, BitVec.ofNat 64 d1, 0, 0, 0⟩

/-- Hand a record to the die: it is queued with the records of its cycle (R425). -/
def State.pushRec (s : State) (r : Rec) : State :=
  (s.modDie r.die fun x => { x with newRecs := x.newRecs ++ [r] }).atEnd (.faultRecordWrite r.die)

/-- Take a trap: the lanes park with their pending results written, and the record, which names lanes `named`, goes to the die (R420
to R424). -/
def State.trap (s : State) (t : TeamRef) (m : Lanes) (pc : Addr) (i : TrapInfo) (key : Nat) (named : Lanes := m) : State :=
  match s.team? t with
  | none => s
  | some tm =>
    let s1 := (s.modTeam t fun x => x.flushLanes m).modLanes t m fun _ l => parkedLane i.kind pc l
    s1.pushRec
      { die := t.die, serial := 0, kind := i.kind, ctx := tm.grp.ctx, core := t.core, slot := t.slot, teamix := tm.ix,
        fw := (s.die t.die).fwcore == t.core, time := s.clock, pc := if i.kind = 0x21 then nextPc pc else pc, lanes := named,
        d0 := i.d0, grank := tm.grp.rank, d1 := i.d1, d2 := i.d2, d3 := i.d3, d4 := i.d4, key := key,
        unit := .lanes t m, raw := [] }

/-- A record of a unit that parks no lane (kinds 0x0030 to 0x0034). -/
def State.unitRec (s : State) (die kind ctx : Nat) (d0 : W32) (d1 d2 : W64) (u : RecUnit) (raw : List W64 := []) : State :=
  s.pushRec { die := die, serial := 0, kind := kind, ctx := ctx, core := 0, slot := 0, teamix := 0, fw := false,
              time := s.clock, pc := 0, lanes := 0, d0 := d0, grank := 0, d1 := d1, d2 := d2, d3 := 0, d4 := 0,
              key := 2 ^ 90 + kind, unit := u, raw := raw }

/-! ### Return from a trap: back to running -/

/-- A lane returned to Runnable at its pc, or to its recorded wait (R426, R439). -/
def resumedLane (clock : Nat) (l : Lane) : Lane :=
  let y := { l with psv := false, pserial := 0, win := [], wakeAt := none }
  match l.wait with
  | .sleep n => { y with st := .op, wait := .sleep n }
  | .bar b x => { y with st := .op, wait := .bar b x }
  | .sysc => { y with st := .op, wait := .sysc }
  | _ => { y with st := .runnable, wait := .none, hold := max l.hold (clock + 1) }

/-! ### Waiting and waking -/

/-- Cycles for which an access waits for a port (R393). -/
def portPatience : Nat := 2 ^ 24

/-- Put lanes into Waiting-op at their instruction; a wait for a port ends in a fault after 2^24 cycles (R393). -/
def State.waitLanes (s : State) (t : TeamRef) (m : Lanes) (w : Wait) : State :=
  let s := match w with
    | .port dev .. => s.after portPatience (.ualinkRouteTimeout dev)
    | _ => s
  s.modLanes t m fun _ l => { l with st := .op, wait := w, wakeAt := none }

/-- Make Waiting-op lanes runnable again at their pc, to issue the instruction once more (R269). -/
def State.wakeLanes (s : State) (t : TeamRef) (m : Lanes) : State :=
  s.modLanes t m fun _ l => match l.st with
    | .op => { l with st := .runnable, wait := .none, wakeAt := none }
    | _ => l

/-- A waiting lane passes its instruction: its open windows shrink by one. -/
def Lane.shrink (l : Lane) : Lane := { l with win := l.win.map fun w => { w with left := w.left - 1 } }

/-- Complete the wait of Waiting-op lanes: they go on past the instruction, acquiring `stamp`. -/
def State.passLanes (s : State) (t : TeamRef) (m : Lanes) (stamp : Nat) : State :=
  s.modLanes t m fun _ l => match l.st with
    | .op => { (l.acquire stamp).shrink with st := .runnable, wait := .none, wakeAt := none, pc := nextPc l.pc, ra := none }
    | _ => l

/-- Lanes of the teams that satisfy `p` as (team, lane). -/
def State.lanesWhere (s : State) (p : Team → Lane → Bool) : List (TeamRef × Lanes) :=
  (s.teams.map fun t => (t.ref, t.lanesIn (p t))).filter fun x => x.2 != 0

/-- Wake every lane that satisfies `p`. -/
def State.wakeWhere (s : State) (p : Team → Lane → Bool) : State :=
  (s.lanesWhere fun t l => l.st == .op && p t l).foldl (fun s x => s.wakeLanes x.1 x.2) s

/-- The wait of the lanes that satisfy `p` is satisfied; they go on `n` cycles from now. -/
def State.wakeIn (s : State) (n : Nat) (p : Team → Lane → Bool) : State :=
  (s.lanesWhere fun t l => l.st == .op && l.wakeAt.isNone && p t l).foldl (fun s x =>
    s.modLanes x.1 x.2 fun _ l => { l with wakeAt := some (s.clock + n) }) s

/-- Lanes whose wait was satisfied and that go on now, among those that satisfy `p`. -/
def State.dueLanes (s : State) (p : Team → Lane → Bool) : List (TeamRef × Lanes) :=
  s.lanesWhere fun t l => l.st == .op && (match l.wakeAt with
    | some c => c ≤ s.clock
    | none => false) && p t l

/-- The group of a team; a team of the firmware has none of its own (log entry 20). -/
def State.groupOf (s : State) (g : GroupRef) : Group := (s.group? g).getD default

/-! ### What a core has left (R76, R89) -/

/-- A core on which groups may stand: not the firmware core, not fenced, on a die that is up (R2, R72, R91). -/
def State.workCore (s : State) (d c : Nat) : Bool := (s.die d).up && c != (s.die d).fwcore && !(s.core d c).fenced

def State.groupsOn (s : State) (d c : Nat) : List Group := s.groups.filter fun g => g.die == d && g.core == c && g.teams != 0

/-- Occupied team slots of a core: of its groups, and of teams that belong to none. -/
def State.slotsOn (s : State) (d c : Nat) : Nat :=
  ((s.groupsOn d c).map (·.teams)).sum +
  (s.teams.filter fun t => t.ref.die == d && t.ref.core == c && (s.group? t.grp).isNone).length

/-- A cluster's reduce reserve stands on its lowest-numbered work core while a context with COLLEN is resident. -/
def State.reserveOn (s : State) (d c : Nat) : Bool :=
  (s.ctxs.any (·.collen)) && ((List.range 4).map fun i => c / 4 * 4 + i).find? (s.workCore d) == some c

/-- Free team slots, free g registers, and the scratchpad bytes that groups may take, of a core. -/
def State.freeSlots (s : State) (d c : Nat) : Nat := 32 - s.slotsOn d c - (s.reserveOn d c).toNat
def State.freeRegs (s : State) (d c : Nat) : Nat :=
  131072 - ((s.groupsOn d c).map fun g => g.regs * 32 * g.teams).sum - (s.reserveOn d c).toNat * 2048

/-- Scratchpad bytes of a core that no group and no reserve holds (R26, R76). -/
def State.freeScratch (s : State) (d c : Nat) : Nat :=
  scratchBytes - ((s.groupsOn d c).map (·.alloc)).sum - (s.reserveOn d c).toNat * 8192

/-- The lowest place of a core from which `n` bytes stand together: windows keep their places while they are held, and the places of a
core are so many that some gap among 32 windows always has room (log entry 38). -/
def State.hole (s : State) (d c n : Nat) : Option Nat :=
  let gs := (s.groupsOn d c).filter fun g => g.alloc != 0
  let starts := sortBy id (0 :: gs.map fun g => g.winBase + g.alloc)
  if n > s.freeScratch d c then none else starts.find? fun a => gs.all fun g => a + n ≤ g.winBase || g.winBase + g.alloc ≤ a

/-- A cluster's reduce reserve that a block may take: no group that was there before holds its slot or its registers (R89). -/
def State.reserveFree (s : State) (d c : Nat) : Bool :=
  s.reserveOn d c && s.slotsOn d c < 32 && ((s.groupsOn d c).map fun g => g.regs * 32 * g.teams).sum + 2048 ≤ 131072 &&
  ((s.groupsOn d c).map (·.alloc)).sum + 8192 ≤ scratchBytes

/-- Reduce blocks that the package's reserves take at one time. -/
def State.reserves (s : State) : Nat :=
  ((List.range 4).map fun d => ((List.range 128).filter (s.reserveFree d)).length).sum

/-- Occupied team slots of a cluster, the reserve among them. -/
def State.clusterLoad (s : State) (d k : Nat) : Nat :=
  ((List.range 4).map fun i => s.slotsOn d (4 * k + i) + (s.reserveOn d (4 * k + i)).toNat).sum
def State.dieLoad (s : State) (d : Nat) : Nat := ((List.range 32).map (s.clusterLoad d)).sum

end Sys2Proof.Machine
end

