-- ==== Sys2Proof/Machine/Walker.lean ====
section
/-! DEFINITION. The core of a die's walker engine, which runs a routine that the firmware has loaded: RV32IMC (R236). The rule names the
instruction set and no more; its encodings and meanings are PRESUMED from the RISC-V base and M and C extensions (log entry 49). -/

namespace Sys2Proof.Machine

/-! ### Compressed words -/

def rvI (op f3 rd rs imm : Nat) : Nat := op + rd * 2 ^ 7 + f3 * 2 ^ 12 + rs * 2 ^ 15 + imm % 4096 * 2 ^ 20
def rvR (f7 f3 rd rs rt : Nat) : Nat := 0x33 + rd * 2 ^ 7 + f3 * 2 ^ 12 + rs * 2 ^ 15 + rt * 2 ^ 20 + f7 * 2 ^ 25
def rvS (f3 rs rt imm : Nat) : Nat := 0x23 + imm % 32 * 2 ^ 7 + f3 * 2 ^ 12 + rs * 2 ^ 15 + rt * 2 ^ 20 + imm / 32 % 128 * 2 ^ 25
def rvB (f3 rs imm : Nat) : Nat :=
  0x63 + bits imm 11 11 * 2 ^ 7 + bits imm 4 1 * 2 ^ 8 + f3 * 2 ^ 12 + rs * 2 ^ 15 + bits imm 10 5 * 2 ^ 25 + bits imm 12 12 * 2 ^ 31
def rvJ (rd imm : Nat) : Nat :=
  0x6F + rd * 2 ^ 7 + bits imm 19 12 * 2 ^ 12 + bits imm 11 11 * 2 ^ 20 + bits imm 10 1 * 2 ^ 21 + bits imm 20 20 * 2 ^ 31

/-- The 32-bit word that a compressed word stands for; none where it stands for no instruction of RV32IMC. -/
def rvExpand (h : Nat) : Option Nat :=
  let rd := bits h 11 7
  let rt := bits h 6 2
  let ra := bits h 9 7 + 8
  let rb := bits h 4 2 + 8
  let i6 := wrap 12 (toSigned 6 (bits h 12 12 * 32 + rt))
  let lw := bits h 12 10 * 8 + bits h 6 6 * 4 + bits h 5 5 * 64
  let j := wrap 21 (toSigned 12 (bits h 12 12 * 2 ^ 11 + bits h 11 11 * 2 ^ 4 + bits h 10 9 * 2 ^ 8 + bits h 8 8 * 2 ^ 10 + bits h 7 7 * 2 ^ 6 +
    bits h 6 6 * 2 ^ 7 + bits h 5 3 * 2 + bits h 2 2 * 2 ^ 5))
  let b := wrap 13 (toSigned 9 (bits h 12 12 * 2 ^ 8 + bits h 11 10 * 2 ^ 3 + bits h 6 5 * 2 ^ 6 + bits h 4 3 * 2 + bits h 2 2 * 2 ^ 5))
  let sp := wrap 12 (toSigned 10 (bits h 12 12 * 2 ^ 9 + bits h 6 6 * 2 ^ 4 + bits h 5 5 * 2 ^ 6 + bits h 4 3 * 2 ^ 7 + bits h 2 2 * 2 ^ 5))
  let top := h.testBit 12
  match h % 4, bits h 15 13 with
  | 0, 0 => let n := bits h 12 11 * 16 + bits h 10 7 * 64 + bits h 6 6 * 4 + bits h 5 5 * 8
            if n = 0 then none else some (rvI 0x13 0 rb 2 n)
  | 0, 2 => some (rvI 0x03 2 rb ra lw)
  | 0, 6 => some (rvS 2 ra rb lw)
  | 1, 0 => some (rvI 0x13 0 rd rd i6)
  | 1, 1 => some (rvJ 1 j)
  | 1, 2 => some (rvI 0x13 0 rd 0 i6)
  | 1, 3 => if rd = 2 then (if sp = 0 then none else some (rvI 0x13 0 2 2 sp))
            else if i6 = 0 then none
            else some (0x37 + rd * 2 ^ 7 + wrap 20 (toSigned 6 (bits h 12 12 * 32 + rt)) * 2 ^ 12)
  | 1, 4 => match bits h 11 10 with
    | 0 => if top then none else some (rvI 0x13 5 ra ra rt)
    | 1 => if top then none else some (rvI 0x13 5 ra ra (rt + 0x400))
    | 2 => some (rvI 0x13 7 ra ra i6)
    | _ => if top then none else match bits h 6 5 with
      | 0 => some (rvR 0x20 0 ra ra rb)
      | 1 => some (rvR 0 4 ra ra rb)
      | 2 => some (rvR 0 6 ra ra rb)
      | _ => some (rvR 0 7 ra ra rb)
  | 1, 5 => some (rvJ 0 j)
  | 1, 6 => some (rvB 0 ra b)
  | 1, 7 => some (rvB 1 ra b)
  | 2, 0 => if top then none else some (rvI 0x13 1 rd rd rt)
  | 2, 2 => if rd = 0 then none else some (rvI 0x03 2 rd 2 (bits h 12 12 * 32 + bits h 6 4 * 4 + bits h 3 2 * 64))
  | 2, 4 =>
    if rt != 0 then some (rvR 0 0 rd (if top then rd else 0) rt)
    else if rd = 0 then (if top then some 0x00100073 else none)
    else some (rvI 0x67 0 top.toNat rd 0)
  | 2, 6 => some (rvS 2 2 rt (bits h 12 9 * 4 + bits h 8 7 * 64))
  | _, _ => none

/-! ### Arithmetic -/

def rvAlu (f3 : Nat) (alt : Bool) (a b : W32) : W32 := match f3 with
  | 0 => if alt then a - b else a + b
  | 1 => a <<< (b.toNat % 32)
  | 2 => if a.toInt < b.toInt then 1 else 0
  | 3 => if a < b then 1 else 0
  | 4 => a ^^^ b
  | 5 => if alt then a.sshiftRight (b.toNat % 32) else a >>> (b.toNat % 32)
  | 6 => a ||| b
  | _ => a &&& b

def rvMul (f3 : Nat) (a b : W32) : W32 := match f3 with
  | 0 => a * b
  | 1 => BitVec.ofInt 32 (a.toInt * b.toInt / 2 ^ 32)
  | 2 => BitVec.ofInt 32 (a.toInt * b.toNat / 2 ^ 32)
  | 3 => BitVec.ofNat 32 (a.toNat * b.toNat / 2 ^ 32)
  | 4 => if b = 0 then -1 else a.sdiv b
  | 5 => if b = 0 then -1 else a / b
  | 6 => if b = 0 then a else a.srem b
  | _ => if b = 0 then a else a % b

def rvTakes (f3 : Nat) (a b : W32) : Bool := match f3 with
  | 0 => a == b
  | 1 => a != b
  | 4 => a.toInt < b.toInt
  | 5 => b.toInt ≤ a.toInt
  | 6 => a < b
  | _ => b ≤ a

/-! ### One instruction -/

def Rv.get (r : Rv) (n : Nat) : W32 := if n = 0 then 0 else r.x.getD n 0
def Rv.set (r : Rv) (n : Nat) (v : W32) : Rv := if n = 0 then r else { r with x := updAt r.x n fun _ => v }

/-- What an instruction does beyond the core's registers. -/
inductive RvAct where
  | none
  /-- `n` bytes into register `rd`, sign-extended or not -/
  | load (rd n : Nat) (signed : Bool) (addr : Nat)
  | store (n addr v : Nat)
  | ecall
  /-- no instruction of RV32IMC, or `ebreak` -/
  | bad
  deriving DecidableEq, Repr, Inhabited

/-- An instruction `w` of `len` bytes at the core's pc: the core past it, and what it does beyond. -/
def Rv.exec (r : Rv) (w len : Nat) : Rv × RvAct :=
  let rd := bits w 11 7
  let f3 := bits w 14 12
  let a := r.get (bits w 19 15)
  let b := r.get (bits w 24 20)
  let f7 := bits w 31 25
  let imm : W32 := BitVec.ofInt 32 (toSigned 12 (bits w 31 20))
  let next : W32 := r.pc + BitVec.ofNat 32 len
  let up : W32 := BitVec.ofNat 32 (bits w 31 12 * 2 ^ 12)
  let go := { r with pc := next }
  let bimm := BitVec.ofInt 32 (toSigned 13 (bits w 31 31 * 2 ^ 12 + bits w 7 7 * 2 ^ 11 + bits w 30 25 * 2 ^ 5 + bits w 11 8 * 2))
  let jimm := BitVec.ofInt 32 (toSigned 21 (bits w 31 31 * 2 ^ 20 + bits w 19 12 * 2 ^ 12 + bits w 20 20 * 2 ^ 11 + bits w 30 21 * 2))
  let simm : W32 := BitVec.ofInt 32 (toSigned 12 (f7 * 32 + rd))
  match w % 128 with
  | 0x37 => (go.set rd up, .none)
  | 0x17 => (go.set rd (r.pc + up), .none)
  | 0x6F => ({ r.set rd next with pc := r.pc + jimm }, .none)
  | 0x67 => if f3 = 0 then ({ r.set rd next with pc := (a + imm) &&& ~~~1#32 }, .none) else (r, .bad)
  | 0x63 => if f3 = 2 || f3 = 3 then (r, .bad) else ({ r with pc := if rvTakes f3 a b then r.pc + bimm else next }, .none)
  | 0x03 => if f3 = 3 || f3 ≥ 6 then (r, .bad) else (go, .load rd (2 ^ (f3 % 4)) (f3 < 4) (a + imm).toNat)
  | 0x23 => if f3 ≥ 3 then (r, .bad) else (go, .store (2 ^ f3) (a + simm).toNat b.toNat)
  | 0x13 =>
    if (f3 = 1 && f7 != 0) || (f3 = 5 && f7 != 0 && f7 != 0x20) then (r, .bad)
    else (go.set rd (rvAlu f3 (f3 == 5 && f7 == 0x20) a (if f3 = 1 || f3 = 5 then BitVec.ofNat 32 (bits w 24 20) else imm)), .none)
  | 0x33 =>
    if f7 = 1 then (go.set rd (rvMul f3 a b), .none)
    else if f7 = 0 || (f7 = 0x20 && (f3 = 0 || f3 = 5)) then (go.set rd (rvAlu f3 (f7 == 0x20) a b), .none)
    else (r, .bad)
  | 0x0F => (go, .none)
  | 0x73 => if w = 0x73 then (r, .ecall) else (r, .bad)
  | _ => (r, .bad)

/-- Bytes of the routine store. -/
def rvStoreBytes : Nat := 16384

/-- The core runs the instruction at its pc, in the routine store. -/
def Rv.step (r : Rv) : Rv × RvAct :=
  let pc := r.pc.toNat
  let half (i : Nat) : Nat := leVal ((r.store.drop (pc + i)).take 2)
  if pc % 2 != 0 || pc + 2 > rvStoreBytes then (r, .bad)
  else if half 0 % 4 == 3 then
    if pc + 4 > rvStoreBytes then (r, .bad) else r.exec (half 0 + half 2 * 2 ^ 16) 4
  else match rvExpand (half 0) with
    | some w => r.exec w 2
    | none => (r, .bad)

/-- A walk's answer of Table 8-3, beyond its status: the page's physical address, its size, and READ, WRITE and EXEC. -/
def Rv.page (r : Rv) : Nat × Nat × Nat :=
  let a2 := (r.get 12).toNat
  (((r.get 11).toNat + a2 % 16 * 2 ^ 32) * 4096, [4096, 65536, 2 ^ 21, 2 ^ 30].getD (bits a2 5 4) 4096, bits a2 8 6)

/-- The walker's core as die boot leaves it. -/
def Rv.boot : Rv :=
  { x := List.replicate 32 0, pc := 0, win := 0, store := (List.range rvStoreBytes).map Config.stockByte, loaded := [] }

/-- Bytes written into the store. -/
def Rv.put (r : Rv) (a : Nat) (bs : List Byte) : Rv :=
  { r with store := r.store.take a ++ bs ++ r.store.drop (a + bs.length)
           loaded := (r.loaded ++ (List.range bs.length).map fun i => (a + i) / 256).dedup }

/-- The walk routine of a format, or its remap routine, runs from the store: it is none of the stock ones, or has been written over. -/
def storeRuns (rv : Option Rv) (fmt : Nat) (remap : Bool) : Option Rv :=
  let r := rv.getD Rv.boot
  if 2 ≤ fmt || (rv.any fun r => r.loaded.contains (2 * fmt + remap.toNat)) then some r else none

/-- The core at a routine's start, with its arguments (Table 8-3). -/
def Rv.entry (r : Rv) (pc va root a4 ctx : Nat) : Rv :=
  let args := [va, bits va 47 32, root, bits root 47 32, a4, ctx]
  (args.zipIdx.foldl (fun (r : Rv) a => r.set (10 + a.2) (BitVec.ofNat 32 a.1)) { r with pc := BitVec.ofNat 32 pc })

end Sys2Proof.Machine
end

