-- ==== Sys2Proof/Machine/Memory.lean ====
section
/-! DEFINITION. The memory hierarchy: caches and their latencies, translation, apertures, pipe addresses, the checks of
Table 8-9, race detection, and reads and writes by one agent. -/

namespace Sys2Proof.Machine

/-! ### Lines of the L2 and the remote-data cache (R229 to R231) -/

def lineOf (pa : Nat) : Nat := pa / 128
def sectorOf (pa : Nat) : Nat := pa / 32
/-- The addresses of the sectors that some bytes touch. -/
def sectorsOf (pa n : Nat) : List Nat := (List.range ((pa % 32 + n + 31) / 32)).map fun i => 32 * (pa / 32 + i)

def Line.new (l evict : Nat) : Line :=
  { line := l, evict := evict, dirty := 0, poison := 0, race := [], bytes := [] }

def findLine (ls : List Line) (l : Nat) : Option Line := ls.find? (·.line == l)
def modLine (ls : List Line) (l : Nat) (f : Line → Line) : List Line := updIf ls (·.line == l) f

/-- Victim of a set that is full: the least recently used line of the lowest EVICT priority (R231). -/
def victim (set : List Line) : Option Line :=
  set.foldl (fun v x => match v with
    | none => some x
    | some y => if x.evict < y.evict then some x else some y) none

/-- Touch a line: raise its priority, make it the most recently used, installing it where absent. The set is the line
number modulo `sets`; it holds `ways` lines, at most 16 at priority 7 (R231). Answers the replaced line, if any. -/
def touch (ls : List Line) (sets ways l evict : Nat) : List Line × Option Line :=
  let set := ls.filter fun x => x.line % sets == l % sets
  let sevens := (set.filter fun x => x.line != l && x.evict == 7).length
  let cap (e : Nat) := if e == 7 && sevens ≥ 16 then 6 else e
  match findLine ls l with
  | some x => (ls.filter (·.line != l) ++ [{ x with evict := if x.evict == 7 then 7 else cap (max x.evict evict) }], none)
  | none =>
    let out := if set.length ≥ ways then victim set else none
    let ls := match out with
      | some v => ls.filter (·.line != v.line)
      | none => ls
    (ls ++ [Line.new l (cap evict)], out)

def l2Sets : Nat := 65536
def rdcSets : Nat := 16384

def State.l2Has (s : State) (d pa : Nat) : Bool := (findLine (s.die d).l2 (lineOf pa)).isSome

/-- Lose an L2 line of die `d`: RACELOST counts one that held a valid record (R346), and its poisoned sectors stay bad
(R232). -/
def State.lostLine (s : State) (d : Nat) (v : Option Line) : State :=
  match v with
  | some x =>
    let s := if x.race.any (fun r => r.2.w.isSome || r.2.r.isSome) then s.bump d 0xC08 63 32 else s
    let bad := ((List.range 4).filter fun k => x.poison.testBit k).map fun k => (x.line * 4 + k, true)
    if bad.isEmpty then s else s.modDie d fun y => { y with bad := y.bad ++ bad }
  | none => s

/-- Lines that the slots of a pipe hold in its home's L2: neighbours share the line in which one ends and the next begins. -/
def Pipe.usedLines (p : Pipe) : Nat :=
  (p.slots.zipIdx.foldl (fun (acc : Nat × Nat) (x, k) =>
    if !x.lines || p.slotSize = 0 then acc else
    let lo := max acc.2 (k * p.slotSize / 128)
    let hi := (k * p.slotSize + p.slotSize + 127) / 128
    (acc.1 + (hi - lo), hi)) (0, 0)).1

/-- Bytes of pipe lines that a die's L2 holds (R296, Table 9-10). -/
def State.pipeBytes (s : State) (d : Nat) : Nat :=
  ((s.pipes.filter fun p => p.home == some d).map fun p => 128 * p.usedLines).sum

/-- Ways of an L2 set that ordinary lines may hold: the die's pipe lines take theirs spread evenly over the sets (R283, R296,
log entry 22). -/
def l2Ways (pipeLines set : Nat) : Nat := 24 - min 16 ((pipeLines + l2Sets - 1 - set % l2Sets) / l2Sets)

def State.touchL2 (s : State) (d pa evict : Nat) : State :=
  let (ls, v) := touch (s.die d).l2 l2Sets (l2Ways (s.pipeBytes d / 128) (lineOf pa)) (lineOf pa) evict
  (s.modDie d fun x => { x with l2 := ls }).lostLine d v

/-- Pipe lines have been allocated beyond the first `old`: the sets whose share they raise give up what they hold too much (R231). -/
def State.fitL2 (s : State) (d old : Nat) : State :=
  let new_ := s.pipeBytes d / 128
  let sets := (((s.die d).l2.map fun x => x.line % l2Sets).filter fun k => l2Ways new_ k < l2Ways old k).dedup
  sets.foldl (fun s k => (List.range 16).foldl (fun s _ =>
    let set := (s.die d).l2.filter fun x => x.line % l2Sets == k
    if set.length ≤ l2Ways new_ k then s else match victim set with
    | some v => (s.modDie d fun x => { x with l2 := x.l2.filter fun y => y.line != v.line }).lostLine d (some v)
    | none => s) s) s

/-- The sharer bits of a line at its home. -/
def Die.sharers (x : Die) (line : Nat) : Nat := lookD x.dirs line 0
/-- Set a line's sharer bits; a line without sharers is not listed. -/
def Die.share (x : Die) (line m : Nat) : Die :=
  let rest := x.dirs.filter (·.1 != line)
  { x with dirs := if m = 0 then rest else rest ++ [(line, m)] }
/-- Clear die `d`'s sharer bit for a line (R230 rule 5). -/
def Die.unshare (x : Die) (d line : Nat) : Die := x.share line (setBits (x.sharers line) d d 0)

/-- Sets of the RDC: 16,384. A replaced line's drop notice goes to its home (R230 rule 5). -/
def State.touchRdc (s : State) (d pa evict : Nat) : State :=
  let (ls, v) := touch (s.die d).rdc rdcSets 24 (lineOf pa) evict
  let s := s.modDie d fun x => { x with rdc := ls }
  match v with
  | some x => match homeOf (x.line * 128) with
    | some h => s.after 190 (.dropNotice h d x.line)
    | none => s
  | none => s

/-! ### Links (R90) -/

def State.linkUp (s : State) (a b : Nat) : Bool := a == b || ((s.die a).links.testBit b && (s.die b).links.testBit a)
/-- The die through which traffic between two dies reroutes: the lowest-numbered third die whose links to both are up. -/
def State.via (s : State) (a b : Nat) : Option Nat :=
  if s.linkUp a b then none else (List.range 4).find? fun n => n != a && n != b && s.linkUp a n && s.linkUp n b
/-- Cycles that a rerouted pair of dies adds; twice as many where no third die reaches both and the way goes over two (log entry 87). -/
def State.reroute (s : State) (a b : Nat) : Nat :=
  if s.linkUp a b then 0 else if (s.via a b).isSome then 220 else 440
/-- Cycles from die `d` to a home on die `h`: half of what Table 0-3 and R90 add for another die (log entry 87). -/
def State.wayTo (s : State) (d h : Nat) : Nat := if d == h then 0 else 110 + s.reroute d h / 2

/-! ### Places -/

inductive Place where
  | scr (a : Nat)
  | mem (pa : Nat)
  | pipe (p : PipeRef) (off : Nat)
  | apt (dev peer pa mask : Nat)
  /-- a device register, reached by firmware threads (R224) -/
  | dev (pa : Nat)
  deriving DecidableEq, Repr, Inhabited

/-- Number of a location for release records: kind of place and address. -/
def Place.key : Place → Nat × Nat
  | .scr a => (0, a)
  | .mem pa => (1, pa)
  | .pipe p off => (2 + p.w + 32 * (p.rcb + 2 ^ 48 * p.ctx), off)
  | .apt _ _ pa _ => (1, pa)
  | .dev pa => (1, pa)

/-! ### Release records (R335, R336) -/

def overlap (a n b m : Nat) : Bool := a < b + m && b < a + n

/-- The scope test: the set of Table 8-2 relative to `x` contains `y`. -/
def inScope (scope : Nat) (x y : Who) : Bool :=
  match scope with
  | 0 => x.grp == y.grp
  | 1 => x.die == y.die && x.core == y.core
  | 2 => x.die == y.die && x.core / 4 == y.core / 4
  | 3 => x.die == y.die
  | _ => true

/-- Both scopes contain the other agent (R335). -/
def Rel.sees (r : Rel) (scope : Nat) (y : Who) : Bool := inScope r.scope r.who y && inScope scope y r.who

/-- Releases that a read of the location observes. -/
def State.relsAt (s : State) (p : Place) (n : Nat) : List Rel :=
  let k := p.key
  (s.rels.filter fun r => r.place == k.1 && overlap r.addr r.size k.2 n).flatMap (·.rels)

/-- What stands outside `n` bytes at `a`. -/
def RelAt.outside (r : RelAt) (a n : Nat) : List RelAt :=
  (if r.addr < a then [{ r with size := min r.size (a - r.addr) }] else []) ++
  (if a + n < r.addr + r.size then
    let lo := max r.addr (a + n)
    [{ r with addr := lo, size := r.addr + r.size - lo }] else [])

/-- A write replaces the releases of the bytes, and leaves those of others; an atomic keeps those of its release sequence. -/
def State.writeRels (s : State) (p : Place) (n : Nat) (atomic : Bool) (new : List Rel) : State :=
  let k := p.key
  let old := if atomic then s.relsAt p n else []
  let rest := s.rels.flatMap fun r => if r.place == k.1 then r.outside k.2 n else [r]
  match old ++ new with
  | [] => { s with rels := rest }
  | l => { s with rels := rest ++ [⟨k.1, k.2, n, l⟩] }

/-! ### Memory errors (R232) -/

/-- What a read of the sector meets: none, a corrected error, or an uncorrectable one. -/
def State.sectorError (s : State) (pa : Nat) : Option Bool :=
  match homeOf pa with
  | none => none
  | some h =>
    let poisoned := match findLine (s.die h).l2 (lineOf pa) with
      | some l => l.poison.testBit (sectorOf pa % 4)
      | none => false
    if poisoned then some true else ((s.die h).bad.find? (·.1 == sectorOf pa)).map (·.2)

/-- A write of a whole sector clears its mark; a write of part of a sector that holds an uncorrectable error is merged in the home L2 and
marks it poisoned. -/
def State.clearSector (s : State) (h sec : Nat) (whole : Bool) : State :=
  let line := sec / 4
  let k := sec % 4
  if whole then
    s.modDie h fun x => { x with
      bad := x.bad.filter (·.1 != sec)
      l2 := modLine x.l2 line fun y => { y with poison := setBits y.poison k k 0 } }
  else if (s.die h).bad.contains (sec, true) then
    let s := if s.l2Has h (32 * sec) then s else s.touchL2 h (32 * sec) 4
    (s.modDie h fun x => { x with
      bad := x.bad.filter (·.1 != sec)
      l2 := modLine x.l2 line fun y => { y with poison := setBits y.poison k k 1 } }).bump h 0x948 47 32
  else s

/-- What a write of `n` bytes does to the marks of the sectors it touches. -/
def State.clearError (s : State) (pa n : Nat) : State :=
  ((List.range ((pa % 32 + n + 31) / 32)).map fun i => pa / 32 + i).foldl (fun s sec => match homeOf (32 * sec) with
    | none => s
    | some h => s.clearSector h sec (decide (pa ≤ 32 * sec ∧ 32 * sec + 32 ≤ pa + n))) s

/-- Count an error that a read meets (R232); a corrected one adds 8 cycles and is gone. -/
def State.meetError (s : State) (pa : Nat) : State × Nat :=
  match homeOf pa, s.sectorError pa with
  | some h, some true => (s.bump h 0x948 47 32, 0)
  | some h, some false =>
    ((s.modDie h fun x => { x with bad := x.bad.filter (·.1 != sectorOf pa) }).bump h 0x948 31 0, 8)
  | _, _ => (s, 0)

/-! ### The directory (R230) -/

/-- A home write probes every other die that shares the line and clears its bits (R230 rule 3); 120 cycles where it had
sharers. -/
def State.probeSharers (s : State) (h pa writer : Nat) : State × Nat :=
  let line := lineOf pa
  let m := (s.die h).sharers line
  let others := (List.range 4).filter fun d => m.testBit d && d != writer
  if others.isEmpty then (s, 0)
  else
    let s := others.foldl (fun s d => s.after 0 (.rdcProbe d h line)) s
    (s.modDie h fun x => { x.share line (m &&& (1 <<< writer)) with probes := x.probes ++ others.map fun d => (line, d) }, 120)

/-! ### Writes by the part's own units -/

/-- HBM4E bytes are written for die `d` at their home: sharers of the lines are probed, which adds 120 cycles (R230 rule 3), the
sectors are dirty, and errors of sectors written whole are cleared (R232). -/
def State.homePut (s : State) (d pa : Nat) (bs : List Byte) : Nat × State :=
  let n := bs.length
  let lines := (List.range ((pa % 128 + n + 127) / 128)).map fun i => pa / 128 * 128 + 128 * i
  let dirty (a : Nat) : Nat := ((List.range 4).map fun k => if overlap (a + 32 * k) 32 pa n then 2 ^ k else 0).sum
  let (lat, s) := lines.foldl (fun (acc : Nat × State) a => match homeOf a with
    | some h =>
      let (s, p) := acc.2.probeSharers h a d
      (max acc.1 p, s.modDie h fun x => { x with l2 := modLine x.l2 (lineOf a) fun y => { y with dirty := y.dirty ||| dirty a } })
    | none => acc) (0, s)
  (lat, (s.memPut pa bs).clearError pa n)

/-- A write of HBM4E bytes by a unit of die `d` that is no thread's store; the releases that stood there end (R336). -/
def State.devPut (s : State) (d pa : Nat) (bs : List Byte) : State :=
  ((s.homePut d pa bs).2).writeRels (.mem pa) bs.length false []

def State.devPutVal (s : State) (d pa n v : Nat) : State := s.devPut d pa (leBytes n v)

/-- Interrupt of a queue: a store of its data, unless its address is zero (R52). -/
def State.interrupt (s : State) (q : QRef) : State :=
  let a := bits (s.reg q.die (0x1000 + 64 * q.q + 0x38)).toNat 47 0
  if a = 0 then s
  else
    let v := BitVec.ofNat 32 (s.fld q.die (0x1000 + 64 * q.q + 8) 63 32)
    { s.devPutVal q.die a 4 v.toNat with irqs := s.irqs ++ [(a, v)] }

/-! ### Hotness (R240) -/

/-- Count `n` sectors of a block served to requester `r` (0 to 3 a die, 4 the fabric). -/
def State.heat (s : State) (pa r n : Nat) : State :=
  match homeOf pa with
  | none => s
  | some d =>
    if r == d then s else
    let blk := pa / 65536
    let dd := s.die d
    let cur := lookD dd.hot blk [0, 0, 0, 0, 0]
    let cnt := min 65535 (cur.getD r 0 + n)
    let full := dd.hot.length ≥ 65536 && !(dd.hot.any (·.1 == blk))
    let hot := if full then
        match (sortBy (fun (e : Nat × List Nat) => e.2.sum) dd.hot).head? with
        | some e => dd.hot.filter (·.1 != e.1)
        | none => dd.hot
      else dd.hot
    let thr := s.fld d 0x920 15 0
    if thr != 0 && cnt ≥ thr then
      let s := s.modDie d fun x => { x with hot := putKey hot blk [0, 0, 0, 0, 0] }
      let head := s.fld d 0x930 31 0
      let tail := s.fld d 0x930 63 32
      let log := s.fld d 0x928 55 48
      if (head + 2 ^ 32 - tail) % 2 ^ 32 == 2 ^ log then s.bump d 0x938 47 32
      else
        let a := s.fld d 0x928 47 0 + 16 * (head % 2 ^ log)
        let s := s.devPutVal d a 8 (blk * 65536 + r * 2 ^ 48)
        let s := s.devPutVal d (a + 8) 8 (s.clock % 2 ^ 64)
        (s.raiseEvent d 0).setFld d 0x930 31 0 (head + 1)
    else s.modDie d fun x => { x with hot := putKey hot blk (updAt cur r fun _ => cnt) }

/-! ### Where an access is served, and its latency (Table 0-3) -/

/-- Requests to one bank of an L2 in one cycle: two cycles for each served before (Table 8-4). The request reaches the bank `dl`
cycles from now, once its translation has been walked. -/
def State.bankWait (s : State) (h pa dl : Nat) : State × Nat :=
  let b := (pa / 128) % 64 + 64 * (s.clock + dl)
  let n := lookD (s.die h).banks b 0
  (s.modDie h fun x => { x with banks := putKey x.banks b (n + 1) }, 2 * n)

/-- Stack of the home die that holds an address: its block modulo 3 (R70). -/
def stackOf (pa : Nat) : Nat := pa % dieBytes / 65536 % 3
/-- Number of a bank or channel among those of a die: the stacks' take turns. -/
def inStack (pa n : Nat) : Nat := stackOf pa + 3 * n

/-- Cycles that an access, which meets HBM4E `dl` cycles from now, waits for a refresh of its bank (R232), or the training of its
channel (R452). -/
def State.refreshWait (s : State) (h pa dl : Nat) : Nat :=
  max (lookD (s.die h).refresh (inStack pa (Config.hbmBank pa)) 0)
    (lookD (s.die h).training (inStack pa (Config.hbmChannel pa)) 0) - (s.clock + dl)

/-! ### Sluice (R86 to R88) -/

/-- CAP of Table 3-2, by resource: 0 L2, 1 HBM4E, 2 die links, 3 fabric. -/
def sluiceCap (res : Nat) : Nat := [512, 200, 375, 108].getD res 0

/-- Tokens a part of a bucket holds at a cycle: its gain since it was last worked out, up to its limit. Each part of a split bucket has the limit
of R86 at its own gain: DESIGN CHOICE (log entry 122). -/
def refill (tokens gain n : Nat) : Nat := min (tokens + gain * n) (max (gain * 4096) (64 * 65536))

/-- A context's bucket of a resource on a die, filled up to now; at the first use it holds the gain of 4096 cycles: DESIGN CHOICE (log entry
122). -/
def State.bucket (s : State) (d ctx res : Nat) : Bucket :=
  let (rate, share) := match s.ctx? ctx with
    | some c => (c.rates.getD res 0xFFFF, if res < 2 then c.collShare else 0)
    | none => (0xFFFF, 0)
  let gain := rate * sluiceCap res
  match (s.die d).buckets.find? fun b => b.ctx == ctx && b.res == res with
  | some b =>
    let n := s.clock - b.asof
    { b with tokens := refill b.tokens (gain - gain * share / 256) n, saved := refill b.saved (gain * share / 256) n,
             asof := s.clock }
  | none =>
    { ctx := ctx, res := res, tokens := refill 0 (gain - gain * share / 256) 4096,
      saved := refill 0 (gain * share / 256) 4096, asof := s.clock }

def State.putBucket (s : State) (d : Nat) (b : Bucket) : State :=
  s.modDie d fun x => { x with buckets := upsert x.buckets (fun y => y.ctx == b.ctx && y.res == b.res) b fun _ => b }

/-- A context's buckets filled up to now at the rates that stood until now, before those change (R86). -/
def State.settleBuckets (s : State) (ctx : Nat) : State :=
  (List.range 4).foldl (fun s d => (List.range 4).foldl (fun s r => s.putBucket d (s.bucket d ctx r)) s) s

/-- The effective rate of a group's plan or stage is zero (R18). -/
def State.nodeZero (s : State) (g : GroupRef) (res : Nat) : Bool :=
  match s.group? g with
  | none => false
  | some x => match s.plan? g.ctx g.rcb with
    | none => false
    | some p => ((p.stages.getD x.stage default).rates.getD res 1) == 0

/-- A request takes its sectors of a resource's capacity in the cycle. -/
def State.claimCap (s : State) (d res n : Nat) : State :=
  s.modDie d fun x => { x with claimed := putKey x.claimed res (lookD x.claimed res 0 + n) }

/-- Serve a request of `n` sectors where the context's bucket holds the cost, the reserved part first for traffic that may draw on it
(R87, R88), or is exempt (R86); none where it is short. A node of rate zero has no share (R18). -/
def State.sluiceServe (s : State) (d ctx res n : Nat) (copy zero : Bool) : Option State :=
  match s.ctx? ctx with
  | none => some s
  | some c =>
    if zero then none
    else if c.rates.getD res 0xFFFF == 0xFFFF then some (s.claimCap d res n) else
    let b := s.bucket d ctx res
    let cost := n * 65536
    let r := if copy then min b.saved cost else 0
    if r + b.tokens ≥ cost then some ((s.putBucket d { b with saved := b.saved - r, tokens := b.tokens - (cost - r) }).claimCap d res n)
    else none

/-- Serve the needs of a request in turn, up to the first that is short: that waits in its die's list, which is looked at again at the
cycle's end, or in the next cycle. Answers whether all are served. -/
def State.sluiceGo (s : State) (ctx : Nat) (copy zero : Bool) (who : Waiter) : List (Nat × Nat × Nat) → Bool × State
  | [] => (true, s)
  | (res, d, n) :: rest =>
    match s.sluiceServe d ctx res n copy zero with
    | some s => s.sluiceGo ctx copy zero who rest
    | none =>
      let s := s.modDie d fun x => { x with sending := x.sending ++ [⟨ctx, (res, d, n) :: rest, copy, zero, who⟩] }
      (false, if s.closing then s.after 1 (.sluiceDeferredServe d) else s.atEnd (.sluiceDeferredServe d))

/-- What the sectors named, each as (resource, die, sector), need of each resource of each die. Nothing draws more than 64 sectors at once, which
every bucket can hold (R86, R87, log entry 124). -/
def needsOf (ds : List (Nat × Nat × Nat)) : List (Nat × Nat × Nat) :=
  let ds := ds.dedup
  (ds.map fun d => (d.1, d.2.1)).dedup.flatMap fun k =>
    let n := (ds.filter fun d => (d.1, d.2.1) == k).length
    (List.range ((n + 63) / 64)).map fun i => (k.1, k.2, min 64 (n - 64 * i))

/-- Some context or stage runs under a rate: where none does, every request is served. -/
def State.throttled (s : State) : Bool :=
  (s.ctxs.any fun c => c.rates.any (· != 0xFFFF)) || s.plans.any fun p => p.stages.any fun x => x.rates.contains 0

/-- A unit waits for Sluice, to go on with an event. -/
def State.unitHeld (s : State) (e : Event) : Bool := s.dies.any fun x => x.sending.any fun r => r.who == .unit e

/-- A request of a group on the memory path: it is served, or waits. -/
def State.sluice (s : State) (g : GroupRef) (copy : Bool) (who : Waiter) (ds : List (Nat × Nat × Nat)) : Bool × State :=
  let needs := needsOf ds
  s.sluiceGo g.ctx copy (needs.any fun n => s.nodeZero g n.1) who needs

/-- A request that has waited goes on past the need that has been served. -/
def State.sluicePass (s : State) (r : Deferred) : State :=
  match s.sluiceGo r.ctx r.copy r.zero r.who (r.needs.drop 1), r.who with
  | (true, s), .unit e => s.after 0 e
  | (_, s), _ => s

/-- A request waits one cycle: that is counted, and delays the access of its lanes (R87, Table 8-4). -/
def State.sluiceWait (s : State) (d : Nat) (r : Deferred) : State :=
  let s := s.bump d 0x820 31 0
  match r.who with
  | .lanes t m pc since win => s.moveAccess t m pc since (· + 1) win
  | .unit _ | .nobody => s

/-- The waiting requests of a die whose buckets hold their cost now are served. -/
def State.sluiceTokens (s : State) (d : Nat) : State :=
  let q := (s.die d).sending
  q.foldl (fun s r => match r.needs with
    | (res, _, n) :: _ => match s.sluiceServe d r.ctx res n r.copy r.zero with
      | some s => s.sluicePass r
      | none => s.modDie d fun x => { x with sending := x.sending ++ [r] }
    | [] => s) (s.modDie d fun x => { x with sending := [] })

/-- The request that rotation among contexts serves next from what no request has claimed of a resource (R87): the oldest of the first
context after the one served last. -/
def Die.nextTurn (x : Die) (res : Nat) : Option Deferred :=
  let last := lookD x.turns res 4095
  let mine := x.sending.filter fun r => match r.needs with
    | (k, _, n) :: _ => k == res && lookD x.claimed res 0 + n ≤ sluiceCap res
    | [] => false
  (sortBy (fun r => (r.ctx + 4095 - last) % 4096) mine).head?

/-- Serve waiting requests from a resource's unclaimed capacity. -/
def State.sluiceTurns (s : State) (d res : Nat) : Nat → State
  | 0 => s
  | k + 1 => match (s.die d).nextTurn res with
    | none => s
    | some r =>
      let n := (r.needs.headD (0, 0, 0)).2.2
      let s := s.modDie d fun x => { x with sending := x.sending.erase r, turns := putKey x.turns res r.ctx }
      ((s.claimCap d res n).sluicePass r).sluiceTurns d res k

/-- SLUICE_DEFERRED_SERVE (R87): within the cycle, requests whose buckets hold their cost; at its end, others in rotation from the
capacity that is left. What still waits has been deferred one more cycle. -/
def sluiceDeferredServe (d : Nat) (s : State) : State :=
  if s.closing then
    let n := ((s.die d).sending.map (·.needs.length)).sum
    let s := [0, 1, 2, 3].foldl (fun s res => s.sluiceTurns d res n) s
    let left := (s.die d).sending
    if left.isEmpty then s else (left.foldl (fun s r => s.sluiceWait d r) s).after 1 (.sluiceDeferredServe d)
  else
    let s := s.sluiceTokens d
    if (s.die d).sending.isEmpty then s else s.atEnd (.sluiceDeferredServe d)

/-! ### The caches under loads and stores -/

/-- A load by die `d` of a line homed in the package: its latency and the caches afterwards. R3 does not say what a further access finds while
the line is still on its way: the line stands from the issue of the first on, so that the further access hits. DESIGN CHOICE (log entry 116). -/
def State.loadLine (s : State) (d pa evict dl : Nat) : Nat × State :=
  match homeOf pa with
  | none => (0, s)
  | some h =>
    if h == d then
      let hit := s.l2Has h pa
      let (s, w) := s.bankWait h pa dl
      ((if hit then 160 else 540 + s.refreshWait h pa dl) + w, s.touchL2 h pa evict)
    else if (findLine (s.die d).rdc (lineOf pa)).isSome then (190, s.touchRdc d pa evict)
    else
      let hit := s.l2Has h pa
      let at_ := dl + s.wayTo d h
      let (s, w) := s.bankWait h pa at_
      let s := (s.touchL2 h pa evict).touchRdc d pa evict
      let s := s.modDie h fun x => x.share (lineOf pa) (x.sharers (lineOf pa) ||| (1 <<< d))
      let writers := match findLine (s.die h).l2 (lineOf pa) with
        | some l => l.race.map fun r => (r.1, ({ r.2 with r := none } : Race))
        | none => []
      let s := s.modDie d fun x => { x with rdc := modLine x.rdc (lineOf pa) fun y => { y with race := writers } }
      ((if hit then 380 else 760 + s.refreshWait h pa at_) + w + s.reroute d h, s.heat pa d 4)

/-- A store or atomic by die `d` goes to the home L2 (R230 rule 2): its latency there, but for what a write adds. -/
def State.storeLine (s : State) (d pa evict dl : Nat) : Nat × State :=
  match homeOf pa with
  | none => (0, s)
  | some h =>
    let hit := s.l2Has h pa
    let at_ := dl + s.wayTo d h
    let (s, w) := s.bankWait h pa at_
    ((if h == d then 0 else 220) + (if hit then 160 else 540 + s.refreshWait h pa at_) + w + s.reroute d h, s.touchL2 h pa evict)

/-- A sector at its home serves a store, an atomic or a walk of die `d` (R240). -/
def State.heatStore (s : State) (d pa : Nat) : State :=
  match homeOf pa with
  | none => s
  | some h => if h == d then s else s.heat pa d 1

/-! ### Translation (R235 to R238) -/

inductive TRes where
  | ok (pa base size perm : Nat)
  /-- check of Table 8-9: 4 not mapped or malformed, 8 memory error, with the physical address of the entry; 9: the walk is held by a
  migration (R241) -/
  | fail (check pa : Nat)
  deriving DecidableEq, Repr, Inhabited

/-- A table entry's reserved bits are zero (R237). -/
def entryOk (e : Nat) : Bool := e % 2 ^ 12 / 64 == 0 && e / 2 ^ 48 == 0
def entryPa (e : Nat) : Nat := bits e 47 12 * 4096
/-- READ, WRITE, EXEC as a mask 1, 2, 4. -/
def entryPerm (e : Nat) : Nat := bits e 4 2

/-- A read of a table entry's sector at its home L2, whichever die makes it: its latency and the caches afterwards. -/
def State.homeLine (s : State) (d pa dl : Nat) : Nat × State :=
  match homeOf pa with
  | none => (0, s)
  | some h =>
    let hit := s.l2Has h pa
    let at_ := dl + s.wayTo d h
    let (s, w) := s.bankWait h pa at_
    ((if h == d then 0 else 220 + s.reroute d h) + (if hit then 160 else 540 + s.refreshWait h pa at_) + w,
     (s.touchL2 h pa 4).heatStore d pa)

/-- Read one table entry at the home L2: the value, or a memory error; the latency adds to the walk. -/
def State.readEntry (s : State) (d pa dl : Nat) : Option Nat × Nat × State :=
  let (lat, s) := s.homeLine d pa dl
  let (s, e) := s.meetError pa
  if s.sectorError pa == some true then (none, lat + e, s) else (some (s.memVal pa 8), lat + e, s)

/-- The errors of sectors that are read together: the first that is uncorrectable, and what the corrected ones add. -/
def State.readErrors (s : State) (as : List Nat) : Option Nat × Nat × State :=
  as.foldl (fun (acc : Option Nat × Nat × State) a =>
    let bad := acc.2.2.sectorError a == some true
    let (s, e) := acc.2.2.meetError a
    (if bad && acc.1.isNone then some a else acc.1, acc.2.1 + e, s)) (none, 0, s)

/-- Format 0: four levels of 512 entries. The 16 entries of a 64 KiB run fill the aligned line of the entry that has been read, and come
with it (log entry 111). -/
def walkRadix (d va t0 : Nat) (shifts : List Nat) (tab lat : Nat) (s : State) : TRes × Nat × State :=
  match shifts with
  | [] => (.fail 4 0, lat, s)
  | sh :: rest =>
    if tab % 4096 != 0 || tab ≥ hbmBytes then (.fail 4 0, lat, s) else
    let ix := (va / 2 ^ sh) % 512
    match s.readEntry d (tab + 8 * ix) (t0 + lat) with
    | (none, l, s) => (.fail 8 (tab + 8 * ix), lat + l, s)
    | (some e, l, s) =>
      let lat := lat + l
      if !e.testBit 0 || !entryOk e then (.fail 4 0, lat, s)
      else if e.testBit 1 then
        let pa := entryPa e
        if sh == 39 then (.fail 4 0, lat, s)
        else if sh == 12 && e.testBit 5 then
          let line := tab + 8 * (ix / 16 * 16)
          let run := (List.range 16).all fun i => s.memVal (line + 8 * i) 8 == e
          match s.readErrors [line, line + 32, line + 64, line + 96] with
          | (some a, n, s) => (.fail 8 a, lat + n, s)
          | (none, n, s) =>
            if !run || pa % 65536 != 0 then (.fail 4 0, lat + n, s)
            else (.ok (pa + va % 65536) (va / 65536 * 65536) 65536 (entryPerm e), lat + n, s)
        else if e.testBit 5 || pa % 2 ^ sh != 0 then (.fail 4 0, lat, s)
        else (.ok (pa + va % 2 ^ sh) (va / 2 ^ sh * 2 ^ sh) (2 ^ sh) (entryPerm e), lat, s)
      else if sh == 12 || e.testBit 5 then (.fail 4 0, lat, s)
      else walkRadix d va t0 rest (entryPa e) lat s

/-- Format 1: 2^18 entries, then 2^14 entries of 64 KiB pages. -/
def walkCompact (d va t0 root : Nat) (s : State) : TRes × Nat × State :=
  if root % 2 ^ 21 != 0 || root ≥ hbmBytes then (.fail 4 0, 0, s) else
  match s.readEntry d (root + 8 * (va / 2 ^ 30)) (t0 + 32) with
  | (none, l, s) => (.fail 8 (root + 8 * (va / 2 ^ 30)), l, s)
  | (some e, l, s) =>
    if !e.testBit 0 || !entryOk e || e.testBit 5 then (.fail 4 0, l, s)
    else if e.testBit 1 then
      if entryPa e % 2 ^ 30 != 0 then (.fail 4 0, l, s)
      else (.ok (entryPa e + va % 2 ^ 30) (va / 2 ^ 30 * 2 ^ 30) (2 ^ 30) (entryPerm e), l, s)
    else
      let tab := entryPa e
      if tab % 2 ^ 17 != 0 || tab ≥ hbmBytes then (.fail 4 0, l, s) else
      match s.readEntry d (tab + 8 * (va / 65536 % 2 ^ 14)) (t0 + 32 + l) with
      | (none, m, s) => (.fail 8 (tab + 8 * (va / 65536 % 2 ^ 14)), l + m, s)
      | (some f, m, s) =>
        if !f.testBit 0 || !entryOk f || !f.testBit 1 || !f.testBit 5 || entryPa f % 65536 != 0 then (.fail 4 0, l + m, s)
        else (.ok (entryPa f + va % 65536) (va / 65536 * 65536) 65536 (entryPerm f), l + m, s)

/-- Virtual addresses of pipes (R284). -/
def isPipeVa (va : Nat) : Bool := 0xFF8000000000 ≤ va && va < 0xFFA000000000

/-- How a routine of the firmware's ends. -/
inductive RvEnd where
  | ecall
  /-- a window read meets an uncorrectable error -/
  | memory (pa : Nat)
  /-- it does what the rule gives no effect, or does not end -/
  | lost
  deriving DecidableEq, Repr, Inhabited

/-- Physical address of `n` bytes in the window. -/
def Rv.window (r : Rv) (a n : Nat) : Option Nat :=
  if 0x10000000 ≤ a && a + n ≤ 0x10001000 && r.win + (a - 0x10000000) + n ≤ hbmBytes then some (r.win + (a - 0x10000000)) else none

/-- Run a routine of the firmware's for at most `fuel` instructions, `t` cycles from now: each access of the window adds its latency at the
home L2 (R236, R238). -/
def rvRun (d : Nat) : Nat → Rv → Nat → State → RvEnd × Rv × Nat × State
  | 0, r, t, s => (.lost, r, t, s)
  | fuel + 1, r, t, s => match r.step with
    | (r, .none) => rvRun d fuel r t s
    | (r, .ecall) => (.ecall, r, t, s)
    | (r, .bad) => (.lost, r, t, s)
    | (r, .load rd n signed a) =>
      let put (v : Nat) : Rv := r.set rd (if signed then BitVec.ofInt 32 (toSigned (8 * n) v) else BitVec.ofNat 32 v)
      if a + n ≤ rvStoreBytes then rvRun d fuel (put (leVal ((r.store.drop a).take n))) t s
      else match r.window a n with
        | none => (.lost, r, t, s)
        | some pa =>
          let (lat, s) := s.homeLine d pa t
          let (s, e) := s.meetError pa
          if s.sectorError pa == some true then (.memory pa, r, t + lat + e, s)
          else rvRun d fuel (put (s.memVal pa n)) (t + lat + e) s
    | (r, .store n a v) =>
      if a + n ≤ rvStoreBytes then rvRun d fuel (r.put a (leBytes n v)) t s
      else if a = 0x20000000 && n = 4 then rvRun d fuel { r with win := v * 4096 } t s
      else match r.window a n with
        | none => (.lost, r, t, s)
        | some pa =>
          let (lat, s) := s.homeLine d pa t
          rvRun d fuel r (t + lat) (s.devPutVal d pa n v)

/-- A routine of the firmware's answers: its status, 3 with the address of a memory error that it met, and its registers. What the rule does
not give, the time of the core's own instructions and the end of a routine that is lost, is free (log entry 49). -/
def State.rvCall (s : State) (d pc va root a4 ctx t0 : Nat) (r : Rv) : (Nat × Nat) × Rv × Nat × State :=
  let (e, r, t, s) := rvRun d 65536 (r.entry pc va root a4 ctx) t0 s
  let n := Config.freeNat s.fresh
  let open_ := Config.freeNat (s.fresh + 1) % 4
  let a0 := (r.get 10).toNat
  let st := match e with
    | .ecall => (if a0 < 4 then a0 else open_, r.win)
    | .memory pa => (3, pa)
    | .lost => (open_, r.win)
  (st, r, t - t0 + n, { (s.modDie d fun x => { x with rv := some r }) with fresh := s.fresh + 2 })

/-- A walk by a routine of the firmware's (Table 8-3). -/
def State.rvWalk (s : State) (d fmt root va t0 acc ctx : Nat) (r : Rv) : TRes × Nat × State :=
  let (st, r, l, s) := s.rvCall d (0x200 * fmt) va root acc ctx t0 r
  let (pa, size, perm) := r.page
  (match st.1 with
    | 0 => .ok (pa / size * size + va % size) (va / size * size) size perm
    | 3 => .fail 8 st.2
    | _ => .fail 4 0, l, s)

/-- CTXID of a context with these tables. -/
def State.tablesOf (s : State) (fmt root : Nat) : Nat :=
  ((s.ctxs.find? fun c => c.walkfmt == fmt && c.ptroot == root).map (·.id % 4096)).getD 0

/-- The walk routine of a format, which starts `t0` cycles from now: the stock routines, with the counts of R238, or the firmware's. No entry
maps a pipe address (R284). -/
def State.walkAt (s : State) (d fmt root va t0 : Nat) (acc : Nat := 1) (ctx : Nat := s.tablesOf fmt root) : TRes × Nat × State :=
  if isPipeVa va then (.fail 4 0, 0, s)
  else match storeRuns (s.die d).rv fmt false with
    | some r => s.rvWalk d fmt root va t0 acc ctx r
    | none =>
      if fmt = 0 then walkRadix d va t0 [39, 30, 21, 12] root 48 s
      else
        let (r, l, s) := walkCompact d va t0 root s
        (r, 32 + l, s)

/-- The walk for a context's tables. -/
def State.walk (s : State) (d ctx va t0 : Nat) (acc : Nat := 1) : TRes × Nat × State :=
  match s.ctx? ctx with
  | none => (.fail 4 0, 0, s)
  | some c => s.walkAt d c.walkfmt c.ptroot va t0 acc (ctx % 4096)

/-- A walk that reaches a block under migration is held (R241). -/
def State.walkHeld (s : State) (ctx va : Nat) : Bool :=
  s.dies.any fun d => match d.hold with
    | some m => m.ctx == ctx && m.va / 65536 == va / 65536
    | none => false

/-- Translation by a core: its buffer of 512 entries, else a walk that fills it (R235, R238). Answers the result and the
cycles the walk adds. -/
def State.translate (s : State) (d core ctx va : Nat) (acc : Nat := 1) : TRes × Nat × State :=
  match (s.core d core).tb.find? fun e => e.ctx == ctx && e.va ≤ va && va < e.va + e.size with
  | some e => (.ok (e.pa + (va - e.va)) e.va e.size e.perm, e.at_ - s.clock, s)
  | none =>
    if s.walkHeld ctx va then (.fail 9 0, 0, s) else
    let s := s.bump d 0x938 31 0
    let before := (s.die d).walkAt - s.clock
    let done (l : Nat) (s : State) : State := s.modDie d fun x => { x with walkAt := s.clock + before + l }
    match s.walk d ctx va before acc with
    | (.ok pa base size perm, l, s) =>
      (.ok pa base size perm, before + l, (done l s).modCore d core fun x =>
        { x with tb := (if x.tb.length ≥ 512 then x.tb.drop 1 else x.tb) ++ [⟨ctx, base, size, pa - (va - base), perm, s.clock + before + l⟩] })
    | (.fail c a, l, s) => (.fail c a, before + l, done l s)

/-! ### Apertures (R391, R392) -/

def aptBase : Nat := 0x800000000000
def aptEnd : Nat := 0xC00000000000

/-- The peer address that an aperture address reaches, with the port mask; none where it is unbacked. -/
def State.aperture (s : State) (pa : Nat) : Option (Nat × Nat × Nat) :=
  if pa < aptBase || pa ≥ aptEnd then none else
  let n := (pa - aptBase) / 2 ^ 36
  let e := s.memVal (s.fld 0 0xE10 47 0 + 8 * n) 8
  let mask := bits e 16 1
  if !e.testBit 0 || mask == 0 || n == s.fab.devid || e / 2 ^ 49 != 0 then none
  else some (n, bits e 48 17 * 65536 + (pa - aptBase) % 2 ^ 36, mask)

/-! ### Places and the checks of Table 8-9 -/

/-- Trap kind of a failed check of Table 8-9 (Table 14-1). -/
def checkKind (check : Nat) : Nat :=
  [0x00, 0x0E, 0x08, 0x07, 0x09, 0x0A, 0x0B, 0x0C, 0x0D].getD check 0

/-- Checks 5 and 6 for a translated physical address. A peer address without a home on the peer is unbacked there (R392). -/
def State.backing (s : State) (fw : Bool) (perm need va pa : Nat) : Except (Nat × Nat) Place :=
  if perm &&& need != need then .error (5, va)
  else if pa ≥ 0xFFF000000000 then (if fw then .ok (.dev pa) else .error (5, va))
  else if pa < hbmBytes then .ok (.mem pa)
  else match s.aperture pa with
    | some (n, peer, mask) => if peer ≥ hbmBytes then .error (6, peer) else .ok (.apt n peer pa mask)
    | none => .error (6, pa)

/-- Checks 4 to 6 for a page that has been looked up. -/
def State.placeAt (s : State) (need va : Nat) : TRes → Except (Nat × Nat) Place
  | .fail c a => .error (c, if c == 8 then a else va)
  | .ok pa _ _ perm => s.backing false perm need va pa

/-- Checks 4 to 6 of a pipe address by a group's thread or channel (R284). -/
def State.pipePlace (s : State) (g : GroupRef) (va size : Nat) : Except (Nat × Nat) Place :=
  let off := va % 2 ^ 32
  match s.group? g with
  | none => .error (6, va)
  | some gr => match s.pipe? ⟨g.ctx, gr.rcb, va / 2 ^ 32 % 32⟩ with
    | none => .error (6, va)
    | some p => if off + size > p.slots.length * p.slotSize then .error (6, va) else .ok (.pipe p.ref off)

/-- Checks 4 to 6 of a global address by a thread or channel of a group: where it lies, with the walk's cycles; check 9 stands for a
walk that a migration holds (R241). Firmware threads use physical addresses (R434). -/
def State.locate (s : State) (d core : Nat) (g : GroupRef) (fw : Bool) (va size need : Nat) :
    Except (Nat × Nat) Place × Nat × State :=
  if fw then (s.backing true 7 need va va, 0, s)
  else if isPipeVa va then (s.pipePlace g va size, 0, s)
  else
    let (r, l, s) := s.translate d core g.ctx va need
    (s.placeAt need va r, l, s)

/-- The address of a place within its store. -/
def Place.addr : Place → Nat
  | .scr a => a
  | .mem pa => pa
  | .pipe _ off => off
  | .apt _ _ pa _ => pa
  | .dev pa => pa

/-- No port of an aperture's entry is up (R393). -/
def State.portDown (s : State) (p : Place) : Option Nat :=
  match p with
  | .apt dev _ _ mask => if mask &&& s.fab.ports == 0 then some dev else none
  | _ => none

/-- A unit's access for which no port is up waits on, to try again in the next cycle; true once it has waited long enough. -/
def State.portWait (s : State) (d core va : Nat) : Bool × State :=
  let mine (w : PortWait) : Bool := w.die == d && w.core == core && w.va == va
  let live := s.fab.blocked.filter fun w => w.last + 1 ≥ s.clock
  let since := ((live.find? mine).map (·.since)).getD s.clock
  let rest := live.filter fun w => !mine w
  if since + portPatience ≤ s.clock then (true, { s with fab := { s.fab with blocked := rest } })
  else (false, { s with fab := { s.fab with blocked := rest ++ [⟨d, core, va, since, s.clock⟩] } })

/-- Checks 4 to 6 and the port of a unit's access: check 9 has it try again, and check 8 is a port that stayed down (R393). -/
def State.unitLocate (s : State) (d core : Nat) (g : GroupRef) (va size need : Nat) : Except (Nat × Nat) Place × Nat × State :=
  match s.locate d core g false va size need with
  | (.ok p, l, s) => match s.portDown p with
    | none => (.ok p, l, s)
    | some _ => (.error (if (s.portWait d core va).1 then 8 else 9, p.addr), l, (s.portWait d core va).2)
  | (.error e, l, s) => (.error e, l, s)

/-- Checks 2 and 3 of a scratchpad access (R225, R227). -/
def State.window (s : State) (g : GroupRef) (off : Int) (size : Nat) : Except (Nat × Nat) Place :=
  match s.group? g with
  | none => .error (3, wrap 64 off)
  | some gr =>
    if off % (size : Int) != 0 then .error (2, wrap 64 off)
    else if off < 0 || off + size > gr.winLim then .error (3, wrap 64 off)
    else .ok (.scr (scrBase gr.die gr.core + gr.winBase + off.toNat))

/-! ### Bytes at a place -/

/-- A byte at a peer's address: a free value each time (log entry 5). -/
def State.peerBytes (s : State) (dev pa n : Nat) : List Byte × State :=
  ((List.range n).map fun i => Config.peerByte dev (pa + i) s.fresh, { s with fresh := s.fresh + 1 })

/-- The bytes at a place. -/
def State.placeBytes (s : State) (p : Place) (n : Nat) : List Byte × State :=
  match p with
  | .scr a => (s.scrBytes a n, s)
  | .mem pa => (s.memBytes pa n, s)
  | .pipe r off => match s.pipe? r with
    | some x => (cellsGet x.data off n, s)
    | none => (List.replicate n 0, s)
  | .apt dev peer _ _ => s.peerBytes dev peer n
  | .dev _ => (List.replicate n 0, s)

/-- A store through an aperture leaves for the peer, and updates the die's RDC copy where it holds one (R230 rule 2, R392). An atomic
is taken to do so as well (log entry 89). -/
def State.aptPut (s : State) (d dev peer pa : Nat) (bs : List Byte) : State :=
  let o := pa % 128
  let patch (x : List Byte) : List Byte := if x.isEmpty then x else x.take o ++ bs ++ x.drop (o + bs.length)
  { s.modDie d fun x => { x with rdc := modLine x.rdc (lineOf pa) fun y => { y with bytes := patch y.bytes } } with
    fab := { s.fab with outApt := s.fab.outApt ++ [(dev, peer, bs)] } }

/-- Write the bytes at a place for an agent of die `d`; what the write adds to the access at its home (R230 rule 3). -/
def State.placePut (s : State) (d : Nat) (p : Place) (bs : List Byte) : Nat × State :=
  match p with
  | .scr a => (0, s.scrPut a bs)
  | .mem pa => s.homePut d pa bs
  | .pipe r off => (0, s.modPipe r fun x => { x with data := cellsPut x.data off bs })
  | .apt dev peer pa _ => (0, s.aptPut d dev peer pa bs)
  | .dev _ => (0, s)

/-! ### Race records (R342 to R346) -/

def Race.none : Race := ⟨Option.none, Option.none⟩

/-- Mask of the bytes touched in the sector. -/
def secMask (a n : Nat) : W32 := BitVec.ofNat 32 ((2 ^ n - 1) <<< (a % 32))

/-- The conflict of Check7, as (kind, key, stamp). -/
def Race.conflict (r : Race) (key : BitVec 31) (m : W32) (write : Bool) (h : Nat) : Option (Nat × Nat × Nat) :=
  match r.w with
  | some (k, st, b) =>
    if k != key && b &&& m != 0 && h < st then some (if write then 1 else 2, k.toNat, st)
    else match r.r with
      | some (k, st, b) => if write && k != key && b &&& m != 0 && h < st then some (3, k.toNat, st) else .none
      | .none => .none
  | .none =>
    match r.r with
    | some (k, st, b) => if write && k != key && b &&& m != 0 && h < st then some (3, k.toNat, st) else .none
    | .none => .none

/-- Update of R344. -/
def Race.update (r : Race) (key : BitVec 31) (m : W32) (write : Bool) (st : Nat) : Race :=
  if write then { r with w := some (key, st, m) }
  else match r.r with
    | some (_, old, _) => if st ≥ old then { r with r := some (key, st, m) } else r
    | .none => { r with r := some (key, st, m) }

/-- The race record that an access by a thread of die `d` is checked against, and whether it updates one: an RDC hit is
checked against the copied writer fields and updates none; an aperture access is not checked. -/
def State.raceAt (s : State) (d : Nat) (p : Place) (write : Bool) : Race × Bool :=
  match p with
  | .scr a => (lookD s.srace (a / 32) Race.none, true)
  | .mem pa =>
    let rdc := match homeOf pa with
      | some h => if h != d && !write then findLine (s.die d).rdc (lineOf pa) else .none
      | .none => .none
    match rdc with
    | some l => (lookD l.race (sectorOf pa % 4) Race.none, false)
    | .none =>
      match homeOf pa with
      | some h => match findLine (s.die h).l2 (lineOf pa) with
        | some l => (lookD l.race (sectorOf pa % 4) Race.none, true)
        | .none => (Race.none, true)
      | .none => (Race.none, false)
  | .pipe r off => match s.pipe? r with
    | some x => (lookD x.race (off / 32) Race.none, true)
    | .none => (Race.none, false)
  | .apt .. | .dev _ => (Race.none, false)

def State.raceUpd (s : State) (p : Place) (f : Race → Race) : State :=
  match p with
  | .scr a => { s with srace := putKey s.srace (a / 32) (f (lookD s.srace (a / 32) Race.none)) }
  | .mem pa =>
    match homeOf pa with
    | some h =>
      let k := sectorOf pa % 4
      s.modDie h fun x => { x with l2 := modLine x.l2 (lineOf pa) fun y =>
        { y with race := putKey y.race k (f (lookD y.race k Race.none)) } }
    | .none => s
  | .pipe r off => s.modPipe r fun x => { x with race := putKey x.race (off / 32) (f (lookD x.race (off / 32) Race.none)) }
  | .apt .. | .dev _ => s

/-! ### Touching a place: latency and caches -/

/-- Latency of an access by die `d` to the slots of a pipe: those of the L2 of the pipe's home, without bank conflicts (Table 0-3, R90,
log entry 90). -/
def State.pipeAccess (s : State) (d : Nat) (r : PipeRef) : Nat :=
  match (s.pipe? r).bind (·.home) with
  | some h => if h == d then 160 else 380 + s.reroute d h
  | none => 160

/-- Latency of an access through an aperture: two fabric ways, and that of the location that serves it at the peer, its home die's L2 or HBM4E or
another die's (Table 0-3): which one is a free value (R392, log entry 91). -/
def State.aptLat (s : State) (pa : Nat) : Nat × State :=
  (975 + [160, 380, 540, 760].getD (Config.peerServes s.fresh pa % 4) 540 + 975, { s with fresh := s.fresh + 1 })

/-- Latency of a load at a place by die `d`, and the caches afterwards. An aperture line is kept in the RDC for scopes of
die and narrower only (R230 rule 4, R233). -/
def State.touchLoad (s : State) (d : Nat) (p : Place) (scope evict dl : Nat) : Nat × State :=
  match p with
  | .scr _ => (28, s)
  | .mem pa => s.loadLine d pa evict dl
  | .pipe r _ => (s.pipeAccess d r, s)
  | .apt _ _ pa _ =>
    if scope ≤ 3 && (findLine (s.die d).rdc (lineOf pa)).isSome then (190, s.touchRdc d pa evict)
    else if scope ≤ 3 then (s.touchRdc d pa evict).aptLat pa
    else s.aptLat pa
  | .dev _ => (160, s)

def State.touchStore (s : State) (d : Nat) (p : Place) (evict dl : Nat) : Nat × State :=
  match p with
  | .scr _ => (28, s)
  | .mem pa => s.storeLine d pa evict dl
  | .pipe r _ => (s.pipeAccess d r, s)
  | .apt _ _ pa _ => s.aptLat pa
  | .dev _ => (160, s)

/-- The bytes of an aperture line that the RDC holds, taken when it was installed; other places read as they stand. -/
def State.loadBytes (s : State) (d : Nat) (p : Place) (scope n : Nat) : List Byte × State :=
  match p with
  | .apt dev peer pa _ =>
    if scope ≤ 3 then
      match findLine (s.die d).rdc (lineOf pa) with
      | some l =>
        let (bs, s) := if l.bytes.length == 128 then (l.bytes, s) else
          let (bs, s) := s.peerBytes dev (peer - pa % 128) 128
          (bs, s.modDie d fun x => { x with rdc := modLine x.rdc (lineOf pa) fun y => { y with bytes := bs } })
        ((bs.drop (pa % 128)).take n, s)
      | .none => s.peerBytes dev peer n
    else s.peerBytes dev peer n
  | _ => s.placeBytes p n

/-- Drop every aperture line of a die's RDC (R230 rule 4). -/
def State.dropAperture (s : State) (d : Nat) : State :=
  s.modDie d fun x => { x with rdc := x.rdc.filter fun l => l.line * 128 < hbmBytes }

/-- An acquire at package scope or wider drops the die's aperture lines first (R230 rule 4). -/
def State.acquireDrop (s : State) (d ord scope : Nat) : State :=
  if ord ≥ 2 && scope ≥ 4 then s.dropAperture d else s

/-- The same for an acquire by lanes, where there are some. -/
def State.lanesDrop (s : State) (d : Nat) (m : Lanes) (scope : Nat) : State := if m = 0 then s else s.acquireDrop d 2 scope

/-! ### Reads and writes by physical address -/

/-- Bytes that a unit reads at a physical address: local HBM4E, or a peer's through a configured aperture; else the check
that fails. -/
def State.physGet (s : State) (pa n : Nat) : Except Nat (List Byte) × State :=
  match s.backing false 7 0 pa pa with
  | .ok (.mem pa) =>
    let bad := ((List.range ((pa % 32 + n + 31) / 32)).map fun i => pa / 32 * 32 + 32 * i).filter fun a => s.sectorError a == some true
    match bad with
    | a :: _ => (.error 8, (s.meetError a).1)
    | [] => (.ok (s.memBytes pa n), s)
  | .ok p => let (bs, s) := s.placeBytes p n; (.ok bs, s)
  | .error (5, _) => (.error 6, s)
  | .error (c, _) => (.error c, s)

/-- Bytes that a unit of die `d` writes at a physical address; discarded where that is unbacked. -/
def State.physPut (s : State) (d pa : Nat) (bs : List Byte) : State :=
  match s.backing false 7 0 pa pa with
  | .ok (.mem pa) => s.devPut d pa bs
  | .ok p => (s.placePut d p bs).2
  | .error _ => s

/-! ### The device's own reads of a context's records (R479) -/

/-- The physical address of a record's byte: a valid leaf and backing are enough. The failed check is answered. -/
def State.recAddr (s : State) (d fmt root va : Nat) : Except Nat Nat × State :=
  match s.walkAt d fmt root (va % 2 ^ 48) 0 with
  | (.fail c _, _, s) => (.error c, s)
  | (.ok pa _ _ _, _, s) => match s.backing false 7 0 va pa with
    | .ok _ => (.ok pa, s)
    | .error _ => (.error 6, s)

/-- Bytes of a record, read sector by sector. -/
def State.recBytes (s : State) (d fmt root va n : Nat) : Except Nat (List Byte) × State :=
  let starts := (List.range ((n + va % 32 + 31) / 32)).map fun i => if i = 0 then va else va / 32 * 32 + 32 * i
  starts.foldl (fun (acc : Except Nat (List Byte) × State) a =>
    match acc with
    | (.error e, s) => (.error e, s)
    | (.ok bs, s) =>
      match s.recAddr d fmt root a with
      | (.error e, s) => (.error e, s)
      | (.ok pa, s) =>
        match s.physGet pa (min (32 - a % 32) (va + n - a)) with
        | (.ok b, s) => (.ok (bs ++ b), s)
        | r => r) (.ok [], s)

/-- A record's 64-bit words. -/
def State.recWords (s : State) (d fmt root va n : Nat) : Except Nat (List W64) × State :=
  match s.recBytes d fmt root va (8 * n) with
  | (.error e, s) => (.error e, s)
  | (.ok bs, s) => (.ok ((List.range n).map fun i => BitVec.ofNat 64 (leVal ((bs.drop (8 * i)).take 8))), s)

/-- A write of an RW field of a record; discarded where a check fails. -/
def State.recPut (s : State) (d fmt root va : Nat) (bs : List Byte) : State :=
  match s.recAddr d fmt root va with
  | (.error _, s) => s
  | (.ok pa, s) => if s.sectorError pa == some true then s else s.physPut d pa bs

def State.recWrite (s : State) (d fmt root va n v : Nat) : State := s.recPut d fmt root va (leBytes n v)

/-- Physical address of a context's RCB, by which a queue knows the plans it waits for, and a die the lists it keeps (R63, R258). -/
def State.rcbPa (s : State) (c : Ctx) : Nat := match (s.recAddr c.coord c.walkfmt c.ptroot c.rcb).1 with
  | .ok a => a
  | .error _ => 0

/-- Records of a resident context. -/
def State.ctxWords (s : State) (d ctx va n : Nat) : Except Nat (List W64) × State :=
  match s.ctx? ctx with
  | none => (.error 4, s)
  | some c => s.recWords d c.walkfmt c.ptroot va n

end Sys2Proof.Machine
end

