-- ==== Sys2Proof/Machine/Operands.lean ====
section
/-! DEFINITION. Operand forms: reading sources and writing destinations (R112 to R114, R152 to R155). -/

namespace Sys2Proof.Machine

/-- An instruction being executed: its team and team's state at issue, the lanes E that execute it, its address and
its fields. Sources are read from the state at issue (R154). -/
structure Env where
  t  : TeamRef
  tm : Team
  e  : Lanes
  pc : Addr
  v  : View
  deriving DecidableEq, Repr, Inhabited

/-- Lowest lane of E. -/
def Env.l0 (x : Env) : Nat := lowest x.e
def Env.lanes (x : Env) : List Nat := lanesOf x.e
def Env.ctx (x : Env) : Nat := x.tm.grp.ctx
def Env.quad (x : Env) : Nat := x.t.slot / 8
def Env.ty (x : Env) : Ty := x.v.ty
def Env.key (x : Env) : Nat := x.tm.key x.l0

/-- A short immediate extended to `w` bits (R112). -/
def immVal (v : BitVec 14) (w : Nat) : Nat := wrap w v.toInt

/-- The value of a source of `w` bits in lane `l`, read as raw bits (R152). A p operand reads its predicate,
complemented by bit 12. -/
def Env.src (x : Env) (l : Nat) (o : Opd) (w : Nat) : Nat :=
  let r := if w = 128 then 4 else if w = 64 then 2 else 1
  match o with
  | .g _ _ n => (x.tm.lane l).rgs n.toNat r
  | .k _ _ n => x.tm.rk n.toNat r
  | .i v => immVal v w
  | .f m s n => if s == 0 then (xor ((x.tm.lane l).rp n.toNat) (m.getLsbD 0)).toNat else 0

def Env.a (x : Env) (l w : Nat) : Nat := x.src l x.v.a w
def Env.b (x : Env) (l w : Nat) : Nat := x.src l x.v.bOpd w
def Env.c (x : Env) (l w : Nat) : Nat := x.src l x.v.cOpd w
/-- D read as a source (stores, atomics). -/
def Env.dsrc (x : Env) (l w : Nat) : Nat := x.src l x.v.d w

/-- Sources of the lowest lane of E (R272). -/
def Env.a0 (x : Env) (w : Nat) : Nat := x.a x.l0 w
def Env.b0 (x : Env) (w : Nat) : Nat := x.b x.l0 w
def Env.c0 (x : Env) (w : Nat) : Nat := x.c x.l0 w

/-- Negation by MOD bit 13 on a signed integer source (R113, R154). -/
def Env.intSrc (x : Env) (l : Nat) (o : Opd) (t : Ty) : Int :=
  let v := t.val (x.src l o t.width)
  match o with
  | .g m _ _ | .k m _ _ => if m.getLsbD 1 then t.val (wrap t.width (-v)) else v
  | _ => v

/-- Write a g destination of `r` registers in one lane. -/
def writeG (o : Opd) (r v : Nat) (l : Lane) : Lane :=
  match o with
  | .g _ _ n => l.wgs n.toNat r v
  | _ => l

/-- Write each lane of E its own value into the g destination D (R154). -/
def Env.put (x : Env) (s : State) (r : Nat) (f : Nat → Nat) : State :=
  s.modLanes x.t x.e fun l y => writeG x.v.d r (f l) y

/-- Write one value: every lane of E for a g destination, once after `lat` cycles for a k destination (R155). -/
def Env.putOne (x : Env) (s : State) (o : Opd) (r v lat : Nat) : State :=
  match o with
  | .g .. => s.modLanes x.t x.e fun _ y => writeG o r v y
  | .k _ _ n => s.writeK x.t x.e x.pc n.toNat r v lat
  | _ => s

/-- Write per lane to a g destination, or the lowest lane's value to a k destination (R155). -/
def Env.putLaneOrK (x : Env) (s : State) (r lat : Nat) (f : Nat → Nat) : State :=
  match x.v.d with
  | .k _ _ n => if x.e = 0 then s else s.writeK x.t x.e x.pc n.toNat r (f x.l0) lat
  | _ => x.put s r f

/-- A time operand (R383). -/
def Env.time0 (x : Env) (o : Opd) : W64 := BitVec.ofNat 64 (x.src x.l0 o 64)

end Sys2Proof.Machine
end

