-- ==== Sys2Proof/Machine/Flags.lean ====
section
/-! DEFINITION. The flags of the machine: predicates, their combine modes and pairs, guards, and the conditions of compares
(R111, R135, R176). -/

namespace Sys2Proof.Machine

/-- Comb of Table 5-3. -/
def comb (cm : Nat) (old x : Bool) : Bool :=
  match cm with
  | 0 => x
  | 1 => old && x
  | 2 => old || x
  | _ => xor old x

/-- Write the pair (pd, pe) of R135 with result `r`: the old values are read first; the pd result alone is written where
both name one predicate. -/
def writePair (pd pe cm : Nat) (r : Bool) (l : Lane) : Lane :=
  let d := comb cm (l.rp pd) r
  let e := comb cm (l.rp pe) (!r)
  if pd = pe then l.wp pd d else (l.wp pe e).wp pd d

/-- Write each lane of E its pair, and the liveness bits (R135, R432). -/
def Env.putPair (x : Env) (s : State) (pe cm : Nat) (f : Nat → Bool) : State :=
  let pd := x.v.d.idx
  let s := if x.e = 0 then s else s.live x.t [pd, pe]
  s.modLanes x.t x.e fun l y => writePair pd pe cm (f l) y

/-- A lane's guard (R111). -/
def guardOf (h : Hdr) (l : Lane) : Bool :=
  h.gtt.getLsbD (4 * (l.rp h.ga.toNat).toNat + 2 * (l.rp h.gb.toNat).toNat + (l.rp h.gc.toNat).toNat)

/-- Integer compare conditions (Table 6-6). -/
def intCond (cond : Nat) (a b : Int) : Bool :=
  match cond with
  | 0 => a == b | 1 => a != b | 2 => a < b | 3 => a ≤ b | 4 => a > b | _ => a ≥ b

/-- Truth-table bit (4a + 2b + c) of `pset`, `lop3` and guards. -/
def ttBit (tt : Nat) (a b c : Bool) : Bool := tt.testBit (4 * a.toNat + 2 * b.toNat + c.toNat)

end Sys2Proof.Machine
end

