-- ==== Sys2Proof/Machine/Issue.lean ====
section
/-! DEFINITION. What every instruction does at issue: guards, the checks of R145, completion and lookahead windows, and
the traps of one issue (R134, R143 to R146, R421). -/

namespace Sys2Proof.Machine

/-! ### Units and latencies (Tables 5-2, 5-5) -/

/-- Operations on the long pipe: `idiv`, `irem`, `fsqrt`, `fdiv`, `quant`. -/
def isLong (cls opn : Nat) : Bool :=
  (cls == 1 && (opn == 6 || opn == 7)) || (cls == 5 && (opn == 8 || opn == 9)) || (cls == 7 && opn == 1)

/-- Operations on the cross-lane unit: class 4 operations 0 to 4, and `scalmax`. -/
def isCross (cls opn : Nat) : Bool := (cls == 4 && opn ≤ 4) || (cls == 7 && opn == 5)

/-- Classes 8 to 14 use the quad's one memory and agent port. -/
def usesPort (cls : Nat) : Bool := 8 ≤ cls && cls ≤ 14

/-- Instructions that access memory or issue to a channel or an engine, which a fence's window holds (R259). -/
def heldByFence (cls opn : Nat) : Bool := match cls with
  | 0 => opn == 12
  | 4 => opn == 8
  | 8 => true
  | 9 => opn ≤ 4
  | 10 => opn ≤ 2
  | 11 => opn == 4
  | 12 => opn ≤ 5
  | 14 => opn == 0 || opn == 3
  | 15 => opn == 61 || opn == 62
  | _ => false

/-- Team-wide under Table 5-2. -/
def View.teamWide (v : View) : Bool :=
  (v.cls == 0 && (v.opn == 5 || v.opn == 6 || v.opn == 7)) || (v.cls == 3 && (v.opn == 5 || v.opn == 6)) ||
  (v.cls == 4 && 1 ≤ v.opn && v.opn ≤ 8) ||
  (match v.d with | .k .. => true | _ => false)

/-- Fixed result latency of Table 5-5, of the operations that have one. -/
def View.latency (v : View) : Nat :=
  match v.cls with
  | 1 => if isLong v.cls v.opn then 40 else 4
  | 2 | 3 => 4
  | 4 => if v.opn ≤ 4 then 8 else 4
  | 5 => if v.opn == 8 || v.opn == 9 then 40
         else if (6 ≤ v.opn && v.opn ≤ 7) || (10 ≤ v.opn && v.opn ≤ 14) then 18 else 6
  | 6 => 6
  | 7 => if v.opn == 1 then 40 else if v.opn == 5 then 8 else 6
  | _ => 0

/-- The g operands that an instruction reads, one for each register (Table 5-6). -/
def View.gReads (v : View) : List Nat := v.reads.filterMap fun r => match r with | .g n => some n | _ => none

/-- Reads beyond two from one bank of the register file (Table 5-6). -/
def bankExtra (l : List Nat) : Nat :=
  ((List.range 4).map fun b => (l.filter fun n => n % 4 == b).length - 2).sum

/-! ### Lookahead windows (R143, R144) -/

/-- The instruction of a window has not completed. -/
def Window.isOpen (w : Window) (clock : Nat) : Bool :=
  match w.due with
  | none => true
  | some d => clock < d

/-- A lane waits outside a window until its instruction completes. -/
def Lane.blocked (l : Lane) (clock : Nat) : Bool := l.win.any fun w => w.isOpen clock && w.left == 0

/-- A window still counts: instructions of it are to come, or its own has not completed. -/
def Window.live (w : Window) (clock : Nat) : Bool := w.left != 0 || w.isOpen clock

/-- The first register in `rs` that the instruction of a window writes, with that instruction's address: the next instructions lie
inside the window whether or not it has completed (R144). -/
def Lane.violates (l : Lane) (rs : List RegName) : Option (RegName × Addr) :=
  l.win.findSome? fun w =>
    if w.left != 0 then (rs.find? fun r => w.writes.contains r).map fun r => (r, w.pc) else none

/-- A lane passes an instruction: the windows shrink, and the instruction's own window opens. -/
def Lane.pass (l : Lane) (clock : Nat) (w : Window) : Lane :=
  let old := (l.win.filter fun x => x.live clock).map fun x => { x with left := x.left - 1 }
  { l with win := if w.live clock then old ++ [w] else old }

/-- The lane's registers as an agent outside the team sees them: what its open windows write stands only from their completion on
(R149). -/
def Lane.shown (l : Lane) (clock : Nat) : Lane :=
  ((l.win.filter fun w => w.isOpen clock).flatMap (·.olds)).foldl (fun y o => match o.1 with
    | .g n => y.wg n (BitVec.ofNat 32 o.2)
    | .p n => y.wp n (o.2 != 0)
    | _ => y) l

/-- DETAIL0 for a register: no coding is given (log entry 14). -/
def regCode (r : RegName) : W32 :=
  match r with
  | .g n => Config.regDetail 0 n | .k n => Config.regDetail 1 n | .p n => Config.regDetail 2 n | .j n => Config.regDetail 3 n

/-! ### What an instruction does to each lane of E -/

/-- How a lane leaves an instruction. -/
inductive Fate where
  /-- to the next instruction -/
  | pass
  /-- to a target, with the refetch count -/
  | jump (pc : Addr)
  /-- it stays at the instruction: Waiting, or gone -/
  | stay
  | trap (i : TrapInfo)
  /-- it parks with the record of another lane, which does not name it (R188) -/
  | along (i : TrapInfo)
  deriving DecidableEq, Repr, Inhabited

/-- The effect of an instruction: the state with its effect made, the cycles to completion, lanes whose completion differs
(none: not known yet), and lanes that do not simply pass. -/
structure Res where
  s     : State
  lat   : Nat
  lats  : List (Nat × Option Nat)
  fates : List (Nat × Fate)
  fence : Bool
  deriving DecidableEq, Repr, Inhabited

def Res.ok (s : State) (lat : Nat) : Res := ⟨s, lat, [], [], false⟩
/-- Every lane of E has the fate. -/
def Res.all (s : State) (x : Env) (f : Fate) : Res := ⟨s, 0, [], x.lanes.map fun l => (l, f), false⟩

/-- Every lane of E parks with a trap whose record names the lowest of them (R188, R272, log entry 129). -/
def Res.team (s : State) (x : Env) (i : TrapInfo) : Res :=
  ⟨s, 0, [], x.lanes.map fun l => (l, if l == x.l0 then .trap i else .along i), false⟩

def Res.fate (r : Res) (l : Nat) : Fate := lookD r.fates l .pass
def Res.due (r : Res) (clock l : Nat) : Option Nat :=
  match lookD r.lats l (some r.lat) with
  | none => none
  | some n => some (clock + n)

/-! ### The frame of every instruction -/

/-- Lanes of `m` that satisfy `p`. -/
def pick (m : Lanes) (p : Nat → Bool) : Lanes := maskOf ((lanesOf m).filter p)

/-- A register a lane's instruction names in an open window, of its guard (R145 step 1) or its operands (step 4). -/
def guardViolation (tm : Team) (h : Hdr) (l : Nat) : Option (RegName × Addr) :=
  (tm.lane l).violates h.preds

/-- Mask operand of `g2p` in a lane, for the registers it writes (R179). -/
def g2pMask (x : Env) (l : Nat) : Nat := if x.v.cls == 3 && x.v.opn == 4 then x.b l 32 else 0

def operandViolation (x : Env) (l : Nat) : Option (RegName × Addr) :=
  (x.tm.lane l).violates (x.v.reads ++ x.v.writes (g2pMask x l))

def violationInfo (p : RegName × Addr) : TrapInfo := ⟨0x03, regCode p.1, BitVec.ofNat 64 p.2.toNat, 0, 0, 0⟩

/-- Raise one record for each kind of trap among the lanes, in ascending priority (R421); lanes `quiet` are not named. -/
def State.raise (s : State) (t : TeamRef) (pc : Addr) (key : Nat) (l : List (Nat × TrapInfo)) (quiet : Lanes := 0) : State :=
  let kinds := sortBy id ((l.map fun x => x.2.kind).dedup)
  kinds.foldl (fun s k =>
    let ls := l.filter fun x => x.2.kind == k
    match ls with
    | [] => s
    | (_, i) :: _ =>
      let m := maskOf (ls.map (·.1))
      let s := s.trap t m pc i key (m &&& ~~~quiet)
      match k with
      | 0x03 => (s.bump t.die (0x3400 + 32 * (t.core / 4) + 0x18) 15 0)
      | 0x0C => s.bump t.die 0xC08 31 0
      | 0x19 | 0x1B => s.bump t.die 0xD10 47 32
      | _ => s) s

/-- The lanes of a team-wide instruction that its record does not name: all but the lowest (R272). -/
def others (m : Lanes) : Lanes := m &&& ~~~(maskOf [lowest m])

/-- Privilege and register-bound checks that need the team (Table 4-9, checks 2 and 7). -/
def issueCheck (s : State) (t : TeamRef) (v : View) (regs : Nat) : Option TrapInfo :=
  if v.cls == 15 && v.opn ≥ 56 && (s.die t.die).fwcore != t.core then some (.simple 0x05)
  else if !v.regsOk regs then some (.simple 0x04 6)
  else none

/-- Registers of a thread of the team (R27). -/
def State.regsOf (s : State) (tm : Team) : Nat :=
  match s.group? tm.grp with
  | some g => g.regs
  | none => 255

/-- What registers of a lane hold, of those that are its own. -/
def Lane.holds (l : Lane) (rs : List RegName) : List (RegName × Nat) :=
  rs.filterMap fun r => match r with
    | .g n => some (r, (l.rg n).toNat)
    | .p n => some (r, (l.rp n).toNat)
    | _ => none

/-- Lanes that pass an instruction go on: pc, windows, and holds. `late` adds to the result, `extra` to the issue. -/
def finishLane (clock late extra : Nat) (v : View) (x : Env) (r : Res) (l : Nat) (y : Lane) : Lane :=
  let ws := v.writes (g2pMask x l)
  let w : Window := { pc := x.pc, due := r.due (clock + late) l, left := v.h.la.toNat, writes := ws,
                      olds := (x.tm.lane l).holds ws, fence := r.fence,
                      reads := r.fence && bits v.imm 31 30 == 1 }
  match r.fate l with
  | .pass => { (y.pass clock w) with pc := nextPc x.pc, hold := max y.hold (clock + 1 + extra), ra := none }
  | .jump a => { (y.pass clock w) with pc := a, hold := max y.hold (clock + 6), ra := none }
  | .stay => y
  | .trap _ | .along _ => y

/-- A suppressed lane passes the instruction; it waits for the fixed latency of an instruction that other lanes execute
(DEDUCED, log entry 17). -/
def suppressLane (clock lat : Nat) (v : View) (pc : Addr) (y : Lane) : Lane :=
  { (y.pass clock { pc := pc, due := some (clock + lat), left := v.h.la.toNat, writes := [], olds := [], fence := false, reads := false }) with
    pc := nextPc pc, hold := max y.hold (clock + 1), ra := none }

/-- Occupy the quad's issue for a register bank conflict, the long pipe, and the cross-lane unit; the latter, busy, adds 1 to the
result (Table 5-6). -/
def State.occupy (s : State) (t : TeamRef) (v : View) : State × Nat :=
  let q := t.slot / 8
  let extra := bankExtra v.gReads
  let s := if extra = 0 then s else
    s.modCore t.die t.core fun x => { x with issTo := updAt x.issTo q fun b => max b (s.clock + 1 + extra) }
  let c := s.core t.die t.core
  if isLong v.cls v.opn then
    (s.modCore t.die t.core fun x => { x with longTo := updAt x.longTo q fun _ => s.clock + 8 }, 0)
  else if isCross v.cls v.opn then
    let busy := c.crossTo.getD q 0
    (s.modCore t.die t.core fun x => { x with crossTo := updAt x.crossTo q fun b => max b s.clock + 2 },
     if s.clock < busy then 1 else 0)
  else (s, 0)

/-- Lanes that fail the lookahead check of their guard (R145 step 1). -/
def lookTraps (tm : Team) (v : View) (m : Lanes) : List (Nat × TrapInfo) :=
  (lanesOf m).filterMap fun l => (guardViolation tm v.h l).map fun p => (l, violationInfo p)

/-- What the lanes of an issue do before the instruction's own effect (R145): those that fail the guard's lookahead check,
those suppressed, those that fail a check, and the lanes E that execute. -/
structure Front where
  traps : List (Nat × TrapInfo)
  off   : Lanes
  x     : Env
  deriving DecidableEq, Repr, Inhabited

def front (s : State) (iss : Issue) (tm : Team) (v : View) : Front :=
  let bad1 := lookTraps tm v iss.lanes
  let ok1 := pick iss.lanes fun l => !(bad1.any (·.1 == l))
  let e1 := pick ok1 fun l => guardOf v.h (tm.lane l)
  let off := pick ok1 fun l => !guardOf v.h (tm.lane l)
  match issueCheck s iss.team v (s.regsOf tm) with
  | some i => ⟨bad1 ++ (lanesOf e1).map fun l => (l, i), off, ⟨iss.team, tm, 0, iss.pc, v⟩⟩
  | none =>
    let x1 : Env := ⟨iss.team, tm, e1, iss.pc, v⟩
    let bad4 := (lanesOf e1).filterMap fun l => (operandViolation x1 l).map fun p => (l, violationInfo p)
    ⟨sortBy (·.1) (bad1 ++ bad4), off, { x1 with e := pick e1 fun l => !(bad4.any (·.1 == l)) }⟩

/-- Traps among the fates of E. -/
def Res.traps (r : Res) (e : Lanes) : List (Nat × TrapInfo) :=
  (lanesOf e).filterMap fun l => match r.fate l with
    | .trap i | .along i => some (l, i)
    | _ => none

/-- Lanes of E that a record does not name. -/
def Res.quiet (r : Res) (e : Lanes) : Lanes := pick e fun l => match r.fate l with
  | .along _ => true
  | _ => false

/-- An instruction of fields `v` at the current issue: the checks, its effect `body` on the lanes E, and how each lane
goes on. The effect is made only where some lane executes. -/
def runIssue (v : View) (body : Env → State → Res) (iss : Issue) (tm : Team) (s0 : State) : State :=
  let s := { s0 with cur := none }
  let f := front s iss tm v
  let x := f.x
  let (s1, busy) := s.occupy iss.team v
  let extra := bankExtra v.gReads
  let r := if x.e = 0 then Res.ok s1 0 else body x s1
  let traps := f.traps ++ r.traps x.e
  let key := (lanesOf (maskOf (traps.map (·.1)))).headD 0
  let rs := r.s.lateK iss.team tm.kpend.length (busy + extra)
  let s2 := rs.modLanes iss.team x.e fun l y => finishLane s.clock (busy + extra) extra v x r l y
  let s3 := s2.modLanes iss.team f.off fun _ y =>
    suppressLane s.clock (if x.e = 0 then 0 else v.latency + (busy + extra)) v iss.pc y
  let s4 := s3.raise iss.team iss.pc (tm.key key) traps (r.quiet x.e)
  if v.h.yld then s4.modTeam iss.team fun t => { t with yldTo := max t.yldTo (s.clock + 8) } else s4

/-- The meaning of a word: what `body` does to the lanes E of the current issue. -/
def issueWord (v : View) (body : Env → State → Res) (s : State) : Host.Outcome State Fault Refusal :=
  match s.cur with
  | none => .fault .noIssue
  | some iss =>
    match s.team? iss.team with
    | none => .fault .noTeam
    | some tm => .next (runIssue v body iss tm s)

/-- A word that is no instruction (R117): its trap for the lanes whose guards pass; the others take their slot and go on.
`check` is the failing check of Table 4-9. -/
def badWord (h : Hdr) (cls opn check : Nat) (iss : Issue) (tm : Team) (s0 : State) : State :=
  let s := { s0 with cur := none }
  let v : View := ⟨cls, opn, h, Opd.none0, Opd.none0, .imm 0⟩
  let bad1 := lookTraps tm v iss.lanes
  let ok1 := pick iss.lanes fun l => !(bad1.any (·.1 == l))
  let e := pick ok1 fun l => guardOf h (tm.lane l)
  let off := pick ok1 fun l => !guardOf h (tm.lane l)
  let i : TrapInfo := if check != 1 && cls == 15 && opn ≥ 56 && (s.die iss.team.die).fwcore != iss.team.core
    then .simple 0x05 else .simple 0x04 (checkDetail check)
  let traps := bad1 ++ (lanesOf e).map fun l => (l, i)
  let s := s.modLanes iss.team off fun _ y => suppressLane s.clock 0 v iss.pc y
  s.raise iss.team iss.pc (tm.key ((lanesOf (maskOf (traps.map (·.1)))).headD 0)) traps

end Sys2Proof.Machine
end

