-- ==== Sys2Proof/Machine/Outbox.lean ====
section
/-! DEFINITION. What the device has for other devices: routes, and the send queues in which everything waits that leaves it (R391, R397, R398,
R400). -/

namespace Sys2Proof.Machine

def State.modFab (s : State) (f : Fabric → Fabric) : State := { s with fab := f s.fab }

/-- A plane of some slot reaches the device. -/
def SlotTable.reaches (t : SlotTable) (dest : Nat) : Bool := t.peers.contains (some dest)

/-- The port mask of a device's UALink route. -/
def State.uaRoute (s : State) (dest : Nat) : Option Nat := (s.aperture (aptBase + dest * 2 ^ 36)).map fun x => x.2.2

/-- A device can be reached by UALink, or in some slot of the active table. -/
def State.routed (s : State) (dest : Nat) : Bool :=
  (s.uaRoute dest).isSome || (match s.fab.active with
    | some t => t.reaches dest
    | none => false)

/-! ### What a port carries (R392, R393) -/

/-- The port that carries a line of an aperture: the k-th of the ports of its mask that are up, k from the line's address (R392). -/
def State.aptPort (s : State) (mask pa : Nat) : Nat :=
  let up := (List.range 16).filter fun p => (mask &&& s.fab.ports).testBit p
  up.getD (bits pa 13 7 % max 1 up.length) 0

/-- Note an access of die `d` at a place that a port carries, with the cycle by which it comes; `kept`: a load that the RDC serves in state
`s0` is carried by none (R233). -/
def State.noteOver (s s0 : State) (d : Nat) (p : Place) (kept : Bool) (due : Nat) (who : Waiter) : State :=
  match p with
  | .apt _ _ pa mask =>
    if kept && (findLine (s0.die d).rdc (lineOf pa)).isSome then s
    else s.modFab fun x => { x with flight := (x.flight.filter fun f => s.clock < f.due) ++ [⟨s.aptPort mask pa, mask, due, who, none⟩] }
  | _ => s

/-! ### Loads of an entry -/

/-- An entry of `fx.send`, and not of the device's own traffic. -/
def SendEntry.isSend (e : SendEntry) : Bool := e.load == .send

/-- A control message waits for the start of a data period that connects the pair (R400). -/
def SendEntry.isMsg (e : SendEntry) : Bool := match e.load with
  | .msg _ => true
  | _ => false

/-- The bytes of a load's frame at an offset; what `fx.send` reads stands in memory. -/
def Load.payload (l : Load) (off : Nat) : List Byte := match l with
  | .tile _ bs | .part _ bs => (bs.drop off).take 256
  | .send | .msg _ => []

/-- Who sends the device's own traffic for a plan: no group (R397). -/
def agentRef (p : PlanRef) : GroupRef := ⟨p.ctx, p.rcb, 2 ^ 64⟩

/-! ### Queues (R397) -/

/-- The queue of a destination: its own, or the lowest one that is not bound (R397). -/
def State.sendQueue (s : State) (dest : Nat) : Nat :=
  match s.fab.entries.find? (·.dest == dest) with
  | some e => e.queue
  | none => ((List.range 64).find? fun q => !s.fab.entries.any (·.queue == q)).getD 0

/-- A destination's queue takes `n` entries more: it is bound and holds fewer than 64, or one is free to bind. -/
def State.queueRoom (s : State) (dest n : Nat) : Bool :=
  let k := (s.fab.entries.filter (·.dest == dest)).length
  k + n < 64 && (k != 0 || (s.fab.entries.map (·.dest)).dedup.length < 64)

/-- The cycle that no control message waits for: the start of a data period sets its own. -/
def neverElig : Nat := 2 ^ 80

/-- Batches of a destination stand in the order of the cycles in which they form, and of their keys (R372). -/
def SendEntry.laterBatch (e x : SendEntry) : Bool := match e.load, x.load with
  | .msg (.batch a), .msg (.batch b) => x.dest == e.dest && x.next = 0 && (e.formed < x.formed || (e.formed == x.formed && a.key < b.key))
  | _, _ => false

/-- An entry goes into its destination's queue, bound anew where need be. -/
def State.enqueueEntry (s : State) (e : SendEntry) : State :=
  let e := { e with queue := s.sendQueue e.dest, stranded := !s.routed e.dest }
  let (lo, hi) := s.fab.entries.span fun x => !e.laterBatch x
  let s := s.modFab fun x => { x with entries := lo ++ e :: hi }
  if e.elig = neverElig then s else s.at_ e.elig (.sendEligible e.id)

/-- The device's own traffic that found no room goes into the queues that have some now. -/
def State.admitWaiting (s : State) : State :=
  s.fab.waiting.foldl (fun s e => if s.queueRoom e.dest 0 then s.enqueueEntry e
    else s.modFab fun x => { x with waiting := x.waiting ++ [e] }) (s.modFab fun x => { x with waiting := [] })

/-- Send something of the device's own from a die, formed at a cycle: frames of `len` bytes for offset `off` of a window, or a control
message (R300, R397, R400, R406). UALink carries it at once; an optical entry becomes eligible 750 cycles on, and a message at the start of a
data period. -/
def State.post (s : State) (d : Nat) (p : PlanRef) (dest win off len formed : Nat) (load : Load) : State :=
  let msg := match load with
    | .msg _ => true
    | _ => false
  let e : SendEntry := {
    id := s.fab.nextId, dest := dest, win := win, grp := agentRef p, tc := none, src := 0, len := len, offset := off, gen := 0, formed := formed
    elig := if (s.uaRoute dest).isSome then formed else if msg then neverElig else formed + 750
    next := 0, flight := [], acked := [], lost := [], seq := s.fab.nextSeq, die := d, core := 0, queue := 0, stamp := 0, stopped := none
    stranded := false, drawn := false, load := load }
  let s := s.modFab fun x => { x with nextId := x.nextId + 1, nextSeq := x.nextSeq + (len + 255) / 256 }
  if s.queueRoom dest 0 then s.enqueueEntry e else s.modFab fun x => { x with waiting := x.waiting ++ [e] }

/-- Send a control message of a plan, formed at a cycle. -/
def State.postMsg (s : State) (d : Nat) (p : PlanRef) (dest formed : Nat) (m : CtlMsg) : State := s.post d p dest 0 0 256 formed (.msg m)

end Sys2Proof.Machine
end

