-- ==== Sys2Proof/Machine/Fetch.lean ====
section
/-! DEFINITION. Instruction supply (R94 to R109) and the choice of what a quad issues (R129 to R132, R147). -/

namespace Sys2Proof.Machine

/-! ### Where an instruction stands -/

/-- A team runs on its die's firmware core (R53). -/
def State.isFw (s : State) (t : TeamRef) : Bool := (s.die t.die).fwcore == t.core

/-- The lowest LANDED frame that holds a segment (R107). -/
def Group.landed (g : Group) (pc : Addr) : Option OFrame :=
  g.frames.find? fun f => f.st == .landed && f.seg == pc.extractLsb' 12 36

/-- OVERLAY of a context. -/
def State.overlay (s : State) (ctx : Nat) : Bool :=
  match s.ctx? ctx with
  | some c => c.overlay
  | none => false

/-- Bytes of the instruction at a physical address as the cluster's cache holds them, or from memory where the line is
absent (R99, R102). -/
def State.cachedBytes (s : State) (die cluster pa : Nat) : List Byte :=
  match (s.cluster die cluster).icache.find? (·.line == pa / 128) with
  | some l => (l.bytes.drop (pa % 128)).take 12
  | none => s.memBytes pa 12

/-- The bytes of the instruction that an issue names. -/
def State.fetchBytes (s : State) (iss : Issue) (tm : Team) : List Byte :=
  let t := iss.team
  if s.isFw t then s.cachedBytes t.die (t.core / 4) iss.pc.toNat
  else if s.overlay tm.grp.ctx then
    match s.group? tm.grp with
    | none => []
    | some g => match g.landed iss.pc with
      | some f => s.scrBytes (scrBase g.die g.core + g.winBase + f.woff + iss.pc.toNat % 4096) 12
      | none => []
  else match s.translate t.die t.core tm.grp.ctx iss.pc.toNat 4 with
    | (.ok pa _ _ _, _, _) => s.cachedBytes t.die (t.core / 4) pa
    | (.fail _ _, _, _) => []

inductive Probe where
  /-- held by the cache or a frame -/
  | held
  /-- absent: physical line, and the cycles of the walk -/
  | absent (line walk : Nat)
  /-- the fetch fails: kind and detail of its trap -/
  | fault (i : TrapInfo)
  /-- its walk is held by a migration (R241) -/
  | waits
  /-- no port of its aperture is up (R393) -/
  | down
  deriving DecidableEq, Repr, Inhabited

/-- Look for the instruction at an address (R99, R101, R107). A page that maps nothing backed faults as one that is not mapped
(log entry 92). -/
def State.probe (s : State) (tm : Team) (pc : Addr) : Probe × State :=
  let t := tm.ref
  let look (pa walk : Nat) (s : State) : Probe × State :=
    if (s.cluster t.die (t.core / 4)).icache.any (·.line == pa / 128) then (.held, s)
    else match s.backing true 7 0 0 pa with
      | .ok p => if (s.portDown p).isSome then (.down, s) else (.absent (pa / 128) walk, s)
      | .error _ => (.absent (pa / 128) walk, s)
  if s.isFw t then look pc.toNat 0 s
  else if s.overlay tm.grp.ctx then
    match s.group? tm.grp with
    | none => (.fault (.simple 0x02 0 pc.toNat), s)
    | some g => match g.landed pc with
      | some _ => (.held, s)
      | none => (.fault (.simple 0x02 0 pc.toNat), s)
  else match s.translate t.die t.core tm.grp.ctx pc.toNat 4 with
    | (.fail c _, _, s) => (if c == 9 then .waits else .fault (.simple 0x01 (if c == 8 then 2 else 0) pc.toNat), s)
    | (.ok pa _ _ perm, l, s) =>
      if !perm.testBit 2 then (.fault (.simple 0x01 1 pc.toNat), s)
      else match s.backing false perm 0 pc.toNat pa with
        | .ok _ => look pa l s
        | .error _ => (.fault (.simple 0x01 0 pc.toNat), s)

/-- Latency of the load of an instruction line from its location by a die, with what its corrected errors add (R232). -/
def State.lineLat (s : State) (die line walk : Nat) : Nat × State :=
  if (homeOf (128 * line)).isSome then
    let (l, s) := s.loadLine die (128 * line) 4 walk
    let fixed := (sectorsOf (128 * line) 128).filter fun a => s.sectorError a == some false
    (l + 8 * fixed.length, fixed.foldl (fun s a => (s.meetError a).1) s)
  else s.aptLat (128 * line)

/-- The bytes of an instruction line from its location. -/
def State.lineBytes (s : State) (line : Nat) : List Byte × State :=
  match s.backing false 7 0 0 (128 * line) with
  | .ok p => s.placeBytes p 128
  | .error _ => (List.replicate 128 0, s)

/-- Begin a fill, once per line: the latency of the line's location plus 12 cycles, after the walk (R99). -/
def State.startFill (s : State) (die cluster line walk : Nat) (ahead : Bool) : State :=
  if (s.cluster die cluster).fills.any (·.1 == line) then
    s.modCluster die cluster fun c => { c with fills := c.fills.map fun f => if f.1 == line then (line, f.2 && ahead) else f }
  else
    let s := s.modCluster die cluster fun c => { c with fills := c.fills ++ [(line, ahead)] }
    let (lat, s) := s.lineLat die line walk
    let me : Event := .icacheFill die cluster line ahead
    let s := match s.backing false 7 0 0 (128 * line) with
      | .ok p => s.noteOver s die p false (s.clock + walk + lat + 12) (.unit me)
      | .error _ => s
    s.after (walk + lat + 12) me

/-- Counter address of a cluster's supply counters (Table 4-1) and issue counters (Table 5-7). -/
def icBase (core : Nat) : Nat := 0x3000 + 32 * (core / 4)
def issBase (core : Nat) : Nat := 0x3400 + 32 * (core / 4)

/-- The line of the instruction cache that a team's fetch at an address finds, none in overlay mode. -/
def State.cacheLine (s : State) (tm : Team) (pc : Addr) : Option ILine :=
  let t := tm.ref
  let find (pa : Nat) : Option ILine := (s.cluster t.die (t.core / 4)).icache.find? (·.line == pa / 128)
  if s.isFw t then find pc.toNat
  else if s.overlay tm.grp.ctx then none
  else match s.translate t.die t.core tm.grp.ctx pc.toNat 4 with
    | (.ok pa _ _ _, _, _) => find pa
    | (.fail _ _, _, _) => none

/-- What SECDED finds in the cached line of an address (R98, R101), in the units of 16 bytes of the fetch block that holds it, or of the
whole line ahead: an error that it corrects in place is counted; a line with an uncorrectable one is invalidated, to be fetched again once
where an instruction waits for it. -/
def State.checkLine (s : State) (tm : Team) (pc : Addr) (ahead : Bool) : State :=
  let t := tm.ref
  let cl := t.core / 4
  match s.cacheLine tm pc with
  | none => s
  | some x =>
    let at_ (i : Nat) : Bool := i / 8 == x.line && (ahead || i % 8 / 4 == pc.toNat % 128 / 64)
    let es := (s.cluster t.die cl).flaws.filter fun e => at_ e.1
    if es.any (·.2) then
      let s := s.modCluster t.die cl fun c => { c with
        icache := c.icache.filter (·.line != x.line), flaws := c.flaws.filter fun e => e.1 / 8 != x.line
        again := if ahead then c.again else c.again ++ [x.line] }
      if ahead then s.bump t.die (icBase t.core + 0x10) 15 0 else s.bump t.die (icBase t.core + 0x18) 15 0
    else es.foldl (fun s e => (s.modCluster t.die cl fun c => { c with flaws := c.flaws.filter (·.1 != e.1) }).bump
      t.die (icBase t.core + 0x10) 31 16) s

/-- A fetch makes its line the most recently used of its set (R98, log entry 10). -/
def State.useLine (s : State) (tm : Team) (pc : Addr) : State :=
  match s.cacheLine tm pc with
  | some x => s.modCluster tm.ref.die (tm.ref.core / 4) fun c => { c with icache := c.icache.filter (·.line != x.line) ++ [x] }
  | none => s

/-- An ahead-only fetch of the line of an address: failures are dropped and counted, and a line that an uncorrectable error takes away is not
filled (R101). One whose walk a migration holds, or whose aperture has no port up, is dropped and counted too. -/
def State.fetchAhead (s : State) (tm : Team) (pc : Addr) : State :=
  let t := tm.ref
  let drop (s : State) : State := s.bump t.die (icBase t.core + 0x10) 15 0
  let had := (s.cacheLine tm pc).isSome
  let s := s.checkLine tm pc true
  if had && (s.cacheLine tm pc).isNone then s else
  match s.probe tm pc with
  | (.held, s) => s
  | (.waits, s) | (.down, s) => drop s
  | (.absent line walk, s) => s.startFill t.die (t.core / 4) line walk true
  | (.fault i, s) => if i.kind == 0x02 then s else drop s

/-- A demand fill begins, and with it the fetch of the next line ahead, in the same 4 KiB page and absent (R100). -/
def State.demandFill (s : State) (die cluster line walk : Nat) : State :=
  let fresh := !(s.cluster die cluster).fills.any (·.1 == line)
  let s := s.startFill die cluster line walk false
  let c := s.cluster die cluster
  let nxt := line + 1
  if !fresh || line % 32 == 31 || c.icache.any (·.line == nxt) || c.fills.any (·.1 == nxt) then s
  else s.startFill die cluster nxt walk true

/-- Install a line: 8 lines to each of 256 sets; the least recently used gives way (R98, log entry 10). Errors stand in the lines that stay. -/
def Cluster.install (c : Cluster) (line : Nat) (bs : List Byte) : Cluster :=
  let rest := c.icache.filter (·.line != line)
  let set := rest.filter fun x => x.line % 256 == line % 256
  let rest := match set with
    | v :: _ => if set.length ≥ 8 then rest.filter (·.line != v.line) else rest
    | [] => rest
  { c with icache := rest ++ [⟨line, bs⟩], again := c.again.filter (· != line), flaws := c.flaws.filter fun e => rest.any (·.line == e.1 / 8) }

/-- The lanes of a frozen team at the address that froze it raise the instruction-fetch fault, with a memory error (R101). -/
def State.fillFault (s : State) (t : Team) (pc : Addr) : State :=
  let m := t.lanesIn fun l => l.st == .runnable && l.pc == pc
  (s.modTeam t.ref fun x => { x with freeze := none }).trap t.ref m pc (.simple 0x01 2 pc.toNat) (t.key (lowest m))

/-- ICACHE_FILL (R99, R101): the line arrives, and teams that wait for it go on; one with an uncorrectable error is fetched again
once. -/
def icacheFill (die cluster line : Nat) (s : State) : State :=
  let c := s.cluster die cluster
  let s := s.modCluster die cluster fun c => { c with fills := c.fills.filter (·.1 != line) }
  let cnt := 0x3000 + 32 * cluster
  let bad := (List.range 4).any fun i => s.sectorError (line * 128 + 32 * i) == some true
  match c.fills.find? (·.1 == line) with
  | none => s
  | some (_, ahead) =>
    let waits (t : Team) : Option Addr := match t.freeze with
      | some (l, pc) => if t.ref.die == die && t.ref.core / 4 == cluster && l == line then some pc else none
      | none => none
    if bad then
      if ahead then s.bump die (cnt + 0x10) 15 0
      else if c.again.contains line then
        let s := s.modCluster die cluster fun c => { c with again := c.again.filter (· != line) }
        s.teams.foldl (fun s t => match waits t with
          | some pc => s.fillFault t pc
          | none => s) s
      else
        let s := (s.bump die (cnt + 0x18) 15 0).modCluster die cluster fun c => { c with again := c.again ++ [line] }
        s.startFill die cluster line 0 false
    else
      let (bs, s) := s.lineBytes line
      let s := s.modCluster die cluster fun c => c.install line bs
      if ahead then s else
      { s with teams := updIf s.teams (fun t => (waits t).isSome) fun t => { t with freeze := none } }

/-! ### The vote (R127, R131) -/

/-- The word at a lane's address, when it is held. -/
def State.wordAt (s : State) (tm : Team) (pc : Addr) : W96 := wordOfBytes (s.fetchBytes ⟨tm.ref, pc, 0, none⟩ tm)

/-- The queue that a word's instruction would add to: a copy channel, a cluster's engine queue, or the send queue of a destination. -/
inductive QueueId where
  | chan (die core ix : Nat)
  | engine (die cluster : Nat)
  | send (dest : Nat)
  deriving DecidableEq, Repr, Inhabited

def queueOf (tm : Team) (w : W96) (e : Lanes) : Option QueueId :=
  let t := tm.ref
  match splitWord w with
  | none => none
  | some v =>
    let copy := (v.cls == 10 && (v.opn == 0 || v.opn == 1 || v.opn == 2)) || (v.cls == 11 && v.opn == 4)
    if e = 0 then none
    else if copy then some (.chan t.die t.core (v.d.idx % 2))
    else if v.cls == 0 && v.opn == 12 then some (.chan t.die t.core (v.d.opt % 2))
    else if v.cls == 12 && v.opn ≤ 5 then some (.engine t.die (t.core / 4))
    else if v.cls == 14 && v.opn == 0 then some (.send (bits (((tm.lane (lowest e)).rgs (v.a.idx + 3) 1)) 9 0))
    else none

/-- Of some lanes, those that execute a word: their guards pass (R134). -/
def execLanes (tm : Team) (w : W96) (m : Lanes) : Lanes := pick m fun l => guardOf (hdrOf w) (tm.lane l)

/-- Issues of the cycle, chosen by the quads before, that add to a queue now; an `mx.post` adds when its record has been read (R311). -/
def State.adding (s : State) (q : QueueId) : Nat :=
  (s.chosen.filter fun i => match s.team? i.team with
    | some tm =>
      let w := s.wordAt tm i.pc
      (i.post.isSome || !(clsOf w == 12 && opnOf w == 5)) && queueOf tm w (if i.post.isSome then i.lanes else execLanes tm w i.lanes) == some q
    | none => false).length

/-- The instruction at an address would find its queue full, so its team is not ready for it (R260, R311, R397): the counter to
count the cycle in. The lanes `m` are those that could vote. -/
def State.queueFull (s : State) (tm : Team) (m : Lanes) (pc : Addr) : Option (Nat × Nat × Nat) :=
  let w := s.wordAt tm pc
  match queueOf tm w (execLanes tm w (pick m fun l => (tm.lane l).pc == pc)) with
  | none => none
  | some q => match q with
    | .chan d c i => if (s.chan d c i).queue.length + s.adding q ≥ 32 then some (0xA20, 31, 0) else none
    | .engine d c => if (s.cluster d c).queue.length + s.adding q ≥ 64 then some (0xB20, 31, 0) else none
    | .send dest =>
      let n := (s.fab.entries.filter (·.dest == dest)).length
      let dests := (s.fab.entries.map (·.dest)).dedup
      if n + s.adding q ≥ 64 || (n == 0 && dests.length ≥ 64) then some (0xE38, 63, 32) else none

/-- Runnable lanes of a team that no lookahead wait holds. -/
def State.standing (s : State) (tm : Team) : Lanes := tm.lanesIn fun l => l.st == .runnable && l.hold ≤ s.clock && !l.blocked s.clock

/-- Lanes of a team that may take part in the vote. -/
def State.eligible (s : State) (tm : Team) : Lanes :=
  if tm.freeze.isSome then 0 else
  let m := s.standing tm
  tm.lanesIn fun l =>
    l.st == .runnable && l.hold ≤ s.clock && !l.blocked s.clock &&
    (let w := s.wordAt tm l.pc
     !(isLong (clsOf w) (opnOf w) && s.clock < (s.core tm.ref.die tm.ref.core).longTo.getD (tm.ref.slot / 8) 0) &&
     !(heldByFence (clsOf w) (opnOf w) && l.win.any fun x => x.fence && x.isOpen s.clock) &&
     (s.queueFull tm m l.pc).isNone)

/-- Distinct addresses of the lanes, ascending. -/
def pcsOf (tm : Team) (m : Lanes) : List Nat := (sortBy id ((lanesOf m).map fun l => (tm.lane l).pc.toNat)).dedup

def lanesAt (tm : Team) (m : Lanes) (pc : Nat) : Lanes := pick m fun l => (tm.lane l).pc.toNat == pc

/-- Table 5-2: the word at P2 is refused beside the one at P1. -/
def refuses (w1 w2 : W96) : Bool :=
  let f (w : W96) : View := (splitWord w).getD ⟨clsOf w, opnOf w, hdrOf w, Opd.none0, Opd.none0, .imm 0⟩
  let a := f w1
  let b := f w2
  a.teamWide || b.teamWide || (isLong a.cls a.opn && isLong b.cls b.opn) || (isCross a.cls a.opn && isCross b.cls b.opn) ||
  (usesPort a.cls && usesPort b.cls) ||
  (List.range 4).any fun k => ((a.gReads ++ b.gReads).filter fun n => n % 4 == k).length > 2

/-- A team is diverged (R147). -/
def Team.diverged (t : Team) : Bool :=
  let m := t.lanesIn fun l => match l.st with
    | .runnable | .join _ => true
    | _ => false
  !((lanesOf m).all fun l => (t.lane l).st == .runnable) || (pcsOf t m).length > 1

/-- The boosted thread of a quad: key, team, lane (R129). -/
def boosted (teams : List Team) : Option (Nat × TeamRef × Nat) :=
  teams.foldl (fun b t =>
    let m := t.lanesIn fun l => l.st == .runnable
    if m = 0 then b else
    let l := lowest m
    let k := t.key l
    match b with
    | some (k', _, _) => if k < k' then some (k, t.ref, l) else b
    | none => some (k, t.ref, l)) none

/-- Fetches and fetch faults of a quad's teams before it chooses: a team whose lowest voting address is absent freezes and
its line is fetched; a fault parks the lanes at the address (R99, R101, R107). -/
def State.quadFetch (s : State) (tm : Team) : State :=
  let m := s.eligible tm
  match pcsOf tm m with
  | [] => s
  | pc :: _ =>
    match (s.checkLine tm (BitVec.ofNat 48 pc) false).probe tm (BitVec.ofNat 48 pc) with
    | (.held, s) => s
    | (.waits, s) => s
    | (.down, s) =>
      match s.portWait tm.ref.die tm.ref.core pc with
      | (false, s) => s
      | (true, s) =>
        let m := tm.lanesIn fun l => l.st == .runnable && l.pc.toNat == pc
        s.trap tm.ref m (BitVec.ofNat 48 pc) (.simple 0x01 2 pc) (tm.key (lowest m))
    | (.absent line walk, s) =>
      let t := tm.ref
      let shared := (s.cluster t.die (t.core / 4)).fills.any fun f => f.1 == line && !f.2
      let s := if shared then s else s.bump t.die (icBase t.core) 31 0
      let s := (s.bump t.die (icBase t.core + 8) 31 0).demandFill t.die (t.core / 4) line walk
      s.modTeam t fun x => { x with freeze := some (line, BitVec.ofNat 48 pc) }
    | (.fault i, s) =>
      let m := tm.lanesIn fun l => l.st == .runnable && l.pc.toNat == pc
      s.trap tm.ref m (BitVec.ofNat 48 pc) i (tm.key (lowest m))

/-- Cycles in which a full queue keeps lanes from being ready are counted, once for a team (R260, R311, R397). -/
def State.countFull (s : State) (tm : Team) : State :=
  if tm.freeze.isSome then s else
  let m := s.standing tm
  (((pcsOf tm m).filterMap fun pc => s.queueFull tm m (BitVec.ofNat 48 pc)).dedup).foldl
    (fun s c => s.bump tm.ref.die c.1 c.2.1 c.2.2) s

/-- Issue the voted addresses of a chosen team (R131, R132). -/
def State.issueTeam (s : State) (tm : Team) (boost : Option Nat) : State :=
  let m := s.eligible tm
  let t := tm.ref
  let pcs := pcsOf tm m
  match pcs with
  | [] => s
  | p1 :: rest =>
    let p2 := match boost with
      | some b => if b == p1 then rest.head? else some b
      | none => rest.head?
    let iss (p : Nat) : Issue := ⟨t, BitVec.ofNat 48 p, lanesAt tm m p, none⟩
    let s := if tm.diverged then s.modTeam t fun x => { x with wddiv := true } else s
    match p2 with
    | none => { s.useLine tm (BitVec.ofNat 48 p1) with chosen := s.chosen ++ [iss p1] }
    | some q =>
      let (pr, s) := (s.checkLine tm (BitVec.ofNat 48 q) true).probe tm (BitVec.ofNat 48 q)
      let w1 := s.wordAt tm (BitVec.ofNat 48 p1)
      let w2 := s.wordAt tm (BitVec.ofNat 48 q)
      if pr == .held && !refuses w1 w2 then
        let s := (s.useLine tm (BitVec.ofNat 48 p1)).useLine tm (BitVec.ofNat 48 q)
        { (s.bump t.die (issBase t.core) 31 0) with chosen := s.chosen ++ [iss p1, iss q] }
      else
        let s := if pr == .held then s else s.fetchAhead tm (BitVec.ofNat 48 q)
        let s := s.bump t.die (issBase t.core + 8) 31 0
        let first := if boost == some q && pr == .held then q else p1
        { s.useLine tm (BitVec.ofNat 48 first) with chosen := s.chosen ++ [iss first] }

/-- QUAD_ISSUE (R129): by boost on even cycles, by rotation otherwise. -/
def quadIssue (die core quad : Nat) (s0 : State) : State :=
  let on (s : State) := s.teams.filter fun t => t.ref.die == die && t.ref.core == core && t.ref.slot / 8 == quad
  if s0.clock < (s0.core die core).issTo.getD quad 0 then (on s0).foldl (fun s t => s.countFull t) s0 else
  let s := (on s0).foldl (fun s t => (s.countFull t).quadFetch t) s0
  let teams := on s
  let ready := teams.filter fun t => match pcsOf t (s.eligible t) with
    | [] => false
    | pc :: _ => (s.probe t (BitVec.ofNat 48 pc)).1 == .held
  let rot (s : State) : State :=
    let ptr := (s.core die core).rot.getD quad 7
    let order := (List.range 8).map fun i => (ptr + 1 + i) % 8
    let cand := order.filterMap fun k =>
      ready.find? fun (t : Team) => t.ref.slot % 8 == k && (ready.length == 1 || t.yldTo < s.clock)
    match cand with
    | [] => s
    | t :: _ =>
      (s.modCore die core fun c => { c with rot := updAt c.rot quad fun _ => t.ref.slot % 8 }).issueTeam t none
  if s.clock % 2 == 0 then
    match boosted teams with
    | some (_, t, l) =>
      match ready.find? (·.ref == t) with
      | some tm => if (s.eligible tm).getLsbD l then s.issueTeam tm (some (tm.lane l).pc.toNat) else s.issueTeam tm none
      | none => rot s
    | none => rot s
  else rot s

end Sys2Proof.Machine
end

