-- ==== Sys2Proof/Machine/Hw.lean ====
section
/-! DEFINITION. Device registers: the Headwater blocks as firmware and Estuary read and write them (R7, R8, R51, R224). -/

namespace Sys2Proof.Machine

/-- Mask of the bits [hi:lo]. -/
def fieldMask (hi lo : Nat) : Nat := (2 ^ (hi + 1 - lo) - 1) * 2 ^ lo
def m32 : Nat := 2 ^ 32 - 1
def m64 : Nat := 2 ^ 64 - 1

/-- Bits of a register that a read clears (access RC). -/
def rcMask (off : Nat) : Nat :=
  if 0x3000 ≤ off && off < 0x3400 then [m32, m32, m32, fieldMask 15 0].getD (off % 32 / 8) 0
  else if 0x3400 ≤ off && off < 0x3800 then [m32, m32, m32, fieldMask 15 0].getD (off % 32 / 8) 0
  else if 0x3800 ≤ off && off < 0x4000 then [m32, m32, 0, fieldMask 47 32].getD (off % 32 / 8) 0
  else match off with
    | 0x808 | 0x810 | 0x820 | 0xA10 | 0xA20 | 0xB18 | 0xB20 | 0xC10 => m32
    | 0xA18 => m32
    | 0x938 | 0xC08 | 0xD08 | 0xE30 | 0x4018 | 0x4020 | 0x4108 | 0x4110 => m64
    | 0x940 => fieldMask 47 32
    | 0x948 | 0xD10 => fieldMask 47 0
    | 0xE38 => fieldMask 63 32
    | 0xE40 => m32
    | _ => 0

/-- Bits that a plain register write stores (access RW), of registers whose writes have no event of their own. -/
def rwMask (off : Nat) : Nat :=
  if 0x1000 ≤ off && off < 0x1800 then
    match off % 64 with
    | 0x00 => fieldMask 52 0
    | 0x30 => fieldMask 47 0
    | 0x38 => fieldMask 47 0
    | _ => 0
  else if 0xE80 ≤ off && off < 0xF80 then (if off % 16 == 8 then fieldMask 39 0 else 0)
  else match off with
    | 0x828 | 0x920 | 0xA00 => fieldMask 15 0
    | 0x900 | 0x910 => fieldMask 59 0
    | 0x908 => m32
    | 0x918 => fieldMask 47 16
    | 0x928 => fieldMask 47 0 + fieldMask 55 48
    | 0x930 => fieldMask 63 32
    | 0xB00 | 0xB08 => m64
    | 0xB10 => fieldMask 14 0
    | 0xE08 => fieldMask 12 0
    | 0xE10 | 0xE18 => fieldMask 47 0
    | 0xE20 => m32
    | 0x4100 => fieldMask 3 0 + fieldMask 15 8
    | _ => 0

/-- Offsets of the block that the tables name. -/
def hwNamed (off : Nat) : Bool :=
  off < 0x28 || (0x800 ≤ off && off ≤ 0x828) || (0x900 ≤ off && off ≤ 0x950) || (0xA00 ≤ off && off ≤ 0xA20) ||
  (0xB00 ≤ off && off ≤ 0xB20) || (0xC00 ≤ off && off ≤ 0xC10) || (0xD00 ≤ off && off ≤ 0xD10) ||
  (0xE00 ≤ off && off ≤ 0xE40) || (0xE80 ≤ off && off < 0x1800) || (0x3000 ≤ off && off < 0x4030) ||
  (0x4100 ≤ off && off ≤ 0x4110)

/-- No sub-array of the window is fenced: window w of mode 64 << m spans 2^m grid columns and all 8 grid rows (R302,
R326). -/
def windowOk (fence : W64) (m w : Nat) : Bool :=
  (List.range (2 ^ m)).all fun i => (List.range 8).all fun gr => !fence.getLsbD (8 * gr + w * 2 ^ m + i)

/-- MXWIN of Table 10-9. -/
def windowsOf (fence : W64) : Nat :=
  let part (m base : Nat) : Nat := ((List.range (8 / 2 ^ m)).map fun w => (windowOk fence m w).toNat * 2 ^ (base + w)).sum
  part 0 0 + part 1 8 + part 2 12 + part 3 14

/-- FQLOG: values other than 6 to 14 read as 8 (Table 14-11). -/
def State.fqLog (s : State) (d : Nat) : Nat :=
  let n := s.fld d 0x4000 51 48
  if 6 ≤ n && n ≤ 14 then n else 8

/-- The fields that follow the state, with the bits they stand in. -/
def State.computed (s : State) (d off : Nat) : Nat × Nat :=
  let dd := s.die d
  if 0x3800 ≤ off && off < 0x4000 then
    let e := s.engine d ((off - 0x3800) / 32)
    match off % 32 with
    | 0x08 => (m32, min (2 ^ 32 - 1) (s.fld d off 31 0 + (e.busyFrom.map fun n => s.clock - n).getD 0))
    | 0x10 => (m64, e.fence.toNat)
    | 0x18 => (m32, windowsOf e.fence + e.csver.toNat * 2 ^ 16)
    | _ => (0, 0)
  else if 0x1000 ≤ off && off < 0x1800 && off % 64 == 0 then
    (fieldMask 52 48, if 10 ≤ s.fld d off 52 48 && s.fld d off 52 48 ≤ 24 then s.fld d off 52 48 * 2 ^ 48 else 10 * 2 ^ 48)
  else match off with
    | 0x000 => (m64, d + 2 ^ 16)
    | 0x010 => (m64, dd.fifo.length)
    | 0x018 => (m64, dd.fwcore)
    | 0x020 => (m64, s.clock % 2 ^ 64)
    | 0x818 => (m64, ((List.range 4).map fun n =>
        (n == d || dd.links.testBit n).toNat * 2 ^ n + (!s.linkUp d n).toNat * 2 ^ (4 + n)).sum)
    | 0x940 => (m32, dd.ords.length)
    | 0xA08 => (m64, (s.pipeBytes d + 65535) / 65536)
    | 0xC00 => (m64, dd.c % 2 ^ 64)
    | 0xD00 => (m64, dd.repl.length)
    | 0xE00 => (fieldMask 9 0, s.fab.devid)
    | 0xE28 => (m64, s.fab.ftime % 2 ^ 64)
    | 0xE38 => (m32, (s.fab.entries.filter (·.stranded)).length)
    | 0x4000 => (fieldMask 51 48, s.fqLog d * 2 ^ 48)
    | 0x4028 => (m64, dd.departed.length)
    | _ => (0, 0)

/-- The value a read of a register gives, and its RC fields cleared (R8, R51). -/
def State.readReg (s : State) (d off : Nat) : W64 × State :=
  let (m, v) := s.computed d off
  let w := (s.reg d off).toNat
  let val := BitVec.ofNat 64 ((w &&& (m64 ^^^ m)) ||| v)
  let rc := rcMask off
  let s := if rc == 0 then s else s.setReg d off (BitVec.ofNat 64 (w &&& (m64 ^^^ rc)))
  let s := if 0x3800 ≤ off && off < 0x4000 && off % 32 == 8 then
      s.modEngine d ((off - 0x3800) / 32) fun e => { e with busyFrom := e.busyFrom.map fun _ => s.clock } else s
  (val, { s with lastRead := val })

/-- The events of a register write. -/
def regEvents (d off : Nat) (v : W64) : List Event :=
  let q : QRef := ⟨d, (off - 0x1000) / 64⟩
  let go (b : Nat) (e : Event) : List Event := if v.getLsbD b then [e] else []
  if 0x1000 ≤ off && off < 0x1800 then
    match off % 64 with
    | 0x08 => [.queueEnable q v]
    | 0x10 => [.tailSubmission q (v.setWidth 32)]
    | 0x18 => [.qheadWrite q v]
    | 0x20 => [.tailerrClear q v]
    | _ => [.registerWrite d off v]
  else if 0xE80 ≤ off && off < 0xF80 && off % 16 == 0 then [.receiveWindowEnable ((off - 0xE80) / 16) v]
  else match off with
    | 0x908 => .registerWrite d off v :: go 32 (.invalidationStart d)
    | 0x918 => .registerWrite d off v :: go 0 (.migrationStart d)
    | 0x950 => [.orddrop d (v.toNat % 2 ^ 48)]
    | 0xB10 => .registerWrite d off v :: go 16 (.controlStoreLoad d)
    | 0x4000 => [.fqbaseWrite d v]
    | 0x4008 => [.fqtailWrite d v]
    | 0x4100 =>
      let unit := bits v.toNat 15 8
      .registerWrite d off v :: (match bits v.toNat 3 0 with
        | 1 => go 16 (.engineReset d unit)
        | 2 => go 16 (.channelReset d unit)
        | 3 => go 16 (.walkerReset d)
        | 4 => go 16 (.tidelineNodeReset d)
        | 5 => go 16 (.coreReset d unit)
        | 6 => go 16 (.dieReset d unit)
        | _ => [])
    | _ => [.registerWrite d off v]

/-- Count a malformed register access in the die's BADACC (R51). -/
def State.badAccess (s : State) (d : Nat) : State :=
  { s with svc := { s.svc with badacc := updAt s.svc.badacc d (· + 1) } }

/-- Die and offset of a device-register address in a Headwater block. -/
def hwPlace (pa : Nat) : Option (Nat × Nat) :=
  let r := pa - 0xFFF000000000
  if r / 0x10000000 < 4 && r % 0x10000000 < 0x10000 then some (r / 0x10000000, r % 0x10000000) else none

/-- A read of a device register: its value and the state afterwards. An address outside the Headwater blocks belongs to
registers that no chapter describes: a free value (log entry 18). -/
def State.devRead (s : State) (pa size : Nat) : Nat × State :=
  match hwPlace pa with
  | some (d, off) =>
    if size != 8 || off % 8 != 0 then (0, s.badAccess d)
    else let (v, s) := s.readReg d off; (v.toNat, s)
  | none => ((Config.freeWord s.fresh).toNat % 2 ^ (8 * size), { s with fresh := s.fresh + 1 })

/-- A write of a device register: its events happen next. So the firmware loads a walker's routine store, at an address that R236 leaves open
(log entry 115). -/
def State.devWrite (s : State) (pa size v : Nat) : State :=
  match hwPlace pa with
  | some (d, off) =>
    if size != 8 || off % 8 != 0 then s.badAccess d
    else { s with inputs := s.inputs ++ regEvents d off (BitVec.ofNat 64 v) }
  | none => match Config.walkerStore pa with
    | some (d, off) =>
      if off + size > rvStoreBytes then s
      else s.modDie d fun x => { x with rv := some ((x.rv.getD Rv.boot).put off (leBytes size v)) }
    | none => s

end Sys2Proof.Machine
end

