-- ==== Sys2Proof/Machine/Access.lean ====
section
/-! DEFINITION. What the lanes of one access instruction do: effective addresses, the checks of Table 8-9, and the
performance of each lane's load, store or atomic (R225, R245, R246, R330 to R344). -/

namespace Sys2Proof.Machine

/-! ### The memory form (Table 4-7) -/

def View.ord (v : View) : Nat :=
  match v.b with
  | .mem o _ _ _ _ _ => o.toNat
  | _ => 0

/-- SCOPE as it acts: on scratchpad every scope wider than core acts as core (R233). -/
def View.scope (v : View) : Nat :=
  match v.b with
  | .mem _ s _ sp _ _ => if sp then min s.toNat 1 else s.toNat
  | _ => 0

def View.evict (v : View) : Nat :=
  match v.b with
  | .mem _ _ e _ _ _ => e.toNat
  | _ => 0

/-- Bytes of SIZE. -/
def View.bytes (v : View) : Nat :=
  match v.b with
  | .mem _ _ _ _ z _ => 2 ^ z.toNat
  | _ => 0

def View.off20 (v : View) : Nat :=
  match v.b with
  | .mem _ _ _ _ _ o => o.toNat
  | _ => 0

/-- OFFSET, sign-extended; 16 bits wide where bits [19:16] hold ATOP (R244). -/
def View.offset (v : View) : Int :=
  if v.cls == 9 && v.opn ≤ 1 then toSigned 16 v.off20 else toSigned 20 v.off20

def View.atop (v : View) : Nat := bits v.off20 19 16

/-- Effective address of a lane: a virtual address, or a signed window offset (R225). -/
def Env.ea (x : Env) (l : Nat) : Int :=
  if x.v.space then (x.a l 32 : Int) + x.v.offset
  else ((wrap 48 (((x.a l 64 % 2 ^ 48 : Nat) : Int) + x.v.offset) : Nat) : Int)

def Env.who (x : Env) : Who := ⟨x.t.die, x.t.core, x.tm.grp⟩

/-! ### Checks of Table 8-9, lane by lane -/

inductive ChkRes where
  | ok (p : Place)
  /-- the check that fails, and its trap -/
  | bad (check : Nat) (i : TrapInfo)
  /-- the lane waits (R241, R393) -/
  | hold (w : Wait)
  deriving DecidableEq, Repr, Inhabited

/-- What the checks of a lane's access come to: the cycles of its walk, the address that was translated, and whether the data was
reached (check 8 of the data, not of a table entry). -/
structure Chk where
  lane : Nat
  res  : ChkRes
  walk : Nat
  va   : Option Nat
  data : Bool
  deriving DecidableEq, Repr, Inhabited

def checkInfo (check detail : Nat) : TrapInfo := .simple (checkKind check) 0 detail

/-- Check 7 for a plain access (R344), against the records as they stood before the issue. -/
def Env.raceCheck (x : Env) (s0 : State) (l : Nat) (p : Place) (va size : Nat) (write : Bool) : Option TrapInfo :=
  let h := (x.tm.lane l).horizon
  ((s0.raceAt x.t.die p write).1.conflict (raceKey x.t l x.ctx) (secMask p.addr size) write h).map fun c =>
    ⟨0x0C, BitVec.ofNat 32 c.1, BitVec.ofNat 64 va, BitVec.ofNat 64 c.2.1, BitVec.ofNat 64 c.2.2, BitVec.ofNat 64 h⟩

/-- A page that an issue has looked up: an address in it with its translation, and the cycles of its walk. -/
structure Looked where
  va   : Nat
  res  : TRes
  walk : Nat
  deriving DecidableEq, Repr, Inhabited

/-- The page holds an address; one whose walk has failed is taken as 4 KiB (log entry 93). -/
def Looked.holds (p : Looked) (va : Nat) : Bool :=
  match p.res with
  | .ok _ base size _ => base ≤ va && va < base + size
  | .fail .. => va / 4096 == p.va / 4096

/-- The translation of another address of the page. -/
def Looked.at_ (p : Looked) (va : Nat) : TRes :=
  match p.res with
  | .ok pa base size perm => .ok (pa + va - p.va) base size perm
  | r => r

/-- Checks 4 to 6 of a global address by a lane: each distinct page is looked up once (R235); pipe addresses and the physical addresses
of the firmware have none. Answers the cycles of the page's walk. -/
def Env.look (x : Env) (va size need : Nat) (memo : List Looked) (s : State) :
    Except (Nat × Nat) Place × Nat × List Looked × State :=
  if s.isFw x.t || isPipeVa va then
    let (r, _, s) := s.locate x.t.die x.t.core x.tm.grp (s.isFw x.t) va size need
    (r, 0, memo, s)
  else match memo.find? (·.holds va) with
    | some p => (s.placeAt need va (p.at_ va), p.walk, memo, s)
    | none =>
      let (r, l, s) := s.translate x.t.die x.t.core x.ctx va need
      (s.placeAt need va r, l, memo ++ [⟨va, r, l⟩], s)

/-- Checks 2 to 8 of one lane's access (R246); `memo` holds the pages of the issue already looked up.
`need` is the permission, 1 read and 2 write; `plain` asks for check 7, `reads` for check 8. -/
def Env.check (x : Env) (s0 : State) (space : Bool) (size need : Nat) (plain reads : Bool) (l : Nat) (ea : Int)
    (memo : List Looked) (s : State) : Chk × List Looked × State :=
  let va := if space then wrap 64 ea else ea.toNat
  let res (r : ChkRes) (walk : Nat) (data : Bool := false) : Chk := ⟨l, r, walk, if space then none else some va, data⟩
  let after (p : Place) (walk : Nat) (s : State) : Chk :=
    match s.portDown p with
    | some dev => res (.hold (.port dev p.addr s.clock)) walk
    | none =>
      match (if plain then x.raceCheck s0 l p va size (need == 2) else none) with
      | some i => res (.bad 7 i) walk
      | none =>
        match p with
        | .mem pa => match (if reads then (sectorsOf pa size).find? fun a => s.sectorError a == some true else none) with
          | some a => res (.bad 8 (checkInfo 8 (max a pa))) walk true
          | none => res (.ok p) walk
        | _ => res (.ok p) walk
  if space then
    match s.window x.tm.grp ea size with
    | .error (c, d) => (res (.bad c (checkInfo c d)) 0, memo, s)
    | .ok p => (after p 0 s, memo, s)
  else
    if va % size != 0 then (res (.bad 2 (checkInfo 2 va)) 0, memo, s)
    else match x.look va size need memo s with
      | (.error (9, _), _, _, s) => (res (.hold (.walk va s.clock)) 0, memo, s)
      | (.error (c, d), walk, memo, s) => (res (.bad c (checkInfo c d)) walk, memo, s)
      | (.ok p, walk, memo, s) => (after p walk s, memo, s)

/-- The sectors whose data failed check 8: each is one event (R232). -/
def badData (cs : List Chk) : List Nat :=
  (cs.filterMap fun c => match c.res with
    | .bad 8 i => if c.data then some (i.d1.toNat / 32 * 32) else none
    | _ => none).dedup

/-- The checks of a list of lanes in turn, up to the first that fails where the access stops there (R249). Answers the cycles of page
spread too (R235, R242). -/
def Env.checks (x : Env) (space : Bool) (size need : Nat) (plain reads : Bool) (as : List (Nat × Int)) (s0 : State)
    (stops : Bool := false) : List Chk × Nat × State :=
  let (cs, memo, s) := as.foldl (fun (acc : List Chk × List Looked × State) a =>
    let ended : Bool := match acc.1.getLast? with
      | some ⟨_, .ok _, _, _, _⟩ | none => false
      | some _ => stops
    if ended then acc else
    let (c, memo, s) := x.check s0 space size need plain reads a.1 a.2 acc.2.1 acc.2.2
    (acc.1 ++ [c], memo, s)) ([], [], s0)
  (cs, memo.length - 1, (badData cs).foldl (fun s a => (s.meetError a).1) s)

def okPlaces (cs : List Chk) : List (Nat × Place) :=
  cs.filterMap fun c => match c.res with
    | .ok p => some (c.lane, p)
    | _ => none

/-- Passes beyond the first of a scratchpad access: the most distinct words of one bank (R228). -/
def scrPasses (ps : List Place) (size : Nat) : Nat :=
  let words := (ps.flatMap fun p => match p with
    | .scr a => (List.range ((size + 3) / 4)).map fun i => a / 4 + i
    | _ => []).dedup
  let most := (List.range 32).foldl (fun m b => max m (words.filter fun w => w % 32 == b).length) 0
  most - 1

/-! ### Sluice draws of one issue (R86) -/

/-- What a transfer between a die and a home draws of the die links: those of the die that it leaves, and of the die that it is rerouted
through (R90, log entry 94). -/
def State.linkDraws (s : State) (d h key : Nat) (write : Bool) : List (Nat × Nat × Nat) :=
  if h == d then [] else (2, if write then d else h, key) :: (match s.via d h with
    | some n => [(2, n, key)]
    | none => [])

/-- Sectors that an access draws from each resource, as (resource, die, sector). -/
def State.draws (s : State) (d : Nat) (p : Place) (write : Bool) : List (Nat × Nat × Nat) :=
  match p with
  | .mem pa =>
    match homeOf pa with
    | none => []
    | some h =>
      if h != d && !write && (findLine (s.die d).rdc (lineOf pa)).isSome then []
      else (0, h, sectorOf pa) :: ((if s.l2Has h pa then [] else [(1, h, sectorOf pa)]) ++ s.linkDraws d h (sectorOf pa) write)
  | .apt _ _ pa _ => [(3, d, sectorOf pa)]
  | .pipe r off =>
    match (s.pipe? r).bind (·.home) with
    | none => []
    | some h =>
      let k := 2 ^ 48 + (r.w * 2 ^ 32 + off) / 32
      (0, h, k) :: s.linkDraws d h k write
  | _ => []

/-- Draw on the buckets for the distinct sectors of an issue; where one is short, the lanes' access is delayed cycle by cycle. -/
def State.sluiceAll (s : State) (x : Env) (win : Bool) (ps : List (Nat × Place)) (write : Bool) : State :=
  if s.throttled then (s.sluice x.tm.grp false (.lanes x.t x.e x.pc s.clock win) (ps.flatMap fun p => s.draws x.t.die p.2 write)).2 else s

/-- Note the aperture accesses of an issue; `s0`: the state before it; `kept`: loads that the RDC may serve. -/
def State.noteFlight (s s0 : State) (x : Env) (kept win : Bool) (ps : List (Nat × Place)) (lats : List (Nat × Option Nat)) : State :=
  ps.foldl (fun s (l, p) =>
    s.noteOver s0 x.t.die p kept (s.clock + ((lats.find? (·.1 == l)).bind (·.2)).getD 0) (.lanes x.t (1#32 <<< l) x.pc s.clock win)) s

/-- Note by when the accesses of an issue are performed; `read`: they read (R239, R259, R360). -/
def State.noteAccess (s : State) (x : Env) (read : Bool) (cs : List Chk) (lats : List (Nat × Option Nat)) : State :=
  s.modLanes x.t (maskOf (lats.map (·.1))) fun l y =>
    let n := s.clock + ((lats.find? (·.1 == l)).bind (·.2)).getD 0
    { y with accs := (y.accs.filter fun a => s.clock < a.due) ++ [⟨x.pc, s.clock, n, read, (cs.find? (·.lane == l)).bind (·.va)⟩] }

/-! ### Performing one lane's access -/

/-- What a read does for the lane's order: an acquire raises the horizon by the releases it observes; any load remembers them for a
later fence (R335, R341). -/
def observe (rels : List Rel) (ord scope : Nat) (who : Who) (y : Lane) : Lane :=
  let y := { y with seen := y.seen ++ rels.filter fun r => !y.seen.contains r }
  if ord ≥ 2 then (rels.filter fun r => r.sees scope who).foldl (fun y r => y.acquire r.stamp) y else y

/-- Release records that a write of the lane leaves: a store with ORD of release, or after a release fence, is a release at its scope
and at those of the fences, and carries a stamp taken now (Table 11-1, R340). -/
def Env.newRels (x : Env) (l ord scope : Nat) (s : State) : List Rel × State :=
  let y := s.lane x.t l
  let scopes := ((if ord ≥ 2 then [scope] else []) ++ y.relF).dedup
  if scopes.isEmpty then ([], s) else
  let (r, s) := s.release x.t.die y.horizon
  (scopes.map fun c => ⟨r, c, x.who⟩, s)

/-- Stamp of a plain access (R342). -/
def Env.plainStamp (x : Env) (l : Nat) (s : State) : Nat := max (s.die x.t.die).c (s.lane x.t l).horizon + 1

/-- Leave the race record of a plain access. -/
def Env.leaveRace (x : Env) (s0 : State) (l : Nat) (p : Place) (size : Nat) (write : Bool) (s : State) : State :=
  if (s0.raceAt x.t.die p write).2 then
    s.raceUpd p fun r => r.update (raceKey x.t l x.ctx) (secMask p.addr size) write (x.plainStamp l s)
  else s

/-- The line of a place. -/
def Place.line (p : Place) : Nat × Nat := (p.key.1, p.key.2 / 128)

/-- What an issue has touched, its lanes being one access (R246): the latency of each line, the sectors that its home has served
to it, and what the errors of sectors have added (R232). -/
structure Touched where
  lines : List ((Nat × Nat) × Nat)
  secs  : List Nat
  errs  : List (Nat × Nat)
  deriving DecidableEq, Repr, Inhabited

def Touched.none : Touched := ⟨[], [], []⟩

/-- What a sector's corrected error adds to every lane that reads it, the error being met once. -/
def Touched.error (m : Touched) (p : Place) (s : State) : Nat × Touched × State :=
  match p with
  | .mem pa => match m.errs.find? (·.1 == sectorOf pa) with
    | some (_, e) => (e, m, s)
    | .none => let (s, e) := s.meetError pa; (e, { m with errs := (sectorOf pa, e) :: m.errs }, s)
  | _ => (0, m, s)

/-- The latency of a load, made once for each line. -/
def Touched.load (m : Touched) (d : Nat) (p : Place) (scope evict dl : Nat) (s : State) : Nat × Touched × State :=
  match m.lines.find? (·.1 == p.line) with
  | some (_, lat) => (lat, m, s)
  | .none => let (lat, s) := s.touchLoad d p scope evict dl; (lat, { m with lines := (p.line, lat) :: m.lines }, s)

/-- A store or atomic is served by its sector's home once for each sector (R240). -/
def Touched.heat (m : Touched) (d : Nat) (p : Place) (s : State) : Touched × State :=
  match p with
  | .mem pa => if m.secs.contains (sectorOf pa) then (m, s) else ({ m with secs := sectorOf pa :: m.secs }, s.heatStore d pa)
  | _ => (m, s)

/-- The latency of a store or atomic, made once for each line. -/
def Touched.store (m : Touched) (d : Nat) (p : Place) (evict dl : Nat) (s : State) : Nat × Touched × State :=
  let (m, s) := m.heat d p s
  match m.lines.find? (·.1 == p.line) with
  | some (_, lat) => (lat, m, s)
  | .none => let (lat, s) := s.touchStore d p evict dl; (lat, { m with lines := (p.line, lat) :: m.lines }, s)

/-- What the write of a line adds to the accesses of the issue to it (R230 rule 3). -/
def Touched.add (m : Touched) (p : Place) (n : Nat) : Touched :=
  { m with lines := updIf m.lines (·.1 == p.line) fun e => (e.1, e.2 + n) }

/-- Write a lane's bytes at a place: what that adds to the latency, lines touched, state. -/
def Env.putAt (x : Env) (p : Place) (size v : Nat) (m : Touched) (s : State) : Nat × Touched × State :=
  match p with
  | .dev pa => (0, m, s.devWrite pa size v)
  | _ => let (n, s) := s.placePut x.t.die p (leBytes size v); (n, m.add p n, s)

/-- Perform one lane's load, made once its walk of `dl` cycles has ended: latency, value, lines touched, state. `s0` is the state before
the issue, in which an RDC hit is one (R344). -/
def Env.load (x : Env) (l : Nat) (p : Place) (size ord scope evict : Nat) (plain : Bool) (dl : Nat) (m : Touched) (s0 s : State) :
    Nat × Nat × Touched × State :=
  let s := s.acquireDrop x.t.die ord scope
  let (lat, m, s) := m.load x.t.die p scope evict dl s
  let (e, m, s) := m.error p s
  let (v, s) := match p with
    | .dev pa => s.devRead pa size
    | _ => let (bs, s) := s.loadBytes x.t.die p scope size; (leVal bs, s)
  let s := s.modLane x.t l (observe (s.relsAt p size) ord scope x.who)
  (lat + e, v, m, if plain then x.leaveRace s0 l p size false s else s)

/-- Perform one lane's store: its latency, lines touched, state. -/
def Env.store (x : Env) (l : Nat) (p : Place) (size ord scope evict : Nat) (plain : Bool) (v dl : Nat) (m : Touched)
    (s0 : State) : Nat × Touched × State :=
  let (lat, m, s) := m.store x.t.die p evict dl s0
  let (n, m, s) := x.putAt p size v m s
  let s := if plain then x.leaveRace s0 l p size true s else s
  let (rels, s) := x.newRels l ord scope s
  (lat + n, m, s.writeRels p size false rels)

/-- Perform one lane's atomic: latency, old value, lines touched, state. `f` gives the new value, or none to write
nothing. -/
def Env.atomic (x : Env) (l : Nat) (p : Place) (size ord scope evict : Nat) (f : Nat → Option Nat) (dl : Nat)
    (m : Touched) (s : State) : Nat × Nat × Touched × State :=
  let s := s.acquireDrop x.t.die ord scope
  let (lat, m, s) := m.store x.t.die p evict dl s
  let (e, m, s) := m.error p s
  let (old, s) := match p with
    | .dev pa => s.devRead pa size
    | _ => let (bs, s) := s.placeBytes p size; (leVal bs, s)
  let s := s.modLane x.t l (observe (s.relsAt p size) ord scope x.who)
  match f old with
  | none => (lat + e, old, m, s)
  | some v =>
    let (n, m, s) := x.putAt p size v m s
    let (rels, s) := x.newRels l ord scope s
    (lat + e + n, old, m, s.writeRels p size true rels)

/-- The value of a load as the register receives it (R245). -/
def extendVal (t : Ty) (v : Nat) : Nat := if t.signed then wrap (max 32 t.width) (toSigned t.width v) else v

/-- Lanes that fail their checks trap; lanes that are held wait. -/
def chkFates (cs : List Chk) : List (Nat × Fate) :=
  cs.filterMap fun c => match c.res with
    | .ok _ => none
    | .bad _ i => some (c.lane, .trap i)
    | .hold _ => some (c.lane, .stay)

def State.holdLanes (s : State) (t : TeamRef) (cs : List Chk) : State :=
  cs.foldl (fun s c => match c.res with
    | .hold w => s.waitLanes t (1#32 <<< c.lane) w
    | _ => s) s

def walkOf (cs : List Chk) (l : Nat) : Nat :=
  match cs.find? (·.lane == l) with
  | some c => c.walk
  | none => 0

end Sys2Proof.Machine
end

