-- ==== Sys2Proof/Machine/Numbers.lean ====
section
/-! DEFINITION. Floating-point formats, exact values, rounding, and the functions of chapter 07 on bit patterns
(R191 to R221). -/

namespace Sys2Proof.Machine

/-! ### Formats (Table 7-1) -/

/-- A format: width, precision, exponent of the smallest subnormal. -/
structure Fmt where
  width : Nat
  p     : Nat
  qmin  : Int
  deriving DecidableEq, Repr, Inhabited

def f32F : Fmt := ⟨32, 24, -149⟩
def bf16F : Fmt := ⟨16, 8, -133⟩
def f16F : Fmt := ⟨16, 11, -24⟩

def Fmt.inf (f : Fmt) : Nat := (2 ^ (f.width - f.p) - 1) * 2 ^ (f.p - 1)
def Fmt.nan (f : Fmt) : Nat := f.inf + 2 ^ (f.p - 2)
def Fmt.signBit (f : Fmt) : Nat := 2 ^ (f.width - 1)
def Fmt.signed (f : Fmt) (neg : Bool) (mag : Nat) : Nat := if neg then f.signBit + mag else mag

/-- An exact value: not a number, an infinity, or (-1)^neg * m * 2^e with the sign of a zero kept. -/
inductive Fl where
  | nan
  | inf (neg : Bool)
  | fin (neg : Bool) (m : Nat) (e : Int)
  deriving DecidableEq, Repr, Inhabited

/-- The value of a pattern; a subnormal reads as zero where FTZ is set (R196). -/
def Fmt.read (f : Fmt) (ftz : Bool) (v : Nat) : Fl :=
  let neg := v.testBit (f.width - 1)
  let mag := v % f.signBit
  let ex := mag / 2 ^ (f.p - 1)
  let fr := mag % 2 ^ (f.p - 1)
  if mag > f.inf then .nan
  else if mag = f.inf then .inf neg
  else if ex = 0 then .fin neg (if ftz then 0 else fr) f.qmin
  else .fin neg (2 ^ (f.p - 1) + fr) (f.qmin + ex - 1)

/-! ### Rounding (R195) -/

/-- Whether the kept part grows by one: `r` of `2^sh` is dropped, and more where `sticky`. -/
def roundsUp (rm : Nat) (neg odd : Bool) (r sh : Nat) (sticky : Bool) : Bool :=
  let half := 2 ^ sh / 2
  let some_ := r != 0 || sticky
  match rm with
  | 0 => r > half || (r == half && (sticky || odd)) && sh != 0
  | 1 => false
  | 2 => some_ && neg
  | 3 => some_ && !neg
  | _ => r ≥ half && sh != 0

/-- (m + something below 1 where sticky) / 2^sh rounded to an integer. -/
def roundShift (rm : Nat) (neg : Bool) (m sh : Nat) (sticky : Bool) : Nat :=
  let k := m / 2 ^ sh
  if roundsUp rm neg (k % 2 == 1) (m % 2 ^ sh) sh sticky then k + 1 else k

/-- The magnitude pattern nearest under `rm` to m * 2^e; `sticky` says that the exact value is a little above it, and then
m has more bits than the format. -/
def Fmt.roundMag (f : Fmt) (rm : Nat) (neg : Bool) (m : Nat) (e : Int) (sticky : Bool) : Nat :=
  if m = 0 then 0 else
  let top : Int := e + (Nat.log2 m + 1 : Nat)
  let q := max (top - f.p) f.qmin
  let k := if q ≤ e then m * 2 ^ (e - q).toNat else roundShift rm neg m (q - e).toNat sticky
  let mag := if k < 2 ^ (f.p - 1) then k else (q - f.qmin).toNat * 2 ^ (f.p - 1) + k
  if mag ≥ f.inf then
    let big := match rm with
      | 1 => true
      | 2 => !neg
      | 3 => neg
      | _ => false
    if big then f.inf - 1 else f.inf
  else mag

/-- Flush a subnormal result (R196). -/
def Fmt.flush (f : Fmt) (ftz : Bool) (mag : Nat) : Nat := if ftz && mag < 2 ^ (f.p - 1) then 0 else mag

/-- Round(x, RM) with its sign, flushed. -/
def Fmt.roundFin (f : Fmt) (rm : Nat) (ftz neg : Bool) (m : Nat) (e : Int) (sticky : Bool := false) : Nat :=
  f.signed neg (f.flush ftz (f.roundMag rm neg m e sticky))

def Fmt.write (f : Fmt) (rm : Nat) (ftz : Bool) (x : Fl) : Nat :=
  match x with
  | .nan => f.nan
  | .inf n => f.signed n f.inf
  | .fin n m e => f.roundFin rm ftz n m e

/-- SAT of class 7: an infinite result becomes the largest finite value (R216). -/
def Fmt.sat (f : Fmt) (on : Bool) (v : Nat) : Nat := if on && v % f.signBit == f.inf then v - 1 else v

/-! ### Exact arithmetic -/

/-- An integer as a value. -/
def Fl.ofInt (x : Int) : Fl := .fin (x < 0) x.natAbs 0

def Fl.isNeg : Fl → Bool
  | .nan => false
  | .inf n => n
  | .fin n _ _ => n

def Fl.neg : Fl → Fl
  | .nan => .nan
  | .inf n => .inf (!n)
  | .fin n m e => .fin (!n) m e

def Fl.isZero : Fl → Bool
  | .fin _ 0 _ => true
  | _ => false

def Fl.mul (x y : Fl) : Fl :=
  match x, y with
  | .nan, _ | _, .nan => .nan
  | .inf a, .inf b => .inf (xor a b)
  | .inf a, .fin b m _ | .fin b m _, .inf a => if m = 0 then .nan else .inf (xor a b)
  | .fin a m e, .fin b n f => .fin (xor a b) (m * n) (e + f)

/-- The signed integer n with value n * 2^q, for q at or below the exponent. -/
def Fl.scaled (q : Int) : Fl → Int
  | .fin n m e => (if n then -1 else 1) * ((m * 2 ^ (e - q).toNat : Nat) : Int)
  | _ => 0

def Fl.exp : Fl → Int
  | .fin _ _ e => e
  | _ => 0

/-- The exact sum of terms, as IEEE 754-2019 and R214 give it; a zero sum is −0 where every term is −0, or in rdn unless
every term is +0 (R197). -/
def flSum (rm : Nat) (ts : List Fl) : Fl :=
  if ts.contains .nan then .nan
  else
    let p := ts.contains (.inf false)
    let n := ts.contains (.inf true)
    if p && n then .nan else if p then .inf false else if n then .inf true else
    let q := ts.foldl (fun q t => min q t.exp) 0
    let x := (ts.map (Fl.scaled q)).sum
    if x = 0 then
      let minus := ts.all fun t => t.isZero && t.isNeg
      let plus := ts.all fun t => t.isZero && !t.isNeg
      .fin (minus || (rm == 2 && !plus)) 0 0
    else .fin (x < 0) x.natAbs q

/-- Sum of products and terms, rounded once. -/
def Fmt.sum (f : Fmt) (rm : Nat) (ftz : Bool) (ts : List Fl) : Nat := f.write rm ftz (flSum rm ts)

/-- a / b rounded once (R206). -/
def Fmt.div (f : Fmt) (rm : Nat) (ftz : Bool) (x y : Fl) : Nat :=
  match x, y with
  | .nan, _ | _, .nan => f.nan
  | .inf _, .inf _ => f.nan
  | .inf a, .fin b _ _ => f.signed (xor a b) f.inf
  | .fin a _ _, .inf b => f.signed (xor a b) 0
  | .fin a m e, .fin b n g =>
    if n = 0 then (if m = 0 then f.nan else f.signed (xor a b) f.inf)
    else f.roundFin rm ftz (xor a b) (m * 2 ^ 64 / n) (e - g - 64) (m * 2 ^ 64 % n != 0)

/-- The integer square root, bit by bit from bit `n`. -/
def isqrt (n x : Nat) : Nat :=
  (List.range (n + 1)).foldl (fun r i =>
    let t := r + 2 ^ (n - i)
    if t * t ≤ x then t else r) 0

/-- The integer root and exponent of the square root of m * 2^e, with whether it is inexact. -/
def sqrtParts (m : Nat) (e : Int) : Nat × Int × Bool :=
  let sh : Nat := if e % 2 = 0 then 80 else 81
  let x : Nat := m * 2 ^ sh
  let r := isqrt 66 x
  (r, (e - sh) / 2, r * r != x)

def Fmt.sqrt (f : Fmt) (rm : Nat) (ftz : Bool) (x : Fl) : Nat :=
  match x with
  | .nan => f.nan
  | .inf n => if n then f.nan else f.inf
  | .fin n m e =>
    if m = 0 then f.signed n 0
    else if n then f.nan
    else
      let (r, q, s) := sqrtParts m e
      f.roundFin rm ftz false r q s

/-! ### Order -/

/-- The order of two values that are not NaN, −0 equal to +0: less, equal, greater. -/
def Fl.cmp (x y : Fl) : Ordering :=
  let big (z : Fl) : Int := match z with
    | .inf n => if n then -1 else 1
    | _ => 0
  if big x != 0 || big y != 0 then compare (big x) (big y)
  else
    let q := min x.exp y.exp
    compare (x.scaled q) (y.scaled q)

/-- The conditions of Table 6-7. -/
def fltCond (cond : Nat) (x y : Fl) : Bool :=
  let un := x == .nan || y == .nan
  let rel (c : Nat) : Bool := match c, x.cmp y with
    | 0, .eq => true
    | 1, .lt | 1, .gt => true
    | 2, .lt => true
    | 3, .lt | 3, .eq => true
    | 4, .gt => true
    | 5, .gt | 5, .eq => true
    | _, _ => false
  if cond ≤ 5 then !un && rel cond
  else if cond = 6 then !un
  else if cond = 7 then un
  else un || rel (cond - 8)

/-- A source pattern with its subnormal flushed. -/
def Fmt.flushBits (f : Fmt) (ftz : Bool) (v : Nat) : Nat :=
  f.signed (v.testBit (f.width - 1)) (f.flush ftz (v % f.signBit))

/-- fmin and fmax on patterns (R207): one source, as it stands after FTZ. -/
def Fmt.minMax (f : Fmt) (ftz isMax : Bool) (a b : Nat) : Nat :=
  let x := f.flushBits ftz a
  let y := f.flushBits ftz b
  match f.read false x, f.read false y with
  | .nan, .nan => f.nan
  | .nan, _ => y
  | _, .nan => x
  | fx, fy =>
    let less := match fx.cmp fy with
      | .lt => true
      | .gt => false
      | .eq => fx.isNeg && !fy.isNeg
    if xor less isMax then x else y

/-! ### Integral values -/

/-- The magnitude of m * 2^e rounded to an integer. -/
def roundInt (rm : Nat) (neg : Bool) (m : Nat) (e : Int) (sticky : Bool := false) : Nat :=
  if e ≥ 0 then m * 2 ^ e.toNat else roundShift rm neg m (-e).toNat sticky

/-- Bits of fclass (Table 7-5). -/
def classOf (v : Nat) : Nat :=
  let mag := v % 2 ^ 31
  let neg := v.testBit 31
  if mag > f32F.inf then (if v.testBit 22 then 2 else 1)
  else if mag = f32F.inf then (if neg then 4 else 2 ^ 9)
  else if mag = 0 then (if neg then 2 ^ 5 else 2 ^ 6)
  else if mag < 2 ^ 23 then (if neg then 2 ^ 4 else 2 ^ 7)
  else if neg then 2 ^ 3 else 2 ^ 8

/-- frnd (R211). -/
def rndVal (rm : Nat) (ftz : Bool) (v : Nat) : Nat :=
  match f32F.read ftz v with
  | .nan => f32F.nan
  | .inf n => f32F.signed n f32F.inf
  | .fin n m e => f32F.roundFin 0 false n (roundInt rm n m e) 0

/-- fscale (R210); shifts beyond 1000 round as 1000 does. -/
def scaleVal (rm : Nat) (ftz : Bool) (v : Nat) (n : Int) : Nat :=
  match f32F.read ftz v with
  | .nan => f32F.nan
  | .inf s => f32F.signed s f32F.inf
  | .fin s m e => f32F.roundFin rm ftz s m (e + sat n (-1000) 1000)

/-! ### Approximate functions (R208, Table 7-4): fixed point with 128 fraction bits, and the error bound -/

def one128 : Nat := 2 ^ 128
def pi256 : Nat := 363771576891766324280234942777729862653393377328392429958772151117938894466185
def ln2At128 : Nat := 235865763225513294137944142764154484399
def log2e128 : Nat := 490923683258796565746369346286093237521
def mul128 (a b : Nat) : Nat := a * b / one128

/-- exp(x) for x below 1, x with 128 fraction bits. -/
def exp128 (x : Nat) : Nat :=
  ((List.range 40).foldl (fun (st : Nat × Nat) i => (st.1 + st.2, mul128 st.2 x / (i + 1))) (0, one128)).1

/-- 2^(n/2^128) for n below 2^128. -/
def exp2Frac (n : Nat) : Nat := exp128 (mul128 n ln2At128)

/-- log2 of m in [1, 2), 128 fraction bits, by squaring. -/
def log2Frac (m : Nat) : Nat :=
  ((List.range 100).foldl (fun (st : Nat × Nat) i =>
    let y := mul128 st.2 st.2
    if y ≥ 2 * one128 then (st.1 + 2 ^ (127 - i), y / 2) else (st.1, y)) (0, m)).1

/-- sin of x in [0, pi/2] with 256 fraction bits. -/
def sin256 (x : Nat) : Nat :=
  let t := (List.range 36).foldl (fun (st : Int × Nat) i =>
    (st.1 + (if i % 2 = 0 then (st.2 : Int) else -(st.2 : Int)), st.2 * x / 2 ^ 256 * x / 2 ^ 256 / ((2 * i + 2) * (2 * i + 3)))) ((0 : Int), x)
  t.1.toNat

/-- Order of f32 patterns as integers. -/
def ordOf (v : Nat) : Int := if v.testBit 31 then -((v % 2 ^ 31 : Nat) : Int) else v
def ofOrd (x : Int) : Nat := if x < 0 then 2 ^ 31 + x.natAbs else x.toNat

/-- One finite f32 from lo to hi, in units of 2^e, by the offset. -/
def between (lo hi e : Int) (off : Nat) : Int :=
  let end_ (y : Int) (rm : Nat) : Int := ordOf (f32F.roundFin rm false (y < 0) y.natAbs e)
  let a := end_ lo 3
  a + ((off % ((min (end_ hi 2) (f32F.inf - 1) - a).toNat + 1) : Nat) : Int)

/-- Result of a function with a bound of `b` units of the last place about ±m * 2^e, where the exact magnitude lies from m to m + 1 of these
units and below the overflow threshold. A unit of the last place is the distance of neighbouring f32 in the binade of the exact value. -/
def ulpResult (n : Bool) (b : Nat) (m : Nat) (e : Int) (off : Nat) : Nat :=
  let q := max (e + (Nat.log2 m + 1 : Nat) - f32F.p) f32F.qmin
  let d : Int := (b * 2 ^ (q - e).toNat : Nat)
  let x := between (m + 1 - d) (m + d) e off
  f32F.signed (n != (x < 0 : Bool)) x.natAbs

/-- Result of a function with an absolute bound of 2^-22, about x of k fraction bits, which is within g units of the exact value. -/
def absResult (k : Nat) (x g : Int) (off : Nat) : Nat :=
  ofOrd (between (x - (2 ^ (k - 22) : Nat) + g) (x + (2 ^ (k - 22) : Nat) - g) (-k) off)

/-- A value reduced to turns in [0, 1), with 160 fraction bits. -/
def turns (n : Bool) (m : Nat) (e : Int) : Nat :=
  let x := m * 2 ^ (e + 160).toNat % 2 ^ 160
  if n then (2 ^ 160 - x) % 2 ^ 160 else x

/-- sin(2 pi r) for r turns of 160 fraction bits, with 256 fraction bits. -/
def sinTurns (r : Nat) : Int :=
  let q := r / 2 ^ 158
  let f := r % 2 ^ 158
  let g := if q % 2 = 0 then f else 2 ^ 158 - f
  let v : Int := sin256 (pi256 * g / 2 ^ 159)
  if q ≥ 2 then -v else v

/-- sin or cos of a finite value in turns. -/
def turnFn (cosine n : Bool) (m : Nat) (e : Int) (off : Nat) : Nat :=
  let r := turns n m e
  let r := if cosine then (r + 2 ^ 158) % 2 ^ 160 else r
  if r % 2 ^ 158 = 0 then
    match r / 2 ^ 158 with
    | 1 => 0x3F800000
    | 3 => 0xBF800000
    | _ => 0
  else absResult 256 (sinTurns r) (2 ^ 16) off

/-- The function numbers are those of Table 7-3: 6 frcp, 7 frsq, 10 fex2, 11 flg2, 12 fsin, 13 fcos, 14 ftanh. -/
def approxFin (fn : Nat) (n : Bool) (m : Nat) (e : Int) (off aoff : Nat) : Nat :=
  let pow2 := m != 0 && m == 2 ^ Nat.log2 m
  let x := Nat.log2 m + e
  match fn with
  | 6 =>
    if m = 0 then f32F.signed n f32F.inf
    else if pow2 then f32F.signed n (f32F.roundMag 0 n 1 (-x) false)
    else
      let q := 2 ^ 128 / m
      let near := f32F.roundMag 0 false q (-e - 128) true
      if near ≥ f32F.inf then f32F.signed n f32F.inf else ulpResult n 1 q (-e - 128) off
  | 7 =>
    if m = 0 then f32F.signed n f32F.inf
    else if n then f32F.nan
    else if pow2 && x % 2 = 0 then f32F.roundMag 0 false 1 (-x / 2) false
    else
      let sh : Nat := if e % 2 = 0 then 160 else 161
      ulpResult false 2 (isqrt 100 (2 ^ sh / m)) ((-e - sh) / 2) off
  | 10 =>
    if m = 0 then 0x3F800000
    else
      let s : Int := (if n then -1 else 1) * ((m * 2 ^ (min e 20 + 200).toNat : Nat) : Int)
      let i := s / (2 ^ 200 : Nat)
      let f := (s % ((2 ^ 200 : Nat) : Int)).toNat
      if i ≥ 128 then f32F.inf
      else if i < -150 then 0
      else if f = 0 && i ≥ -149 then f32F.roundMag 0 false 1 i false
      else ulpResult false 2 (exp2Frac (f / 2 ^ 72)) (i - 128) off
  | 11 =>
    if m = 0 then f32F.signed true f32F.inf
    else if n then f32F.nan
    else if pow2 then f32F.write 0 false (Fl.ofInt x)
    else
      let v : Int := x * (one128 : Int) + log2Frac (m * 2 ^ (128 - Nat.log2 m))
      if x = 0 || x = -1 then absResult 128 v (2 ^ 30) aoff
      else ulpResult (v < 0) 2 v.natAbs (-128) off
  | 12 => if m = 0 then f32F.signed n 0 else turnFn false n m e aoff
  | 13 => turnFn true n m e aoff
  | _ =>
    if m = 0 then f32F.signed n 0
    else if m * 2 ^ (e + 160).toNat ≥ 9 * 2 ^ 160 then f32F.signed n 0x3F800000
    else if x < -12 then
      let y := m * 2 ^ 80
      ulpResult n 2 (y - (m * m * m * 2 ^ 80) / (3 * 2 ^ (-2 * e).toNat) - 1) (e - 80) off
    else
      let t := mul128 (m * 2 ^ (e + 129).toNat) log2e128
      let z := one128 * one128 / (exp2Frac (t % one128) * 2 ^ (t / one128))
      ulpResult n 2 ((one128 - z) * one128 / (one128 + z)) (-128) off

/-- An approximate function on a pattern, after MOD: exact where Table 7-4 says so, else within its bound (log entry 12). -/
def approxVal (fn : Nat) (ftz : Bool) (v : Nat) : Nat :=
  let off := Config.approxUlp fn ftz (BitVec.ofNat 32 v)
  let aoff := Config.approxAbs fn ftz (BitVec.ofNat 32 v)
  let r := match f32F.read ftz v with
    | .nan => f32F.nan
    | .inf n => match fn with
      | 6 => f32F.signed n 0
      | 7 | 11 => if n then f32F.nan else (if fn == 7 then 0 else f32F.inf)
      | 10 => if n then 0 else f32F.inf
      | 12 | 13 => f32F.nan
      | _ => f32F.signed n 0x3F800000
    | .fin n m e => approxFin fn n m e off aoff
  f32F.flushBits ftz r

end Sys2Proof.Machine
end

