-- ==== Sys2Proof/Machine/Compare.lean ====
section
/-! DEFINITION. Class 3: compare and predicate instructions (R176 to R180). -/

namespace Sys2Proof.Machine

/-- The fields of a compare option (Table 6-6). -/
def View.cond (v : View) : Nat := bits v.opt 13 10
def View.optCm (v : View) : Nat := bits v.opt 9 8

/-- Compare under the type's signedness. -/
def cmpInt (x : Env) (l : Nat) : Bool :=
  let t := cmpTy x.v.opt
  intCond x.v.cond (t.val (x.a l t.width)) (t.val (x.b l t.width))

/-- Write the pair named by the operation with one result for each lane (R135). -/
def pairOp (v : View) (cm : Nat) (f : Env → Nat → Bool) (s : State) : Host.Outcome State Fault Refusal :=
  issueWord v (fun x s => .ok (x.putPair s (v.pe.getD 7) cm (f x)) v.latency) s

def execIcmp (h : Hdr) (o : RegForm) (s : State) : Host.Outcome State Fault Refusal :=
  pairOp (o.view 3 0 h) (o.view 3 0 h).optCm cmpInt s

def fmtOf (t : Ty) : Fmt := if t == .f16 then f16F else if t == .bf16 then bf16F else f32F

/-- A floating-point source of a compare: a short immediate is converted to the type in rne (R177). -/
def cmpSrc (x : Env) (l : Nat) (o : Opd) : Fl :=
  let f := fmtOf (cmpTy x.v.opt)
  match o with
  | .i v => f.read false (f.write 0 false (Fl.ofInt v.toInt))
  | _ => f.read (x.v.opt.testBit 3) (x.src l o 32 % 2 ^ f.width)

def cmpFlt (x : Env) (l : Nat) : Bool := fltCond x.v.cond (cmpSrc x l x.v.a) (cmpSrc x l x.v.bOpd)

def execFcmp (h : Hdr) (o : RegForm) (s : State) : Host.Outcome State Fault Refusal :=
  pairOp (o.view 3 1 h) (o.view 3 1 h).optCm cmpFlt s

/-- R178. -/
def psetVal (im : Nat) (y : Lane) : Bool :=
  ttBit (im % 256) (y.rp (bits im 10 8)) (y.rp (bits im 13 11)) (y.rp (bits im 16 14))

def execPset (h : Hdr) (o : ImmForm) (s : State) : Host.Outcome State Fault Refusal :=
  pairOp (o.view 3 2 h) (bits o.imm.toNat 21 20) (fun x l => psetVal o.imm.toNat (x.tm.lane l)) s

def p2gVal (y : Lane) : Nat := ((List.range 8).map fun i => (y.rp i).toNat * 2 ^ i).sum

def execP2g (h : Hdr) (o : RegForm) (s : State) : Host.Outcome State Fault Refusal :=
  issueWord (o.view 3 3 h) (fun x s => .ok (x.put s 1 fun l => p2gVal (x.tm.lane l)) x.v.latency) s

/-- Write the predicates of a mask (R179). -/
def g2pLane (a m : Nat) (y : Lane) : Lane :=
  (List.range 7).foldl (fun y i => if m.testBit i then y.wp i (a.testBit i) else y) y

def execG2p (h : Hdr) (o : RegForm) (s : State) : Host.Outcome State Fault Refusal :=
  issueWord (o.view 3 4 h) (fun x s =>
    let s := s.live x.t ((List.range 7).filter fun i => x.lanes.any fun l => (x.b l 32).testBit i)
    .ok (s.modLanes x.t x.e fun l y => g2pLane (x.a l 32) (x.b l 32) y) x.v.latency) s

/-- Lanes of E whose predicate source is true. -/
def Env.trueLanes (x : Env) : Lanes := pick x.e fun l => x.a l 1 == 1

def execBallot (h : Hdr) (o : RegForm) (s : State) : Host.Outcome State Fault Refusal :=
  issueWord (o.view 3 5 h) (fun x s => .ok (x.putLaneOrK s 1 x.v.latency fun _ => x.trueLanes.toNat) x.v.latency) s

/-- The modes of `vote` (R180). -/
def voteVal (mode n m : Nat) : Bool :=
  match mode with
  | 0 => n == m
  | 1 => n ≥ 1
  | 2 => n == 0 || n == m
  | _ => 2 * n > m

def execVote (h : Hdr) (o : ImmForm) (s : State) : Host.Outcome State Fault Refusal :=
  pairOp (o.view 3 6 h) (bits o.imm.toNat 6 5)
    (fun x _ => voteVal (bits o.imm.toNat 1 0) (lanesOf x.trueLanes).length x.lanes.length) s

end Sys2Proof.Machine
end

