-- ==== Sys2Proof/Machine/Integer.lean ====
section
/-! DEFINITION. Class 1: integer and address instructions (R165 to R170). -/

namespace Sys2Proof.Machine

/-- An instruction that writes each lane's result, of the operation's type, to D. -/
def laneOp (v : View) (f : Env → Nat → Nat) (s : State) : Host.Outcome State Fault Refusal :=
  issueWord v (fun x s => .ok (x.put s v.ty.regs (f x)) v.latency) s

/-- An exact result wrapped, or saturated where SAT is set (R165). -/
def narrow (t : Ty) (sat_ : Bool) (x : Int) : Nat := wrap t.width (if sat_ then sat x t.min t.max else x)

def View.satBit (v : View) : Bool := v.opt.testBit 0

def execIadd (h : Hdr) (o : RegForm) (s : State) : Host.Outcome State Fault Refusal :=
  laneOp (o.view 1 0 h) (fun x l => narrow x.ty x.v.satBit (x.intSrc l x.v.a x.ty + x.intSrc l x.v.bOpd x.ty)) s

def execIsub (h : Hdr) (o : RegForm) (s : State) : Host.Outcome State Fault Refusal :=
  laneOp (o.view 1 1 h) (fun x l => narrow x.ty x.v.satBit (x.intSrc l x.v.a x.ty - x.intSrc l x.v.bOpd x.ty)) s

def execImul (h : Hdr) (o : RegForm) (s : State) : Host.Outcome State Fault Refusal :=
  laneOp (o.view 1 2 h) (fun x l => wrap x.ty.width (x.intSrc l x.v.a x.ty * x.intSrc l x.v.bOpd x.ty)) s

/-- The upper half of the product (R166). -/
def mulHigh (t : Ty) (a b : Int) : Nat := wrap t.width (a * b / (2 ^ t.width : Nat))

def execImulhi (h : Hdr) (o : RegForm) (s : State) : Host.Outcome State Fault Refusal :=
  laneOp (o.view 1 3 h) (fun x l => mulHigh x.ty (x.intSrc l x.v.a x.ty) (x.intSrc l x.v.bOpd x.ty)) s

def execImad (h : Hdr) (o : RegForm) (s : State) : Host.Outcome State Fault Refusal :=
  laneOp (o.view 1 4 h) (fun x l => wrap x.ty.width
    (x.intSrc l x.v.a x.ty * x.intSrc l x.v.bOpd x.ty + x.intSrc l x.v.cOpd x.ty)) s

/-- The 32-bit type of the narrow sources of `imadw`. -/
def half32 (t : Ty) : Ty := if t.signed then .s32 else .n32

def execImadw (h : Hdr) (o : RegForm) (s : State) : Host.Outcome State Fault Refusal :=
  laneOp (o.view 1 5 h) (fun x l => wrap 64
    ((half32 x.ty).val (x.a l 32) * (half32 x.ty).val (x.b l 32) + x.ty.val (x.c l 64))) s

/-- Quotient and remainder (R167). -/
def divRem (t : Ty) (a b : Int) : Nat × Nat :=
  if b = 0 then (2 ^ t.width - 1, wrap t.width a)
  else if t.signed && a == t.min && b == -1 then (wrap t.width t.min, 0)
  else (wrap t.width (truncDiv a b), wrap t.width (a - truncDiv a b * b))

def execIdiv (h : Hdr) (o : RegForm) (s : State) : Host.Outcome State Fault Refusal :=
  laneOp (o.view 1 6 h) (fun x l => (divRem x.ty (x.intSrc l x.v.a x.ty) (x.intSrc l x.v.bOpd x.ty)).1) s

def execIrem (h : Hdr) (o : RegForm) (s : State) : Host.Outcome State Fault Refusal :=
  laneOp (o.view 1 7 h) (fun x l => (divRem x.ty (x.intSrc l x.v.a x.ty) (x.intSrc l x.v.bOpd x.ty)).2) s

def execIneg (h : Hdr) (o : RegForm) (s : State) : Host.Outcome State Fault Refusal :=
  laneOp (o.view 1 8 h) (fun x l => narrow x.ty x.v.satBit (0 - x.intSrc l x.v.a x.ty)) s

def execIabs (h : Hdr) (o : RegForm) (s : State) : Host.Outcome State Fault Refusal :=
  laneOp (o.view 1 9 h) (fun x l => narrow x.ty x.v.satBit ((x.intSrc l x.v.a x.ty).natAbs : Int)) s

def execImin (h : Hdr) (o : RegForm) (s : State) : Host.Outcome State Fault Refusal :=
  laneOp (o.view 1 10 h) (fun x l => wrap x.ty.width (min (x.intSrc l x.v.a x.ty) (x.intSrc l x.v.bOpd x.ty))) s

def execImax (h : Hdr) (o : RegForm) (s : State) : Host.Outcome State Fault Refusal :=
  laneOp (o.view 1 11 h) (fun x l => wrap x.ty.width (max (x.intSrc l x.v.a x.ty) (x.intSrc l x.v.bOpd x.ty))) s

/-- min(max(A, lo), hi), with B the lower and C the upper bound (R168). -/
def execIclamp (h : Hdr) (o : RegForm) (s : State) : Host.Outcome State Fault Refusal :=
  laneOp (o.view 1 12 h) (fun x l => wrap x.ty.width
    (min (max (x.intSrc l x.v.a x.ty) (x.intSrc l x.v.bOpd x.ty)) (x.intSrc l x.v.cOpd x.ty))) s

def execIsad (h : Hdr) (o : RegForm) (s : State) : Host.Outcome State Fault Refusal :=
  laneOp (o.view 1 13 h) (fun x l => wrap x.ty.width
    (((x.intSrc l x.v.a x.ty - x.intSrc l x.v.bOpd x.ty).natAbs : Int) + x.intSrc l x.v.cOpd x.ty)) s

/-- (A[47:0] + (sext64(B) << sh)) mod 2^48 (R169). -/
def leaVal (a b sh : Nat) : Nat := wrap 48 (((a % 2 ^ 48 : Nat) : Int) + toSigned 32 b * (2 ^ sh : Nat))

def execAadd (h : Hdr) (o : RegForm) (s : State) : Host.Outcome State Fault Refusal :=
  laneOp (o.view 1 14 h) (fun x l => leaVal (x.a l 64) (x.b l 32) 0) s

def execLea (h : Hdr) (o : RegForm) (s : State) : Host.Outcome State Fault Refusal :=
  laneOp (o.view 1 15 h) (fun x l => leaVal (x.a l 64) (x.b l 32) x.v.cOpd.opt) s

def execMov (h : Hdr) (o : RegForm) (s : State) : Host.Outcome State Fault Refusal :=
  laneOp (o.view 1 16 h) (fun x l => x.a l x.ty.width) s

/-- The immediate as `movi` extends it (R170). -/
def moviVal (t : Ty) (imm : Nat) : Nat := if t == .s64 then wrap 64 (toSigned 32 imm) else imm

def execMovi (h : Hdr) (o : ImmForm) (s : State) : Host.Outcome State Fault Refusal :=
  laneOp (o.view 1 17 h) (fun x _ => moviVal x.ty x.v.imm) s

/-- `movk` writes the odd register alone. -/
def execMovk (h : Hdr) (o : ImmForm) (s : State) : Host.Outcome State Fault Refusal :=
  issueWord (o.view 1 18 h) (fun x s =>
    .ok (s.modLanes x.t x.e fun _ y => match x.v.d with
      | .g _ _ n => y.wg (n.toNat + 1) (BitVec.ofNat 32 x.v.imm)
      | _ => y) x.v.latency) s

def execSel (h : Hdr) (o : RegForm) (s : State) : Host.Outcome State Fault Refusal :=
  laneOp (o.view 1 19 h) (fun x l => if x.c l 1 = 1 then x.a l x.ty.width else x.b l x.ty.width) s

end Sys2Proof.Machine
end

