-- ==== Sys2Proof/Machine/FloatOps.lean ====
section
/-! DEFINITION. Classes 5, 6 and 7: floating-point, packed 16-bit and conversion instructions (R202 to R223). -/

namespace Sys2Proof.Machine

/-! ### Class 5 -/

/-- Rounding control in A's SUB (R202). -/
def Env.rm (x : Env) : Nat := x.v.a.sub % 8
def Env.ftz (x : Env) : Bool := x.v.a.sub ≥ 8

/-- MOD of class 5 on a pattern: absolute value, then negation (R113, R204). -/
def modBits (m : BitVec 2) (v : Nat) : Nat :=
  let v := if m.getLsbD 0 then v % 2 ^ 31 else v
  if m.getLsbD 1 then v ^^^ 2 ^ 31 else v

/-- An f32 source pattern after MOD; a short immediate is an integer (R203). -/
def Env.f32src (x : Env) (l : Nat) (o : Opd) : Nat :=
  match o with
  | .i v => f32F.write 0 false (Fl.ofInt v.toInt)
  | _ => modBits o.mod (x.src l o 32)

def Env.fl (x : Env) (l : Nat) (o : Opd) : Fl := f32F.read x.ftz (x.f32src l o)

/-- A class 5 operation on each lane. -/
def fltOp (v : View) (f : Env → Nat → Nat) (s : State) : Host.Outcome State Fault Refusal :=
  issueWord v (fun x s => .ok (x.put s 1 (f x)) v.latency) s

def execFadd (h : Hdr) (o : RegForm) (s : State) : Host.Outcome State Fault Refusal :=
  fltOp (o.view 5 0 h) (fun x l => f32F.sum x.rm x.ftz [x.fl l x.v.a, x.fl l x.v.bOpd]) s

def execFsub (h : Hdr) (o : RegForm) (s : State) : Host.Outcome State Fault Refusal :=
  fltOp (o.view 5 1 h) (fun x l => f32F.sum x.rm x.ftz [x.fl l x.v.a, (x.fl l x.v.bOpd).neg]) s

def execFmul (h : Hdr) (o : RegForm) (s : State) : Host.Outcome State Fault Refusal :=
  fltOp (o.view 5 2 h) (fun x l => f32F.write x.rm x.ftz ((x.fl l x.v.a).mul (x.fl l x.v.bOpd))) s

def execFfma (h : Hdr) (o : RegForm) (s : State) : Host.Outcome State Fault Refusal :=
  fltOp (o.view 5 3 h) (fun x l =>
    f32F.sum x.rm x.ftz [(x.fl l x.v.a).mul (x.fl l x.v.bOpd), x.fl l x.v.cOpd]) s

def execFmin (h : Hdr) (o : RegForm) (s : State) : Host.Outcome State Fault Refusal :=
  fltOp (o.view 5 4 h) (fun x l => f32F.minMax x.ftz false (x.f32src l x.v.a) (x.f32src l x.v.bOpd)) s

def execFmax (h : Hdr) (o : RegForm) (s : State) : Host.Outcome State Fault Refusal :=
  fltOp (o.view 5 5 h) (fun x l => f32F.minMax x.ftz true (x.f32src l x.v.a) (x.f32src l x.v.bOpd)) s

def execFrcp (h : Hdr) (o : RegForm) (s : State) : Host.Outcome State Fault Refusal :=
  fltOp (o.view 5 6 h) (fun x l => approxVal 6 x.ftz (x.f32src l x.v.a)) s

def execFrsq (h : Hdr) (o : RegForm) (s : State) : Host.Outcome State Fault Refusal :=
  fltOp (o.view 5 7 h) (fun x l => approxVal 7 x.ftz (x.f32src l x.v.a)) s

def execFsqrt (h : Hdr) (o : RegForm) (s : State) : Host.Outcome State Fault Refusal :=
  fltOp (o.view 5 8 h) (fun x l => f32F.sqrt x.rm x.ftz (x.fl l x.v.a)) s

def execFdiv (h : Hdr) (o : RegForm) (s : State) : Host.Outcome State Fault Refusal :=
  fltOp (o.view 5 9 h) (fun x l => f32F.div x.rm x.ftz (x.fl l x.v.a) (x.fl l x.v.bOpd)) s

def execFex2 (h : Hdr) (o : RegForm) (s : State) : Host.Outcome State Fault Refusal :=
  fltOp (o.view 5 10 h) (fun x l => approxVal 10 x.ftz (x.f32src l x.v.a)) s

def execFlg2 (h : Hdr) (o : RegForm) (s : State) : Host.Outcome State Fault Refusal :=
  fltOp (o.view 5 11 h) (fun x l => approxVal 11 x.ftz (x.f32src l x.v.a)) s

def execFsin (h : Hdr) (o : RegForm) (s : State) : Host.Outcome State Fault Refusal :=
  fltOp (o.view 5 12 h) (fun x l => approxVal 12 x.ftz (x.f32src l x.v.a)) s

def execFcos (h : Hdr) (o : RegForm) (s : State) : Host.Outcome State Fault Refusal :=
  fltOp (o.view 5 13 h) (fun x l => approxVal 13 x.ftz (x.f32src l x.v.a)) s

def execFtanh (h : Hdr) (o : RegForm) (s : State) : Host.Outcome State Fault Refusal :=
  fltOp (o.view 5 14 h) (fun x l => approxVal 14 x.ftz (x.f32src l x.v.a)) s

def execFclass (h : Hdr) (o : RegForm) (s : State) : Host.Outcome State Fault Refusal :=
  fltOp (o.view 5 15 h) (fun x l => classOf (x.a l 32)) s

def execFscale (h : Hdr) (o : RegForm) (s : State) : Host.Outcome State Fault Refusal :=
  fltOp (o.view 5 16 h) (fun x l => scaleVal x.rm x.ftz (x.f32src l x.v.a) (toSigned 32 (x.b l 32))) s

def execFrnd (h : Hdr) (o : RegForm) (s : State) : Host.Outcome State Fault Refusal :=
  fltOp (o.view 5 17 h) (fun x l => rndVal x.rm x.ftz (x.f32src l x.v.a)) s

/-! ### Class 6 -/

/-- The half select of R113, on a packed value. -/
def halfSel (m : BitVec 2) (v : Nat) : Nat :=
  let lo := v % 2 ^ 16
  let hi := v / 2 ^ 16 % 2 ^ 16
  match m.toNat with
  | 0 => v
  | 1 => lo + 2 ^ 16 * lo
  | 2 => hi + 2 ^ 16 * hi
  | _ => hi + 2 ^ 16 * lo

/-- A packed source (R203, R204). -/
def Env.packed (x : Env) (f : Fmt) (l : Nat) (o : Opd) : Nat :=
  match o with
  | .i v => let e := f.write 0 false (Fl.ofInt v.toInt); e + 2 ^ 16 * e
  | _ => halfSel o.mod (x.src l o 32)

/-- Element `i` of a packed source. -/
def Env.half (x : Env) (f : Fmt) (l i : Nat) (o : Opd) : Nat := x.packed f l o / 2 ^ (16 * i) % 2 ^ 16
def Env.halfFl (x : Env) (f : Fmt) (l i : Nat) (o : Opd) : Fl := f.read x.ftz (x.half f l i o)

/-- A class 6 operation on each half of each lane (R213). -/
def halfOp (v : View) (f : Env → Nat → Nat → Nat) (s : State) : Host.Outcome State Fault Refusal :=
  issueWord v (fun x s => .ok (x.put s 1 fun l => f x l 0 + 2 ^ 16 * f x l 1) v.latency) s

def hadd (f : Fmt) (x : Env) (l i : Nat) : Nat := f.sum x.rm x.ftz [x.halfFl f l i x.v.a, x.halfFl f l i x.v.bOpd]
def hmul (f : Fmt) (x : Env) (l i : Nat) : Nat :=
  f.write x.rm x.ftz ((x.halfFl f l i x.v.a).mul (x.halfFl f l i x.v.bOpd))
def hfma (f : Fmt) (x : Env) (l i : Nat) : Nat :=
  f.sum x.rm x.ftz [(x.halfFl f l i x.v.a).mul (x.halfFl f l i x.v.bOpd), x.halfFl f l i x.v.cOpd]
def hminmax (f : Fmt) (mx : Bool) (x : Env) (l i : Nat) : Nat :=
  f.minMax x.ftz mx (x.half f l i x.v.a) (x.half f l i x.v.bOpd)

/-- a0 b0 + a1 b1 + c rounded once to f32 (R214). -/
def hdot (f : Fmt) (x : Env) (l : Nat) : Nat :=
  let p (i : Nat) := (x.halfFl f l i x.v.a).mul (x.halfFl f l i x.v.bOpd)
  let c := match x.v.cOpd with
    | .i v => Fl.ofInt v.toInt
    | o => f32F.read x.ftz (x.src l o 32)
  f32F.sum x.rm x.ftz [p 0, p 1, c]

def execHadd2F16 (h : Hdr) (o : RegForm) (s : State) : Host.Outcome State Fault Refusal :=
  halfOp (o.view 6 0 h) (hadd f16F) s
def execHmul2F16 (h : Hdr) (o : RegForm) (s : State) : Host.Outcome State Fault Refusal :=
  halfOp (o.view 6 1 h) (hmul f16F) s
def execHfma2F16 (h : Hdr) (o : RegForm) (s : State) : Host.Outcome State Fault Refusal :=
  halfOp (o.view 6 2 h) (hfma f16F) s
def execHmin2F16 (h : Hdr) (o : RegForm) (s : State) : Host.Outcome State Fault Refusal :=
  halfOp (o.view 6 3 h) (hminmax f16F false) s
def execHmax2F16 (h : Hdr) (o : RegForm) (s : State) : Host.Outcome State Fault Refusal :=
  halfOp (o.view 6 4 h) (hminmax f16F true) s
def execHdot2F16 (h : Hdr) (o : RegForm) (s : State) : Host.Outcome State Fault Refusal :=
  fltOp (o.view 6 5 h) (hdot f16F) s
def execHadd2Bf16 (h : Hdr) (o : RegForm) (s : State) : Host.Outcome State Fault Refusal :=
  halfOp (o.view 6 8 h) (hadd bf16F) s
def execHmul2Bf16 (h : Hdr) (o : RegForm) (s : State) : Host.Outcome State Fault Refusal :=
  halfOp (o.view 6 9 h) (hmul bf16F) s
def execHfma2Bf16 (h : Hdr) (o : RegForm) (s : State) : Host.Outcome State Fault Refusal :=
  halfOp (o.view 6 10 h) (hfma bf16F) s
def execHmin2Bf16 (h : Hdr) (o : RegForm) (s : State) : Host.Outcome State Fault Refusal :=
  halfOp (o.view 6 11 h) (hminmax bf16F false) s
def execHmax2Bf16 (h : Hdr) (o : RegForm) (s : State) : Host.Outcome State Fault Refusal :=
  halfOp (o.view 6 12 h) (hminmax bf16F true) s
def execHdot2Bf16 (h : Hdr) (o : RegForm) (s : State) : Host.Outcome State Fault Refusal :=
  fltOp (o.view 6 13 h) (hdot bf16F) s

/-! ### Class 7 (Table 7-8) -/

def View.cHalf (v : View) : Bool := v.opt.testBit 13
def View.cForm (v : View) : Nat := bits v.opt 12 10
def View.cCnt (v : View) : Nat := bits v.opt 9 5
def View.cSat (v : View) : Bool := v.opt.testBit 4
def View.cFtz (v : View) : Bool := v.opt.testBit 3
def View.cRm (v : View) : Nat := v.opt % 8

def Ty.isFlt (t : Ty) : Bool := t == .f32 || t == .f16 || t == .bf16

/-- The register pattern of an integer result: sign- or zero-extended (R216). -/
def intOut (t : Ty) (x : Int) : Nat := wrap (max 32 t.width) (t.val (wrap t.width x))

/-- Table 7-10. -/
def cvtVal (st dt : Ty) (rm : Nat) (sat_ ftz : Bool) (v : Nat) : Nat :=
  if !st.isFlt then
    let x := st.val v
    if !dt.isFlt then intOut dt (if sat_ then sat x dt.min dt.max else x)
    else let f := fmtOf dt; f.sat sat_ (f.write rm ftz (Fl.ofInt x))
  else
    let x := (fmtOf st).read ftz (v % 2 ^ st.width)
    if dt.isFlt then let f := fmtOf dt; f.sat sat_ (f.write rm ftz x)
    else match x with
      | .nan => 0
      | .inf n => intOut dt (if n then dt.min else dt.max)
      | .fin n m e =>
        let k : Int := roundInt rm n m e
        intOut dt (sat (if n then -k else k) dt.min dt.max)

def execCvt (h : Hdr) (o : RegForm) (s : State) : Host.Outcome State Fault Refusal :=
  issueWord (o.view 7 0 h) (fun x s =>
    let st := Ty.ofCode x.v.a.sub
    .ok (x.put s x.v.ty.regs fun l => cvtVal st x.v.ty x.v.cRm x.v.cSat x.v.cFtz (x.a l st.width)) x.v.latency) s

/-- A block scale by FORM: none where the pattern is invalid (R201, R215). -/
def scaleOf (form : Nat) (ftz : Bool) (v : Nat) : Fl :=
  match form with
  | 0 => f32F.read ftz v
  | 1 =>
    let x := f16F.read false (v % 2 ^ 16)
    if x.isZero then x else if x.isNeg then .nan else match x with
      | .inf _ => .nan
      | y => y
  | _ => if v % 256 = 255 then .nan else .fin false 1 (((v % 256 : Nat) : Int) - 127)

/-- The scale operand of a lane: a short immediate is an f32 integer, or raw bits (R215). -/
def Env.scale (x : Env) (l : Nat) : Fl :=
  match x.v.bOpd with
  | .i v => if x.v.cForm = 0 then Fl.ofInt v.toInt else scaleOf x.v.cForm x.v.cFtz (x.b l 32)
  | _ => scaleOf x.v.cForm x.v.cFtz (x.b l 32)

/-- R217. -/
def quantVal (k : Nat) (x s : Fl) : Nat :=
  let lo : Int := -(2 ^ (k - 1) : Nat)
  let hi : Int := (2 ^ (k - 1) : Nat) - 1
  let end_ (n : Bool) : Int := if n then lo else hi
  let q : Int := match x, s with
    | .nan, _ | _, .nan => 0
    | .inf _, .inf _ => 0
    | .inf a, .fin b _ _ => end_ (xor a b)
    | .fin _ _ _, .inf _ => 0
    | .fin a m e, .fin b n g =>
      if n = 0 then (if m = 0 then 0 else end_ (xor a b))
      else
        let d := e - g
        let num := m * 2 ^ d.toNat
        let den := n * 2 ^ (-d).toNat
        let k : Int := roundShift 0 false (4 * num / den) 2 (4 * num % den != 0)
        sat (if xor a b then -k else k) lo hi
  wrap 32 q

def execQuant (h : Hdr) (o : RegForm) (s : State) : Host.Outcome State Fault Refusal :=
  issueWord (o.view 7 1 h) (fun x s =>
    .ok (x.put s 1 fun l => quantVal x.v.cCnt (f32F.read x.v.cFtz (x.a l 32)) (x.scale l)) x.v.latency) s

/-- R218: (q + HALF/2) * s. -/
def dequantVal (rm : Nat) (sat_ ftz half : Bool) (form : Nat) (q : Int) (s : Fl) : Nat :=
  let n := 2 * q + (if half then 1 else 0)
  let a : Fl := .fin (n < 0) n.natAbs (-1)
  match s with
  | .fin _ 0 _ => if form = 1 then 0 else f32F.write rm ftz (a.mul s)
  | _ => f32F.sat sat_ (f32F.write rm ftz (a.mul s))

def execDequant (h : Hdr) (o : RegForm) (s : State) : Host.Outcome State Fault Refusal :=
  issueWord (o.view 7 2 h) (fun x s =>
    .ok (x.put s 1 fun l => dequantVal x.v.cRm x.v.cSat x.v.cFtz x.v.cHalf x.v.cForm (toSigned 32 (x.a l 32)) (x.scale l))
      x.v.latency) s

/-- Place of a lane in E, ascending. -/
def Env.place (x : Env) (l : Nat) : Nat := (x.lanes.takeWhile (· < l)).length

/-- The plane word that lane E_i receives (R219). -/
def planeWord (x : Env) (n i : Nat) : Nat :=
  if i ≥ n then 0 else (x.lanes.map fun l => ((x.a l 32).testBit (n - 1 - i)).toNat * 2 ^ l).sum

def execPackPlanes (h : Hdr) (o : RegForm) (s : State) : Host.Outcome State Fault Refusal :=
  issueWord (o.view 7 3 h) (fun x s => .ok (x.put s 1 fun l => planeWord x x.v.cCnt (x.place l)) x.v.latency) s

/-- Two f32 narrowed into one register (R219). -/
def packPairVal (form rm : Nat) (sat_ ftz : Bool) (a b : Nat) : Nat :=
  let f := if form = 1 then f16F else bf16F
  let one (v : Nat) := f.sat sat_ (f.write rm ftz (f32F.read ftz v))
  one a + 2 ^ 16 * one b

/-- B of the pair form; a short immediate is an integer as f32 (R203, R215). -/
def Env.f32b (x : Env) (l : Nat) : Nat :=
  match x.v.bOpd with
  | .i v => f32F.write 0 false (Fl.ofInt v.toInt)
  | _ => x.b l 32

def execPackPair (h : Hdr) (o : RegForm) (s : State) : Host.Outcome State Fault Refusal :=
  issueWord (o.view 7 3 h) (fun x s =>
    .ok (x.put s 1 fun l => packPairVal x.v.cForm x.v.cRm x.v.cSat x.v.cFtz (x.a l 32) (x.f32b l)) x.v.latency) s

/-- The K-bit integer of lane L's bits in the plane words of lanes E_0 to E_(K-1) (R220). -/
def unplane (x : Env) (k l : Nat) : Nat :=
  let v := ((List.range k).map fun i => match x.lanes[i]? with
    | some e => ((x.a e 32).testBit l).toNat * 2 ^ (k - 1 - i)
    | none => 0).sum
  wrap 32 (toSigned k v)

def execUnpackPlanes (h : Hdr) (o : RegForm) (s : State) : Host.Outcome State Fault Refusal :=
  issueWord (o.view 7 4 h) (fun x s => .ok (x.put s 1 fun l => unplane x x.v.cCnt l) x.v.latency) s

/-- Both halves as f32, exactly; FTZ flushes what is read and written (R196, R220). -/
def unpackPairVal (form : Nat) (ftz : Bool) (a : Nat) : Nat :=
  let f := if form = 1 then f16F else bf16F
  let one (v : Nat) := f32F.write 0 ftz (f.read ftz v)
  one (a % 2 ^ 16) + 2 ^ 32 * one (a / 2 ^ 16 % 2 ^ 16)

def execUnpackPair (h : Hdr) (o : RegForm) (s : State) : Host.Outcome State Fault Refusal :=
  issueWord (o.view 7 4 h) (fun x s => .ok (x.put s 2 fun l => unpackPairVal x.v.cForm x.v.cFtz (x.a l 32)) x.v.latency) s

/-- Magnitudes that a lane contributes to `scalmax`, as f32 patterns (R221). -/
def scalElems (x : Env) (l : Nat) : List Nat :=
  let st := Ty.ofCode x.v.a.sub
  let ftz := x.v.cFtz
  let mag (f : Fmt) (v : Nat) : Nat := f32F.write 0 ftz (match f.read ftz v with
    | .fin _ m e => .fin false m e
    | .inf _ => .inf false
    | .nan => .nan)
  if st == .f32 then
    mag f32F (x.a l 32) :: (if x.v.bOpd.isNone then [] else [mag f32F (x.b l 32)])
  else
    let f := fmtOf st
    [mag f (x.a l 32 % 2 ^ 16), mag f (x.a l 32 / 2 ^ 16)]

/-- The largest of non-negative patterns; a NaN pattern is the largest of all. -/
def scalMaxVal (l : List Nat) : Nat := l.foldl max 0

def execScalmax (h : Hdr) (o : RegForm) (s : State) : Host.Outcome State Fault Refusal :=
  issueWord (o.view 7 5 h) (fun x s =>
    let v := scalMaxVal (x.lanes.flatMap (scalElems x))
    .ok (x.putLaneOrK s 1 x.v.latency fun _ => v) x.v.latency) s

end Sys2Proof.Machine
end

