-- ==== Sys2Proof/Machine/CrossLane.lean ====
section
/-! DEFINITION. Class 4 but for `kld`: cross-lane, uniform and special-register instructions (R181 to R190). -/

namespace Sys2Proof.Machine

/-- The lane that `shfl` reads, if it lies within the segment (R182). -/
def shflSrc (mode seg l x : Nat) : Option Nat :=
  let base := l - l % seg
  let i := l % seg
  match mode with
  | 0 => some (base + x % seg)
  | 1 => if x ≤ i then some (base + i - x) else none
  | 2 => if i + x < seg then some (base + i + x) else none
  | _ => some (base + (i ^^^ (x % seg)))

def shflVal (x : Env) (l : Nat) : Nat :=
  let o := x.v.opt
  match shflSrc (o % 4) (32 / 2 ^ bits o 4 2) l (x.b l 32) with
  | some src => if x.e.getLsbD src then x.a src x.ty.width else x.a l x.ty.width
  | none => x.a l x.ty.width

def execShfl (h : Hdr) (o : RegForm) (s : State) : Host.Outcome State Fault Refusal :=
  issueWord (o.view 4 0 h) (fun x s => .ok (x.put s x.v.ty.regs (shflVal x)) x.v.latency) s

/-- Lane read by `bcast` (R183). -/
def bcastLane (x : Env) : Nat :=
  let n := x.b0 32 % 32
  if x.e.getLsbD n then n else x.l0

def execBcast (h : Hdr) (o : RegForm) (s : State) : Host.Outcome State Fault Refusal :=
  issueWord (o.view 4 1 h) (fun x s =>
    .ok (x.putLaneOrK s x.v.ty.regs x.v.latency fun _ => x.a (bcastLane x) x.ty.width) x.v.latency) s

/-- The operations of Table 6-10, and of atomics (Table 8-10), on patterns. -/
def redOp (op : Nat) (t : Ty) (a b : Nat) : Nat :=
  match op with
  | 0 => wrap t.width (t.val a + t.val b)
  | 1 => wrap t.width (min (t.val a) (t.val b))
  | 2 => wrap t.width (max (t.val a) (t.val b))
  | 3 => a &&& b
  | 4 => a ||| b
  | 5 => a ^^^ b
  | 8 => f32F.sum 0 false [f32F.read false a, f32F.read false b]
  | 9 => f32F.minMax false false a b
  | _ => f32F.minMax false true a b

/-- Exclusive start of Table 6-10. -/
def redStart (op : Nat) (t : Ty) : Nat :=
  match op with
  | 1 => wrap t.width t.max
  | 2 => wrap t.width t.min
  | 3 => 2 ^ t.width - 1
  | 9 => 0x7F800000
  | 10 => 0xFF800000
  | _ => 0

/-- Combine where a value may be absent (R184). -/
def absentOp (f : Nat → Nat → Nat) (a b : Option Nat) : Option Nat :=
  match a, b with
  | some x, some y => some (f x y)
  | some x, none => some x
  | none, y => y

/-- One level of the tree: neighbours combine. -/
def pairUp (f : Nat → Nat → Nat) : List (Option Nat) → List (Option Nat)
  | a :: b :: t => absentOp f a b :: pairUp f t
  | l => l

/-- The tree of R184 over 32 slots. -/
def treeRed (f : Nat → Nat → Nat) (l : List (Option Nat)) : Nat :=
  let u := pairUp f
  ((u (u (u (u (u l))))).headD none).getD 0

def Env.present (x : Env) : List (Option Nat) :=
  (List.range 32).map fun l => if x.e.getLsbD l then some (x.a l x.ty.width) else none

def execTred (h : Hdr) (o : RegForm) (s : State) : Host.Outcome State Fault Refusal :=
  issueWord (o.view 4 2 h) (fun x s =>
    let v := treeRed (redOp (x.v.opt % 16) x.ty) x.present
    .ok (x.putLaneOrK s x.v.ty.regs x.v.latency fun _ => v) x.v.latency) s

/-- Result of lane `l` in the scan (R185). -/
def scanVal (x : Env) (l : Nat) : Nat :=
  let op := x.v.opt % 16
  let before := x.lanes.filter (· < l)
  let acc := before.foldl (fun s k => absentOp (redOp op x.ty) s (some (x.a k x.ty.width))) none
  if x.v.opt.testBit 4 then acc.getD (redStart op x.ty)
  else (absentOp (redOp op x.ty) acc (some (x.a l x.ty.width))).getD 0

def execTscan (h : Hdr) (o : RegForm) (s : State) : Host.Outcome State Fault Refusal :=
  issueWord (o.view 4 3 h) (fun x s => .ok (x.put s x.v.ty.regs (scanVal x)) x.v.latency) s

def execMatchLanes (h : Hdr) (o : RegForm) (s : State) : Host.Outcome State Fault Refusal :=
  issueWord (o.view 4 4 h) (fun x s =>
    .ok (x.put s 1 fun l => (pick x.e fun m => x.a m x.ty.width == x.a l x.ty.width).toNat) x.v.latency) s

def execKmov (h : Hdr) (o : RegForm) (s : State) : Host.Outcome State Fault Refusal :=
  issueWord (o.view 4 5 h) (fun x s =>
    .ok (x.putLaneOrK s x.v.ty.regs x.v.latency fun l => x.a l x.ty.width) x.v.latency) s

def execKadd (h : Hdr) (o : RegForm) (s : State) : Host.Outcome State Fault Refusal :=
  issueWord (o.view 4 6 h) (fun x s =>
    .ok (x.putLaneOrK s x.v.ty.regs x.v.latency fun l =>
      narrow x.ty x.v.satBit (x.ty.val (x.a l x.ty.width) + x.ty.val (x.b l x.ty.width))) x.v.latency) s

def execKcmp (h : Hdr) (o : RegForm) (s : State) : Host.Outcome State Fault Refusal :=
  pairOp (o.view 4 7 h) (o.view 4 7 h).optCm (fun x _ => cmpInt x x.l0) s

/-- topo.gen (R401), bits [31:16] of the word at 0xE00. -/
def State.topoGen (s : State) : Nat := s.fld 0 0xE00 31 16

/-- Special registers (Table 6-11). -/
def specialVal (s : State) (x : Env) (l : Nat) : Nat :=
  let tm := x.tm
  let y := tm.lane l
  let g := (s.group? tm.grp).getD default
  match x.v.a.idx with
  | 0 => l
  | 1 => x.quad
  | 2 => tm.ix
  | 3 => tm.grp.rank % 2 ^ 32
  | 4 => tm.grp.rank
  | 5 => g.grid.1
  | 6 => g.grid.2.1
  | 7 => g.grid.2.2
  | 8 => g.roleId
  | 9 => g.teams
  | 10 => x.t.die * 128 + x.t.core
  | 11 => x.ctx
  | 12 => s.clock % 2 ^ 32
  | 13 => s.clock / 2 ^ 32 % 2 ^ 32
  | 14 => y.ltnow.toNat
  | 15 => s.topoGen
  | 16 => y.fserial.toNat
  | 17 => (tm.lanesIn fun l => l.st != .exited).toNat
  | 18 => tm.wdc
  | _ => y.tag.toNat

def execRdsr (h : Hdr) (o : RegForm) (s : State) : Host.Outcome State Fault Refusal :=
  issueWord (o.view 4 9 h) (fun x s =>
    .ok (x.putLaneOrK s x.v.ty.regs x.v.latency (specialVal s x)) x.v.latency) s

/-- `thread.tag` is the one writable register (R189). -/
def execWrsr (h : Hdr) (o : RegForm) (s : State) : Host.Outcome State Fault Refusal :=
  issueWord (o.view 4 10 h) (fun x s =>
    .ok (s.modLanes x.t x.e fun l y => { y with tag := BitVec.ofNat 32 (x.a l 32) }) x.v.latency) s

def execClk (h : Hdr) (o : RegForm) (s : State) : Host.Outcome State Fault Refusal :=
  issueWord (o.view 4 11 h) (fun x s => .ok (x.putLaneOrK s 2 x.v.latency fun _ => s.clock % 2 ^ 64) x.v.latency) s

end Sys2Proof.Machine
end

