-- ==== Sys2Proof/Machine/LoadStore.lean ====
section
/-! DEFINITION. Class 8 and `kld`: loads, stores, prefetch and cache control (R188, R244 to R252). -/

namespace Sys2Proof.Machine

/-- Plain access: ORD 0b00. -/
def View.plain (v : View) : Bool := v.ord == 0

/-- The loads of the lanes that passed their checks: values, latencies, state. -/
def Env.loads (x : Env) (cs : List Chk) (size extra : Nat) (plain : Bool) (s0 : State) :
    List (Nat × Nat) × List (Nat × Option Nat) × Touched × State :=
  let (vs, lats, m, s) := (okPlaces cs).foldl (fun (acc : List (Nat × Nat) × List (Nat × Option Nat) × Touched × State) p =>
    let (lat, v, m, s) := x.load p.1 p.2 size x.v.ord x.v.scope x.v.evict plain (walkOf cs p.1) acc.2.2.1 s0 acc.2.2.2
    (acc.1 ++ [(p.1, v)], acc.2.1 ++ [(p.1, some (lat + walkOf cs p.1 + extra))], m, s)) ([], [], Touched.none, s0)
  (vs, lats, m, (s.noteAccess x true cs lats).noteFlight s0 x (x.v.scope ≤ 3) true (okPlaces cs) lats)

/-- Write a list of values to D, each in its lane. -/
def Env.putVals (x : Env) (s : State) (r : Nat) (vs : List (Nat × Nat)) : State :=
  s.modLanes x.t (maskOf (vs.map (·.1))) fun l y => writeG x.v.d r (lookD vs l 0) y

/-- Lanes of E with their effective addresses. -/
def Env.eas (x : Env) : List (Nat × Int) := x.lanes.map fun l => (l, x.ea l)

/-- `ld` on the lanes of E (R247). -/
def ldBody (x : Env) (s : State) : Res :=
  let v := x.v
  let (cs, spread, s) := x.checks v.space v.bytes 1 v.plain true x.eas s
  let ps := okPlaces cs
  let s := s.sluiceAll x true ps false
  let (vals, lats, _, s) := x.loads cs v.bytes (spread + scrPasses (ps.map (·.2)) v.bytes) v.plain s
  let s := x.putVals s v.ty.regs (vals.map fun p => (p.1, extendVal v.ty p.2))
  ⟨s.holdLanes x.t cs, 0, lats, chkFates cs, false⟩

def execLd (h : Hdr) (o : MemForm) (s : State) : Host.Outcome State Fault Refusal :=
  issueWord (o.view 8 0 h) ldBody s

/-- Stores of lanes that passed their checks, ascending (R247). -/
def Env.stores (x : Env) (cs : List Chk) (extra : Nat) (s0 : State) : State :=
  let (lats, _, s) := (okPlaces cs).foldl (fun (acc : List (Nat × Option Nat) × Touched × State) p =>
    let (lat, m, s) := x.store p.1 p.2 x.v.bytes x.v.ord x.v.scope x.v.evict x.v.plain
      (x.dsrc p.1 (8 * x.v.bytes) % 2 ^ (8 * x.v.bytes)) (walkOf cs p.1) acc.2.1 acc.2.2
    (acc.1 ++ [(p.1, some (lat + walkOf cs p.1 + extra))], m, s)) ([], Touched.none, s0)
  (s.noteAccess x false cs lats).noteFlight s0 x false false (okPlaces cs) lats

/-- `st` on the lanes of E (R247); it completes at issue. -/
def stBody (x : Env) (s : State) : Res :=
  let v := x.v
  let (cs, spread, s) := x.checks v.space v.bytes 2 v.plain false x.eas s
  let ps := okPlaces cs
  let s := x.stores cs (spread + scrPasses (ps.map (·.2)) v.bytes) (s.sluiceAll x false ps true)
  ⟨s.holdLanes x.t cs, 0, [], chkFates cs, false⟩

def execSt (h : Hdr) (o : MemForm) (s : State) : Host.Outcome State Fault Refusal :=
  issueWord (o.view 8 1 h) stBody s

/-- Status of `ldk` for a failed check (R248). -/
def ldkStatus (check : Nat) : Nat := if check = 8 then 7 else check - 1

/-- Latencies of the lanes of an `ldk` that fail a check: up to the point where it failed, which for check 8 is the data, or the table
entry at which the walk ended (R248). -/
def Env.failLats (x : Env) (cs : List Chk) (spread : Nat) (m : Touched) (s : State) : List (Nat × Option Nat) × State :=
  let (lats, _, s) := cs.foldl (fun (acc : List (Nat × Option Nat) × Touched × State) c => match c.res with
    | .bad k i =>
      if c.data then
        let (lat, m, s) := acc.2.1.load x.t.die (.mem i.d1.toNat) x.v.scope x.v.evict c.walk acc.2.2
        (acc.1 ++ [(c.lane, some (lat + c.walk + spread))], m, s)
      else (acc.1 ++ [(c.lane, some (if k ≥ 4 then c.walk + spread else 0))], acc.2)
    | _ => acc) ([], m, s)
  (lats, s)

/-- `ldk`: value and status; no lane parks (R248). -/
def ldkBody (x : Env) (s : State) : Res :=
  let v := x.v
  let (cs, spread, s) := x.checks v.space v.bytes 1 false true x.eas s
  let ps := okPlaces cs
  let s := s.sluiceAll x true ps false
  let (vals, lats, m, s) := x.loads cs v.bytes (spread + scrPasses (ps.map (·.2)) v.bytes) false s
  let bad := cs.filterMap fun c => match c.res with
    | .bad k _ => some (c.lane, ldkStatus k * 2 ^ 32)
    | _ => none
  let (late, s) := x.failLats cs spread m s
  let s := x.putVals s 2 (vals ++ bad)
  let fates := cs.filterMap fun c => match c.res with
    | .hold _ => some (c.lane, Fate.stay)
    | _ => none
  ⟨s.holdLanes x.t cs, 0, lats ++ late, fates, false⟩

def execLdk (h : Hdr) (o : MemForm) (s : State) : Host.Outcome State Fault Refusal :=
  issueWord (o.view 8 2 h) ldkBody s

/-! ### stc and lde (R249, R250, R472) -/

/-- A kept resume address as a signed offset or address. -/
def raAddr (ra : Option (Nat × Nat)) : Option Int := ra.map fun r => toSigned 64 r.1

/-- Addresses of the lanes of E in ascending order: F takes contiguous elements from the base of its lowest lane, the
others their resume addresses. -/
def Env.runAddrs (x : Env) : List (Nat × Int) :=
  let ra (l : Nat) := raAddr (x.tm.lane l).ra
  let f := x.lanes.filter fun l => (ra l).isNone
  let base := match f with
    | [] => 0
    | l :: _ => x.ea l
  let norm (a : Int) : Int := if x.v.space then a else ((wrap 48 a : Nat) : Int)
  let fs := f.zipIdx.map fun (l, j) => (l, norm (base + ((j * x.v.bytes : Nat) : Int)))
  let rs := x.lanes.filterMap fun l => (ra l).map fun a => (l, a)
  (fs ++ rs).foldl (fun acc e =>
    let (lo, hi) := acc.span fun y => decide (y.2 < e.2) || (y.2 == e.2 && decide (y.1 < e.1))
    lo ++ e :: hi) []

/-- The lanes of a run, checked in turn up to the first that stops, and that one's result with the lanes from it on. -/
def splitRun (cs : List Chk) (as : List (Nat × Int)) : List Chk × Option (ChkRes × List Nat) :=
  let good := cs.takeWhile fun c => match c.res with
    | .ok _ => true
    | _ => false
  match cs.drop good.length with
  | [] => (good, none)
  | c :: _ => (good, some (c.res, (as.drop good.length).map (·.1)))

/-- What the stop of a run does to its lanes: they keep their addresses, and park or wait. -/
def Env.stopRun (x : Env) (as : List (Nat × Int)) (stop : Option (ChkRes × List Nat)) (s : State) :
    List (Nat × Fate) × State :=
  match stop with
  | none => ([], s)
  | some (r, ls) =>
    let s := s.modLanes x.t (maskOf ls) fun l y =>
      { y with ra := ((as.find? (·.1 == l)).map fun a => (wrap 64 a.2, 0)) }
    match r with
    | .bad _ i => (ls.map fun l => (l, .trap i), s)
    | .hold w => (ls.map fun l => (l, .stay), s.waitLanes x.t (maskOf ls) w)
    | .ok _ => ([], s)

def stcBody (x : Env) (s : State) : Res :=
  let v := x.v
  let as := x.runAddrs
  let (cs, spread, s) := x.checks v.space v.bytes 2 v.plain false as s true
  let (good, stop) := splitRun cs as
  let ps := okPlaces good
  let s := x.stores good (spread + scrPasses (ps.map (·.2)) v.bytes) (s.sluiceAll x false ps true)
  let (fates, s) := x.stopRun as stop s
  ⟨s, 0, [], fates, false⟩

def execStc (h : Hdr) (o : MemForm) (s : State) : Host.Outcome State Fault Refusal :=
  issueWord (o.view 8 3 h) stcBody s

def ldeBody (x : Env) (s : State) : Res :=
  let v := x.v
  let as := x.runAddrs
  let (cs, spread, s) := x.checks v.space v.bytes 1 v.plain true as s true
  let (good, stop) := splitRun cs as
  let ps := okPlaces good
  let s := s.sluiceAll x true ps false
  let (vals, lats, _, s) := x.loads good v.bytes (spread + scrPasses (ps.map (·.2)) v.bytes) v.plain s
  let s := x.putVals s v.ty.regs (vals.map fun p => (p.1, extendVal v.ty p.2))
  let (fates, s) := x.stopRun as stop s
  ⟨s, 0, lats, fates, false⟩

def execLde (h : Hdr) (o : MemForm) (s : State) : Host.Outcome State Fault Refusal :=
  issueWord (o.view 8 4 h) ldeBody s

/-! ### kld (R188) -/

/-- One load for the team, by the lowest lane of E; its fault parks every lane of E, and its record names the lowest. -/
def kldBody (x : Env) (s : State) : Res :=
  let v := x.v
  let l := x.l0
  let (cs, spread, s) := x.checks v.space v.bytes 1 v.plain true [(l, x.ea l)] s
  match cs with
  | [⟨_, .ok p, walk, _, _⟩] =>
    let s0 := s.sluiceAll x true [(l, p)] false
    let (lat, val, _, s) := x.load l p v.bytes v.ord v.scope v.evict v.plain walk Touched.none s0 s0
    let lat := lat + walk + spread
    let s := (s.noteAccess x true cs [(l, some lat)]).noteFlight s0 x (v.scope ≤ 3) true [(l, p)] [(l, some lat)]
    match v.d with
    | .k _ _ n => .ok (s.writeK x.t x.e x.pc n.toNat v.ty.regs val lat) lat
    | _ => .ok s lat
  | [⟨_, .bad _ i, _, _, _⟩] => ⟨s, 0, [], x.lanes.map fun n => (n, if n = l then .trap i else .along i), false⟩
  | [⟨_, .hold w, _, _, _⟩] => .all (s.waitLanes x.t x.e w) x .stay
  | _ => .ok s 0

def execKld (h : Hdr) (o : MemForm) (s : State) : Host.Outcome State Fault Refusal :=
  issueWord (o.view 4 8 h) kldBody s

/-! ### prefd and cctl (R251, R252) -/

/-- Virtual addresses of the n lines from the line that holds each lane's ea. -/
def Env.lineVas (x : Env) : List Nat :=
  let n := x.v.d.opt % 32 + 1
  (x.lanes.flatMap fun l =>
    let a := (x.ea l).toNat / 128 * 128
    (List.range n).map fun i => (a + 128 * i) % 2 ^ 48).dedup

/-- Fetch one line ahead for a group once it has been looked up, in `w` cycles, or count it dropped: it draws on Sluice for its sectors, and
meets their errors (R86, R232, R242). An aperture line goes into the die's RDC, the prefetch being of the narrowest scope (R230 rule 4). -/
def State.prefPlace (s : State) (d : Nat) (g : GroupRef) (evict w : Nat) : Except (Nat × Nat) Place → State
  | .ok (.mem pa) =>
    let secs := (List.range 4).map fun k => pa / 128 * 128 + 32 * k
    let s := if s.throttled then (s.sluice g false .nobody (secs.flatMap fun a => s.draws d (.mem a) false)).2 else s
    match s.readErrors secs with
    | (some _, _, s) => s.bump d 0x938 63 48
    | (none, _, s) => (s.loadLine d pa evict w).2
  | .ok (.apt dev peer pa mask) =>
    let p : Place := .apt dev peer pa mask
    let s := if s.throttled then (s.sluice g false .nobody ((List.range 4).map fun k => (3, d, pa / 128 * 4 + k))).2 else s
    ((s.touchLoad d p 0 evict w).2.loadBytes d p 0 1).2
  | .ok _ => s
  | .error _ => s.bump d 0x938 63 48

/-- Fetch one line ahead; one whose walk a migration holds waits for its end (R241). -/
def State.prefLine (s : State) (x : Env) (va : Nat) (memo : List Looked) : List Looked × State :=
  match x.look va 1 1 memo s with
  | (.error (9, _), _, _, s) => (memo, s.modDie x.t.die fun y => { y with prefs := y.prefs ++ [(x.t.core, x.tm.grp, va, x.v.evict)] })
  | (r, w, memo, s) => (memo, s.prefPlace x.t.die x.tm.grp x.v.evict w r)

def execPrefd (h : Hdr) (o : MemForm) (s : State) : Host.Outcome State Fault Refusal :=
  issueWord (o.view 8 5 h) (fun x s =>
    .ok (x.lineVas.foldl (fun (acc : List Looked × State) a => acc.2.prefLine x a acc.1) ([], s)).2 0) s

/-- Physical lines that a `cctl` names, ascending, with the cycles that their translation takes; lines that do not translate are
skipped. Where a migration holds a walk, the address that is held (R241). -/
def State.cctlLines (s : State) (x : Env) : Except Nat (List Nat) × Nat × State :=
  let (ls, held, walks, memo, s) := x.lineVas.foldl (fun (acc : List Nat × Option Nat × Nat × List Looked × State) a =>
    match x.look a 1 0 acc.2.2.2.1 acc.2.2.2.2 with
    | (.ok (.mem pa), w, memo, s) => (acc.1 ++ [lineOf pa], acc.2.1, max acc.2.2.1 w, memo, s)
    | (.ok (.apt _ _ pa _), w, memo, s) => (acc.1 ++ [lineOf pa], acc.2.1, max acc.2.2.1 w, memo, s)
    | (.error (9, _), _, memo, s) => (acc.1, some a, acc.2.2.1, memo, s)
    | (_, w, memo, s) => (acc.1, acc.2.1, max acc.2.2.1 w, memo, s)) ([], none, 0, [], s)
  (match held with
    | some a => .error a
    | none => .ok (sortBy id ls).dedup, walks + (memo.length - 1), s)

/-- Invalidate a line in every instruction cache of the package (R102). -/
def icinvLine (line : Nat) (s : State) : Nat × State :=
  (260, { s with clusters := s.clusters.map fun c => { c with icache := c.icache.filter (·.line != line) } })

/-- Drop a line from the die's RDC, with a drop notice to its home (R230 rule 5). -/
def rdcinvLine (d line : Nat) (s : State) : Nat × State :=
  if (findLine (s.die d).rdc line).isSome then
    let s := s.modDie d fun x => { x with rdc := x.rdc.filter (·.line != line) }
    match homeOf (line * 128) with
    | some h => (190, s.after 190 (.dropNotice h d line))
    | none => (190, s)
  else (190, s)

/-- Latency of an L2 access at a line's home (Table 0-3). -/
def State.l2Lat (s : State) (d h : Nat) : Nat := if h == d then 160 else 380 + s.reroute d h

/-- Drop a line from every RDC that the directory names, and its directory entry (R230 rule 3): 120 cycles where it had sharers. -/
def State.dropSharers (s : State) (h line : Nat) : Nat × State :=
  let m := (s.die h).sharers line
  let s := ((List.range 4).filter fun e => m.testBit e).foldl (fun s e => s.after 0 (.rdcProbe e h line)) s
  (if m = 0 then 0 else 120, s.modDie h fun x => { x.share line 0 with
    probes := x.probes ++ ((List.range 4).filter fun e => m.testBit e).map fun e => (line, e) })

/-- Write a line's dirty sectors back; `inv` invalidates it too, with its race records and directory entry. -/
def wbLine (inv : Bool) (d line : Nat) (s : State) : Nat × State :=
  match homeOf (line * 128) with
  | none => (0, s)
  | some h =>
    let (s, w) := s.bankWait h (line * 128) (s.wayTo d h)
    let l := findLine (s.die h).l2 line
    let dirty := (l.map (·.dirty)).getD 0 != 0
    let lat := s.l2Lat d h + w + (if dirty then 540 + s.refreshWait h (line * 128) (s.wayTo d h) else 0)
    if inv then
      let (p, s) := s.dropSharers h line
      let s := s.modDie h fun x => { x with l2 := x.l2.filter (·.line != line) }
      (lat + p, s.lostLine h l)
    else (lat, s.modDie h fun x => { x with l2 := modLine x.l2 line fun y => { y with dirty := 0 } })

/-- What a `cctl` of OP does to one line, and the time that it takes. -/
def State.lineAct (s : State) (d op line : Nat) : Nat × State :=
  match op with
  | 0 => icinvLine line s
  | 1 => rdcinvLine d line s
  | 2 => wbLine false d line s
  | _ => wbLine true d line s

/-- The next line of a `cctl` is acted on; with the last, the completion point of its windows is known. -/
def State.runLines (s : State) (a : Access) (r : LineRun) : State :=
  if s.clock < r.start then s.at_ r.start (.memoryAccessPerform a) else
  match r.lines with
  | [] => s
  | line :: rest =>
    let (n, s) := s.lineAct a.die r.op line
    let till := max r.done (s.clock + n)
    if rest.isEmpty then
      s.modLanes r.team r.lanes fun _ y => { y with win := updLast (fun w => w.pc == r.pc && w.due.isNone) (fun w => { w with due := some till }) y.win }
    else s.after 1 (.memoryAccessPerform { a with run := some { r with lines := rest, done := till } })

/-- Sectors that a `cctl` moves: the dirty ones that it writes back, at their homes (R86, log entry 112). -/
def State.lineDraws (s : State) (op : Nat) (ls : List Nat) : List (Nat × Nat × Nat) :=
  if op < 2 then [] else
  ls.flatMap fun line => match homeOf (128 * line) with
    | none => []
    | some h =>
      let dirty := ((findLine (s.die h).l2 line).map (·.dirty)).getD 0
      (((List.range 4).filter dirty.testBit).map fun k => 4 * line + k).flatMap fun sec => [(0, h, sec), (1, h, sec)]

/-- `cctl` of an OP: the lines are acted on one per cycle, ascending, from the cycle after the issue and their translation on, once Sluice
has let them pass; the completion point is the last's (R242, R252). -/
def cctlBody (op : Nat) (x : Env) (s : State) : Res :=
  match s.cctlLines x with
  | (.error va, _, s) => .all (s.waitLanes x.t x.e (.walk va s.clock)) x .stay
  | (.ok [], _, s) => .ok s 0
  | (.ok ls, w, s) =>
    let r : LineRun := { op := op, team := x.t, lanes := x.e, pc := x.pc, lines := ls, start := s.clock + w + 1, done := 0 }
    let a : Access := { die := x.t.die, write := true, pa := 0, size := 0, data := 0, scope := 0, evict := 0, post := none, record := [], run := some r }
    let (ok, s) := if s.throttled then s.sluice x.tm.grp false (.unit (.memoryAccessPerform a)) (s.lineDraws op ls) else (true, s)
    ⟨if ok then s.at_ r.start (.memoryAccessPerform a) else s, 0, x.lanes.map fun l => (l, none), [], false⟩

def execCctlIcinv (h : Hdr) (o : MemForm) (s : State) : Host.Outcome State Fault Refusal :=
  issueWord (o.view 8 6 h) (cctlBody 0) s
def execCctlRdcinv (h : Hdr) (o : MemForm) (s : State) : Host.Outcome State Fault Refusal :=
  issueWord (o.view 8 6 h) (cctlBody 1) s
def execCctlWb (h : Hdr) (o : MemForm) (s : State) : Host.Outcome State Fault Refusal :=
  issueWord (o.view 8 6 h) (cctlBody 2) s
def execCctlWbinv (h : Hdr) (o : MemForm) (s : State) : Host.Outcome State Fault Refusal :=
  issueWord (o.view 8 6 h) (cctlBody 3) s

end Sys2Proof.Machine
end

