-- ==== Sys2Proof/Machine/Atomic.lean ====
section
/-! DEFINITION. Class 9: atomics, ordered additions and fences (R253 to R259). -/

namespace Sys2Proof.Machine

/-- New value of an atomic (Table 8-10). -/
def atomNew (op : Nat) (t : Ty) (old v : Nat) : Nat := if op = 6 then v else redOp op t old v

/-- Cycles that an atomic waits behind those ahead of it in its sector's order (R253, Table 8-4). It arrives `dl` cycles from now, or with
the last of those that were issued before it where that comes later, so the order of arrival is that of the issues (log entry 9); those not
yet applied then, or that arrive with it, are ahead. -/
def State.atomWait (s : State) (p : Place) (dl : Nat) : Nat × State :=
  let live := s.atoms.filter fun a => s.clock ≤ a.2.2.2
  let mine := live.filter fun a => a.1 == p.key.1 && a.2.1 == p.key.2 / 32
  let at_ := mine.foldl (fun m a => max m a.2.2.1) (s.clock + dl)
  let n := (mine.filter fun a => a.2.2.1 == at_ || at_ < a.2.2.2).length
  (2 * n, { s with atoms := live ++ [(p.key.1, p.key.2 / 32, at_, at_ + 2 * n)] })

/-- Cycles from an access by die `d` to its arrival at the home of its place. -/
def State.arrival (s : State) (d : Nat) : Place → Nat
  | .mem pa => match homeOf pa with
    | some h => s.wayTo d h
    | none => 0
  | .pipe r _ => match (s.pipe? r).bind (·.home) with
    | some h => s.wayTo d h
    | none => 0
  | .apt .. => 975
  | .scr _ | .dev _ => 0

/-- The atomics of the lanes that passed their checks, in ascending lane order (R253). -/
def Env.atomics (x : Env) (cs : List Chk) (extra : Nat) (win : Bool) (f : Nat → Nat → Option Nat) (s0 : State) :
    List (Nat × Nat) × List (Nat × Option Nat) × State :=
  let (os, lats, _, s) := (okPlaces cs).foldl (fun (acc : List (Nat × Nat) × List (Nat × Option Nat) × Touched × State) p =>
    let walk := walkOf cs p.1
    let (lat, old, m, s) := x.atomic p.1 p.2 x.v.bytes x.v.ord x.v.scope x.v.evict (f p.1) walk acc.2.2.1 acc.2.2.2
    let (w, s) := s.atomWait p.2 (walk + extra + s.arrival x.t.die p.2)
    (acc.1 ++ [(p.1, old)], acc.2.1 ++ [(p.1, some (lat + walk + extra + w))], m, s)) ([], [], Touched.none, s0)
  (os, lats, (s.noteAccess x true cs lats).noteFlight s0 x false win (okPlaces cs) lats)

/-- An atomic instruction: `f` gives a lane's new value from the old; `ret` says that D receives the old value. -/
def atomBody (ret : Bool) (f : Env → Nat → Nat → Option Nat) (x : Env) (s : State) : Res :=
  let v := x.v
  let (cs, spread, s) := x.checks v.space v.bytes 3 false true x.eas s
  let ps := okPlaces cs
  let s := s.sluiceAll x ret ps true
  let (olds, lats, s) := x.atomics cs (spread + scrPasses (ps.map (·.2)) v.bytes) ret (f x) s
  let s := if ret then x.putVals s v.ty.regs olds else s
  ⟨s.holdLanes x.t cs, 0, if ret then lats else [], chkFates cs, false⟩

def atomStep (x : Env) (l old : Nat) : Option Nat :=
  some (atomNew x.v.atop x.ty old (x.dsrc l x.ty.width))

def execAtom (h : Hdr) (o : MemForm) (s : State) : Host.Outcome State Fault Refusal :=
  issueWord (o.view 9 0 h) (atomBody true atomStep) s

def execRed (h : Hdr) (o : MemForm) (s : State) : Host.Outcome State Fault Refusal :=
  issueWord (o.view 9 1 h) (atomBody false atomStep) s

/-- The swap value is written where the memory value equals the compare value (R254). -/
def casStep (x : Env) (l old : Nat) : Option Nat :=
  let w := x.ty.width
  let d := x.dsrc l (2 * w)
  if old == d % 2 ^ w then some (d / 2 ^ w) else none

def execCas (h : Hdr) (o : MemForm) (s : State) : Host.Outcome State Fault Refusal :=
  issueWord (o.view 9 2 h) (atomBody true casStep) s

/-! ### Ordered addition (R33, R255 to R258) -/

/-- The launch of a group. -/
def State.launchOf (s : State) (g : GroupRef) : Option (Plan × Launch) :=
  match s.group? g with
  | none => none
  | some gr => match s.plan? g.ctx gr.rcb with
    | none => none
    | some p => p.launch.map fun l => (p, l)

/-- Check 1: the address lies within an ordered target (R33). -/
def inTarget (l : Launch) (va : Nat) : Bool := l.targets.any fun t => t.1 ≤ va && va + 4 ≤ t.1 + t.2

/-- Entries of a die's ordered-list area. -/
def ordCap : Nat := 4194304

/-- An entry of a lane, with its place in the thread's additions to the address: entries of one list are applied together, so those that
stand there count the earlier ones (R255). -/
def State.ordEntry (s : State) (tm : Team) (l h va pa rcb : Nat) (value : W32) : Ord :=
  let mine (e : Ord) : Bool := e.addr == pa && e.rcb == rcb && e.rank == tm.grp.rank && e.lane == l && e.team == tm.ix
  { addr := pa, rcb := rcb, rank := tm.grp.rank, lane := l, team := tm.ix, seq := ((s.die h).ords.filter mine).length, value := value, va := va }

/-- Place one lane's entry in the list of its home; none where the area is full. -/
def State.ordOne (s : State) (tm : Team) (l h va pa rcb : Nat) (value : W32) : Option State :=
  if (s.die h).ords.length ≥ ordCap then none
  else some (s.modDie h fun d => { d with ords := d.ords ++ [s.ordEntry tm l h va pa rcb value] })

/-- A lane of an `ordadd` that passed its checks at an address of HBM4E, its access taking `lat` cycles: its entry is placed, or it
waits. -/
def Env.ordLane (x : Env) (cs : List Chk) (l pa rcb lat : Nat) (r : Res) : Res :=
  match homeOf pa with
  | none => r
  | some h =>
    let va := (x.ea l).toNat
    let v := BitVec.ofNat 32 (x.dsrc l 32)
    match r.s.ordOne x.tm l h va pa rcb v with
    | some s => { r with s := s.noteAccess x false cs [(l, some lat)] }
    | none =>
      let s := (r.s.bump h 0x940 47 32).after (2 ^ 20) (.orderedOverflow h)
      { r with s := s.waitLanes x.t (1#32 <<< l) (.ordFull s.clock va h v), fates := r.fates ++ [(l, .stay)] }

/-- `ordadd` on each lane: check 1, then those of a store; a full area makes the lane wait (R258). It is an access to the home of its
list (R242); an address without a home die fails check 6 (log entry 108). -/
def ordaddBody (x : Env) (s : State) : Res :=
  let (rcb, ok) : Nat × (Nat → Bool) := match s.launchOf x.tm.grp with
    | some (p, l) => (p.rcb, inTarget l)
    | none => (0, fun _ => false)
  let good := x.eas.filter fun a => ok a.2.toNat
  let bad1 := (x.eas.filter fun a => !ok a.2.toNat).map fun a => (a.1, Fate.trap (.simple 0x0E 0 a.2.toNat))
  let (cs, spread, s) := x.checks false 4 2 false true good s
  let s := s.sluiceAll x false (okPlaces cs) true
  (cs.foldl (fun (acc : Res × List (Nat × Nat)) c =>
    let r := acc.1
    match c.res with
    | .bad _ i => ({ r with fates := r.fates ++ [(c.lane, .trap i)] }, acc.2)
    | .hold w => ({ r with s := r.s.waitLanes x.t (1#32 <<< c.lane) w, fates := r.fates ++ [(c.lane, .stay)] }, acc.2)
    | .ok (.mem pa) =>
      let h := (homeOf pa).getD 0
      let (s, w) : State × Nat := if acc.2.any (·.1 == lineOf pa) then (r.s, lookD acc.2 (lineOf pa) 0)
        else r.s.bankWait h pa (c.walk + r.s.wayTo x.t.die h)
      (x.ordLane cs c.lane pa rcb (c.walk + spread + w + s.l2Lat x.t.die h) { r with s := s }, (lineOf pa, w) :: acc.2)
    | .ok p => ({ r with fates := r.fates ++ [(c.lane, .trap (checkInfo 6 p.addr))] }, acc.2)) (⟨s, 0, [], bad1, false⟩, [])).1

def execOrdadd (h : Hdr) (o : MemForm) (s : State) : Host.Outcome State Fault Refusal :=
  issueWord (o.view 9 3 h) ordaddBody s

/-- Order of entries: rank, lane, seq, with the team's index between equals (R256, log entry 19). -/
def Ord.before (a b : Ord) : Bool :=
  if a.rank != b.rank then a.rank < b.rank else if a.lane != b.lane then a.lane < b.lane
  else if a.seq != b.seq then a.seq < b.seq else a.team < b.team

def ordSort (l : List Ord) : List Ord :=
  l.foldl (fun acc e =>
    let (lo, hi) := acc.span fun y => !e.before y
    lo ++ e :: hi) []

/-- Lanes that have waited for space in a die's area place their entries while there is space, and go on (R258); one whose address no
longer translates to the die issues again. -/
def State.ordSpace (s : State) (h : Nat) : State :=
  (s.lanesWhere fun _ l => match l.st, l.wait with
    | .op, .ordFull _ _ d _ => d == h
    | _, _ => false).foldl (fun s x => (lanesOf x.2).foldl (fun s l =>
      match s.team? x.1 with
      | none => s
      | some tm => match (tm.lane l).wait, s.launchOf tm.grp with
        | .ordFull _ va _ v, some (p, _) =>
          match s.locate x.1.die x.1.core tm.grp false va 4 2 with
          | (.ok (.mem pa), _, s) =>
            if homeOf pa != some h then s.wakeLanes x.1 (1#32 <<< l) else
            match s.ordOne tm l h va pa p.rcb v with
            | some s => s.passLanes x.1 (1#32 <<< l) 0
            | none => s
          | (_, _, s) => s.wakeLanes x.1 (1#32 <<< l)
        | _, _ => s) s) s

/-- Apply the lists of a die whose entries satisfy `p` (R256): each address's entries in key order, rounding once each. -/
def State.applyOrds (s : State) (d : Nat) (p : Ord → Bool) : State :=
  let es := ordSort ((s.die d).ords.filter p)
  let s := es.foldl (fun s e =>
    let old := s.memVal e.addr 4
    let new := f32F.sum 0 false [f32F.read false old, f32F.read false e.value.toNat]
    (s.touchL2 d e.addr 4).devPutVal d e.addr 4 new) s
  let s := s.modDie d fun x => { x with ords := x.ords.filter fun e => !p e }
  if es.isEmpty then s else s.ordSpace d

/-- The entries of a launch's lists: those under its plan RCB address (R258), of the memory that its context maps there, since two
contexts can name their plans alike (log entry 25). -/
def State.ownOrds (s : State) (ctx rcb : Nat) : List Ord :=
  let es := (s.dies.flatMap (·.ords)).filter (·.rcb == rcb)
  match s.ctx? ctx with
  | none => []
  | some c =>
    let pages := (es.map fun e => e.va / 4096).dedup.map fun p => (p, (s.recAddr c.coord c.walkfmt c.ptroot (4096 * p)).1)
    es.filter fun e => match pages.find? (·.1 == e.va / 4096) with
      | some (_, .ok pa) => pa + e.va % 4096 == e.addr
      | _ => false

/-- Apply the lists of a launch's targets, or of one of them. -/
def State.applyTargets (s : State) (ctx rcb : Nat) (t : Option (Nat × Nat)) : State :=
  let es := (s.ownOrds ctx rcb).filter fun e => match t with
    | some (a, n) => a ≤ e.va && e.va < a + n
    | none => true
  if es.isEmpty then s else (List.range 4).foldl (fun s d => s.applyOrds d es.contains) s

/-- `flushord` (R257); its completion point is taken as an access to the lists' homes (log entry 10). -/
def flushordBody (x : Env) (s : State) : Res :=
  let n := x.v.d.opt
  match s.launchOf x.tm.grp with
  | none => .ok s 0
  | some (p, l) =>
    let t := if n = 7 then some none else (l.targets[n]?).map some
    match t with
    | none => .ok s 0
    | some t =>
      let homes := (List.range 4).filter fun d => (s.die d).ords.any fun e => e.rcb == p.rcb
      .ok (s.applyTargets p.ctx p.rcb t) ((homes.map fun d => s.l2Lat x.t.die d).foldl max 160)

def execFlushord (h : Hdr) (o : RegForm) (s : State) : Host.Outcome State Fault Refusal :=
  issueWord (o.view 9 4 h) flushordBody s

/-! ### fence (R259) -/

/-- Cycles until every lane's earlier accesses have been performed (R415, R468). -/
def Env.performed (x : Env) (s : State) : Nat := x.lanes.foldl (fun m l => max m ((x.tm.lane l).settled s.clock)) 0

/-- The acquire part: earlier loads' releases are observed at the fence's scope. -/
def fenceAcq (scope : Nat) (who : Who) (y : Lane) : Lane :=
  (y.seen.filter fun r => r.sees scope who).foldl (fun y r => y.acquire r.stamp) y

/-- The release part: every later store is a release at the fence's scope (Table 11-1). -/
def fenceRel (scope : Nat) (y : Lane) : Lane := { y with relF := (y.relF.filter (· != scope)) ++ [scope] }

def fenceBody (x : Env) (s : State) : Res :=
  let kind := bits x.v.imm 31 30
  let scope := bits x.v.imm 29 27
  let acq := kind.testBit 0
  let s := if acq && scope ≥ 4 then s.dropAperture x.t.die else s
  let s := if acq then s.modLanes x.t x.e fun _ y => fenceAcq scope x.who y else s
  let s := if kind.testBit 1 then s.modLanes x.t x.e fun _ y => fenceRel scope y else s
  let until_ (y : Lane) : Nat := if kind.testBit 1 then y.settled s.clock else y.performed (·.read) - s.clock
  ⟨s, 0, x.lanes.map fun l => (l, some (until_ (x.tm.lane l))), [], true⟩

def execFence (h : Hdr) (o : ImmForm) (s : State) : Host.Outcome State Fault Refusal :=
  issueWord (o.view 9 5 h) fenceBody s

end Sys2Proof.Machine
end

