-- ==== Sys2Proof/Machine/Sync.lean ====
section
/-! DEFINITION. Class 13, operations 0 to 10, and their events: barriers and timeline counters (R347 to R361). -/

namespace Sys2Proof.Machine

/-! ### Barriers and their scope (R347) -/

/-- A group's own barrier: private below b8, of the gang from b8 on. -/
def Group.ownBar (g : Group) (b : Nat) : BarRef := if b < 8 then .priv g.ref b else .gang ⟨g.ref.ctx, g.ref.rcb, g.gang⟩ b

/-- The barrier that a group names: the context barrier while its own is bound. -/
def State.barOf (s : State) (g : Group) (b : Nat) : BarRef :=
  match s.binds.find? (·.who == g.ownBar b) with
  | some x => .ctx g.ref.ctx x.n
  | none => g.ownBar b

def State.cbar (s : State) (ctx n : Nat) : CBar :=
  (s.cbars.find? fun c => c.ctx == ctx && c.n == n).getD ⟨ctx, n, 0, 0, 0⟩

/-- Scope of a barrier as a SCOPE code of Table 8-2. -/
def State.barScope (s : State) (r : BarRef) : Nat :=
  match r with
  | .priv .. => 0
  | .gang .. => 1
  | .ctx c n => (s.cbar c n).scope

/-- A context barrier's scope, measured from the first team that bound it, excludes a team. -/
def State.barExcludes (s : State) (r : BarRef) (t : TeamRef) : Bool :=
  match r with
  | .ctx c n =>
    let b := s.cbar c n
    if b.scope == 2 then !(b.die == t.die && b.core / 4 == t.core / 4)
    else if b.scope == 3 then b.die != t.die
    else false
  | _ => false

/-- Cycles from a phase's advance to the release of its waiters (Table 0-3, R351). -/
def State.barLatency (s : State) (r : BarRef) : Nat :=
  match s.barScope r with
  | 0 | 1 => 12
  | 2 => 40
  | 3 => 90
  | _ => 260

/-- The die that holds a barrier. -/
def State.barDie (s : State) (r : BarRef) : Nat :=
  match r with
  | .priv g _ => (s.groupOf g).die
  | .gang r _ => ((s.groups.find? fun g => g.ref.ctx == r.ctx && g.ref.rcb == r.rcb && g.gang == r.rank).getD default).die
  | .ctx c _ => match s.ctx? c with
    | some x => x.coord
    | none => 0

def State.bar (s : State) (r : BarRef) : Bar := (s.bar? r).getD default

/-- An event reaches a barrier in this cycle. -/
def State.atBar (s : State) (r : BarRef) (f : Bar → Bar) : State := (s.modBar r f).atEnd (.barrierPhaseAdvance r)

/-! ### Team arrivals (R349) -/

def Team.arrOf (t : Team) (b : Nat) : Lanes × Nat := t.arr.getD b (0, 0)

/-- Every lane of the team is in the mask of the barrier or has exited, and the mask is not empty. -/
def Team.arrived (t : Team) (b : Nat) : Bool :=
  let m := (t.arrOf b).1
  m != 0 && (List.range 32).all fun l => m.getLsbD l || (t.lane l).st == .exited

/-- Make a team's arrival where it is due; lanes that wait to arrive again go on. -/
def State.tryArrive (s : State) (t : TeamRef) (b : Nat) : State :=
  match s.team? t with
  | none => s
  | some tm =>
    if tm.arrived b then
      let (m, st) := tm.arrOf b
      let s := s.atBar (s.barOf (s.groupOf tm.grp) b) fun x => { x with arrs := x.arrs ++ [(tm.key (lowest m), st)] }
      let s := s.modTeam t fun x => { x with arr := updAt x.arr b fun _ => (0, 0) }
      s.wakeLanes t (tm.lanesIn fun l => l.wait == .arrival b)
    else s

/-- Arrivals that a team's exits complete. -/
def State.tryArriveAll (s : State) (t : TeamRef) : State := (List.range 16).foldl (fun s b => s.tryArrive t b) s

/-! ### The end of a cycle at a barrier (R350, R356) -/

/-- GEN has passed `x` (R357). -/
def genPassed (gen x : W16) : Bool :=
  let d := (gen - x).toNat
  1 ≤ d && d ≤ 0x7FFF

def Bar.refill (b : Bar) : Bar :=
  let k := min b.carry b.expect
  { b with arr := b.expect - k, carry := b.carry - k, touched := k > 0 }

def Bar.arrive (b : Bar) (stamp : Nat) : Bar :=
  let b := if b.arr > 0 then { b with arr := b.arr - 1 } else { b with carry := (b.carry + 1) % 2 ^ 16 }
  { b with touched := true, stamp := max b.stamp stamp }

/-- The generation that an arrival made now would belong to (R356). -/
def Bar.genOf (b : Bar) : W16 :=
  if b.arr > 0 then b.gen
  else
    let e := match b.pend with
      | some p => p
      | none => b.expect
    if e = 0 then b.gen + 1 else b.gen + BitVec.ofNat 16 (1 + b.carry / e)

def Bar.count (b : Bar) (u : Int × Nat) : Bar :=
  { b with bytes := toSigned 32 (wrap 32 (b.bytes + u.1)), touched := true, stamp := max b.stamp u.2 }

def Bar.member (b : Bar) (n : Nat) : Bar :=
  if b.touched then { b with pend := some n } else { b with expect := n }.refill

/-- The phase is complete. -/
def Bar.full (b : Bar) : Bool := b.touched && b.arr == 0 && b.bytes == 0

def Bar.advance (b : Bar) : Bar :=
  let b := { b with gen := b.gen + 1, done := max b.done b.stamp, stamp := 0 }
  let b := match b.pend with
    | some p => { b with expect := p, pend := none }
    | none => b
  b.refill

/-- The state an asking team's arrival meets: after the arrivals of the cycle that precede it. -/
def Bar.before (b : Bar) (key : Nat) : Bar :=
  ((sortBy (fun (a : Nat × Nat) => a.1) b.arrs).filter fun a => a.1 < key).foldl (fun b a => b.arrive a.2) b

/-- Apply the cycle's events, then advance at most once. -/
def Bar.endCycle (b : Bar) : Bar × Bool :=
  let arrs := sortBy (fun (a : Nat × Nat) => a.1) b.arrs
  let b1 := arrs.foldl (fun b a => b.arrive a.2) b
  let b2 := b1.counts.foldl Bar.count b1
  let b3 := (sortBy (fun (m : Nat × Nat) => m.1) b2.mems).foldl (fun b m => b.member m.2) b2
  let b4 := { b3 with arrs := [], counts := [], mems := [], asks := [] }
  if b4.full then (b4.advance, true) else (b4, false)

/-- Answer one `bar.arr` or `bar.sync`: the generation to D, and the wait of `bar.sync`. -/
def State.answer (s : State) (gen : W16) (q : BarAsk) : State :=
  let s := if q.dst.isNone then s else s.modLanes q.team q.lanes fun _ y => writeG q.dst 1 gen.toNat y
  if q.sync then s.modLanes q.team q.lanes fun _ y => if y.wait == .bar q.num 0 then { y with wait := .bar q.num gen } else y
  else s

/-- Waiting lanes of a barrier that satisfy `p` on the generation they await. -/
def State.barWaits (s : State) (r : BarRef) (p : W16 → Bool) (t : Team) (l : Lane) : Bool :=
  match l.wait with
  | .bar b x => s.barOf (s.groupOf t.grp) b == r && p x
  | _ => false

/-- Lanes whose awaited generation has passed will be released after the barrier's latency (R351). -/
def State.satisfyBar (s : State) (r : BarRef) : State :=
  let gen := (s.bar r).gen
  (s.wakeIn (s.barLatency r) (s.barWaits r (genPassed gen))).after (s.barLatency r) (.barrierWaiterRelease r)

/-- BARRIER_PHASE_ADVANCE (R350): the end of a cycle at one barrier. -/
def barrierPhaseAdvance (r : BarRef) (s : State) : State :=
  match s.bar? r with
  | none => s
  | some b =>
    let s := b.asks.foldl (fun s q => s.answer (b.before q.key).genOf q) s
    let (b', adv) := b.endCycle
    let s := s.modBar r fun _ => b'
    if adv then (s.bump (s.barDie r) 0xC10 31 0).satisfyBar r else s

/-- Lanes of a team acquire a barrier's DONE, at the barrier's scope: at package scope their die drops its aperture lines (R230, R351). -/
def State.barAcquire (s : State) (r : BarRef) (t : TeamRef) (m : Lanes) : State :=
  (s.lanesDrop t.die m (s.barScope r)).modLanes t m fun _ y => y.acquire (s.bar r).done

/-- BARRIER_WAITER_RELEASE (R351): the released lanes go on, each horizon raised to DONE. -/
def barrierWaiterRelease (r : BarRef) (s : State) : State :=
  (s.dueLanes (s.barWaits r fun _ => true)).foldl (fun s x => (s.barAcquire r x.1 x.2).passLanes x.1 x.2 (s.bar r).done) s

/-- Look again at a barrier that returned lanes wait on. -/
def State.rewaitBar (s : State) (t : TeamRef) (b : Nat) : State :=
  match s.team? t with
  | some tm => s.satisfyBar (s.barOf (s.groupOf tm.grp) b)
  | none => s

def execBarrierPhaseAdvance (s : State) : Host.Outcome State Fault Refusal :=
  match s.ev with
  | some (.barrierPhaseAdvance r) => .next (barrierPhaseAdvance r { s with ev := none })
  | _ => .fault .noEvent

def execBarrierWaiterRelease (s : State) : Host.Outcome State Fault Refusal :=
  match s.ev with
  | some (.barrierWaiterRelease r) => .next (barrierWaiterRelease r { s with ev := none })
  | _ => .fault .noEvent

/-! ### Instructions on barriers -/

def Env.group (x : Env) (s : State) : Group := s.groupOf x.tm.grp
/-- The barrier that operand A names. -/
def Env.bar (x : Env) (s : State) : BarRef := s.barOf (x.group s) x.v.a.idx

/-- Context barrier number for a trap's detail. -/
def barNum (r : BarRef) : Nat :=
  match r with
  | .priv _ b => b
  | .gang _ b => b
  | .ctx _ n => n

def Env.barTrap (x : Env) (kind d1 : Nat) (s : State) : Res := .all s x (.trap (.simple kind x.v.a.idx d1))

/-- Barrier-scope trap of Table 11-8 where the scope excludes the team; else `f`. -/
def Env.barScoped (x : Env) (s : State) (f : BarRef → Res) : Res :=
  let r := x.bar s
  if s.barExcludes r x.t then x.barTrap 0x16 (barNum r) s else f r

/-- Add lanes to the team's arrival mask, each with its release (R349, R356). -/
def Env.arrive (x : Env) (m : Lanes) (sync : Bool) (r : BarRef) (s : State) : State :=
  let b := x.v.a.idx
  let (st, s) := s.releaseLanes x.t m
  let s := s.modTeam x.t fun t => { t with arr := updAt t.arr b fun a => (a.1 ||| m, max a.2 st) }
  let all := match s.team? x.t with
    | some tm => (tm.arrOf b).1
    | none => m
  let s := if x.v.d.isNone && !sync then s else
    s.atBar r fun y => { y with asks := y.asks ++ [⟨x.tm.key (lowest all), x.v.a.idx, x.t, m, x.v.d, sync⟩] }
  s.tryArrive x.t b

/-- `bar.arr` (R356); lanes whose bit is set wait at the instruction. -/
def barArrBody (x : Env) (s : State) : Res :=
  x.barScoped s fun r =>
    let b := x.v.a.idx
    let again := x.e &&& (x.tm.arrOf b).1
    let first := pick x.e fun l => !again.getLsbD l
    let s := s.waitLanes x.t again (.arrival b)
    let s := if first = 0 then s else x.arrive first false r s
    ⟨s, if x.v.d.isNone then 0 else 4, [], (lanesOf again).map fun l => (l, .stay), false⟩

def execBarArr (h : Hdr) (o : RegForm) (s : State) : Host.Outcome State Fault Refusal :=
  issueWord (o.view 13 0 h) barArrBody s

/-- `bar.sync` (R356): `bar.arr`, then the wait for its generation in the same lanes. -/
def barSyncBody (x : Env) (s : State) : Res :=
  x.barScoped s fun r =>
    let b := x.v.a.idx
    let again := x.e &&& (x.tm.arrOf b).1
    let first := pick x.e fun l => !again.getLsbD l
    let s := s.waitLanes x.t again (.arrival b)
    let s := s.waitLanes x.t first (.bar b 0)
    let s := if first = 0 then s else x.arrive first true r s
    .all s x .stay

def execBarSync (h : Hdr) (o : RegForm) (s : State) : Host.Outcome State Fault Refusal :=
  issueWord (o.view 13 2 h) barSyncBody s

/-- `bar.wait` (R357): each lane goes on where GEN has passed its B, and waits otherwise. -/
def barWaitBody (x : Env) (s : State) : Res :=
  x.barScoped s fun r =>
    let b := s.bar r
    let want (l : Nat) : W16 := BitVec.ofNat 16 (x.b l 32)
    let ok := pick x.e fun l => genPassed b.gen (want l)
    let no := pick x.e fun l => !genPassed b.gen (want l)
    let s := s.barAcquire r x.t ok
    let s := s.modLanes x.t no fun l y => { y with st := .op, wait := .bar x.v.a.idx (want l), wakeAt := none }
    ⟨s, 0, [], (lanesOf no).map fun l => (l, .stay), false⟩

def execBarWait (h : Hdr) (o : RegForm) (s : State) : Host.Outcome State Fault Refusal :=
  issueWord (o.view 13 1 h) barWaitBody s

/-- `bar.bytes` (R358). -/
def barBytesBody (x : Env) (s : State) : Res :=
  x.barScoped s fun r =>
    let n := x.b0 32
    if n > 2 ^ 24 then x.barTrap 0x17 n s
    else
      let (st, s) := s.release x.t.die (s.lane x.t x.l0).horizon
      .ok (s.atBar r fun y => { y with counts := y.counts ++ [((n : Int), st)] }) 0

def execBarBytes (h : Hdr) (o : RegForm) (s : State) : Host.Outcome State Fault Refusal :=
  issueWord (o.view 13 3 h) barBytesBody s

/-- Largest membership count of a barrier (R359). -/
def State.barLimit (s : State) (r : BarRef) : Nat :=
  match r with
  | .priv .. => 16
  | .gang .. => 64
  | .ctx c n => match (s.cbar c n).scope with
    | 2 => 1024
    | 3 => 8192
    | _ => 32768

/-- `bar.mem` with BIND = 0 (R350, R359). -/
def barMemBody (x : Env) (s : State) : Res :=
  x.barScoped s fun r =>
    let n := x.b0 32
    if n > s.barLimit r then x.barTrap 0x17 n s
    else .ok (s.atBar r fun y => { y with mems := y.mems ++ [(x.key, n)] }) 0

def execBarMem (h : Hdr) (o : RegForm) (s : State) : Host.Outcome State Fault Refusal :=
  issueWord (o.view 13 4 h) barMemBody s

/-- A barrier that may not be bound or unbound: touched, with waiters, or with a team arrival pending (R359). -/
def State.barBusy (s : State) (r : BarRef) : Bool :=
  let b := s.bar r
  b.touched || !b.arrs.isEmpty || !b.counts.isEmpty ||
  s.teams.any fun t => (List.range 16).any fun n =>
    s.barOf (s.groupOf t.grp) n == r &&
      ((t.arrOf n).1 != 0 || t.lanes.any fun l => l.st == .op && (match l.wait with
        | .bar k _ | .arrival k => k == n
        | _ => false))

/-- `bar.mem.bind` (R359): a first binding of an untouched context barrier sets its scope and place. -/
def barMemBindBody (x : Env) (s : State) : Res :=
  let n := x.b0 32
  let own := (x.group s).ownBar x.v.a.idx
  if n > 63 then x.barTrap 0x17 n s
  else if s.barBusy (x.bar s) then x.barTrap 0x18 n s
  else
    let r : BarRef := .ctx x.ctx n
    let bound (who : BarRef) : Bool := match who with
      | .priv g _ => g.ctx == x.ctx
      | .gang g _ => g.ctx == x.ctx
      | .ctx .. => false
    let first := !(s.binds.any fun y => y.n == n && bound y.who) && !(s.bar r).touched
    let cb : CBar := ⟨x.ctx, n, bits x.v.opt 6 4, x.t.die, x.t.core⟩
    let s := if first then { s with cbars := (s.cbars.filter fun c => !(c.ctx == x.ctx && c.n == n)) ++ [cb] } else s
    .ok { s with binds := (s.binds.filter (·.who != own)) ++ [⟨own, n⟩] } 0

def execBarMemBind (h : Hdr) (o : RegForm) (s : State) : Host.Outcome State Fault Refusal :=
  issueWord (o.view 13 4 h) barMemBindBody s

/-- `bar.mem.unbind` (R359): the barrier returns to its own state. -/
def barMemUnbindBody (x : Env) (s : State) : Res :=
  let own := (x.group s).ownBar x.v.a.idx
  if s.barBusy (x.bar s) then x.barTrap 0x18 (x.b0 32) s
  else .ok { s with binds := s.binds.filter (·.who != own) } 0

def execBarMemUnbind (h : Hdr) (o : RegForm) (s : State) : Host.Outcome State Fault Refusal :=
  issueWord (o.view 13 4 h) barMemUnbindBody s

/-! ### Timeline counters (R353, R360, R361) -/

def Group.tc (g : Group) (i : Nat) : Timeline := g.tcs.getD i ⟨0, 0, 0, []⟩

/-- Move V over the completed numbers that follow it, taking their stamps. -/
def Timeline.settle (t : Timeline) : Nat → Timeline
  | 0 => t
  | n + 1 =>
    match t.done.find? (·.1 == t.v + 1) with
    | some d => { t with v := t.v + 1, stamp := max t.stamp d.2
                         done := t.done.filter (·.1 != t.v + 1) }.settle n
    | none => t

/-- A number of a counter completes. -/
def Timeline.complete (t : Timeline) (n : W64) (stamp : Nat) : Timeline :=
  let u := { t with done := t.done ++ [(n, stamp)] }
  u.settle u.done.length

/-- Lanes of a group waiting on a counter whose value has reached their threshold. -/
def tlReached (g : GroupRef) (tc : Nat) (v : W64) (t : Team) (l : Lane) : Bool :=
  match l.wait with
  | .timeline c x => t.grp == g && c == tc && x ≤ v
  | _ => false

/-- TL_SIG_COMPLETE (R353): a number completes, V grows, and waiters that it satisfies go on 4 cycles later. The number of a `tl.sig` waits
on for accesses that have been delayed since (R360). -/
def tlSigComplete (g : GroupRef) (tc n stamp : Nat) (after : Option Settle) (s : State) : State :=
  if after.any fun w => !s.settledNow w then s.after 1 (.tlSigComplete g tc n stamp after) else
  let s := s.modGroup g fun x => { x with tcs := updAt x.tcs tc fun t => t.complete (BitVec.ofNat 64 n) stamp }
  let v := ((s.groupOf g).tc tc).v
  (s.wakeIn 4 (tlReached g tc v)).after 4 (.timelineWaiterWake g tc)

/-- TIMELINE_WAITER_WAKE (R361). -/
def timelineWaiterWake (g : GroupRef) (tc : Nat) (s : State) : State :=
  let t := (s.groupOf g).tc tc
  (s.dueLanes (tlReached g tc t.v)).foldl (fun s x => s.passLanes x.1 x.2 t.stamp) s

def execTlSigComplete (s : State) : Host.Outcome State Fault Refusal :=
  match s.ev with
  | some (.tlSigComplete g tc n stamp w) => .next (tlSigComplete g tc n stamp w { s with ev := none })
  | _ => .fault .noEvent

def execTimelineWaiterWake (s : State) : Host.Outcome State Fault Refusal :=
  match s.ev with
  | some (.timelineWaiterWake g tc) => .next (timelineWaiterWake g tc { s with ev := none })
  | _ => .fault .noEvent

/-- Issue the next number of a counter (R353). -/
def State.issueNumber (s : State) (g : GroupRef) (tc : Nat) : W64 × State :=
  let n := ((s.groupOf g).tc tc).n + 1
  (n, s.modGroup g fun x => { x with tcs := updAt x.tcs tc fun t => { t with n := n } })

/-- Cycles until every lane's earlier accesses have been performed, at least 4 (R360). -/
def Env.settled (x : Env) (s : State) : Nat :=
  x.lanes.foldl (fun m l => max m ((x.tm.lane l).settled s.clock)) 4

def tlSigBody (x : Env) (s : State) : Res :=
  let tc := x.v.a.idx
  let g := x.tm.grp
  let (n, s) := s.issueNumber g tc
  let (st, s) := s.releaseLanes x.t x.e
  let s := s.after (x.settled s) (.tlSigComplete g tc n.toNat st (some ⟨x.t, x.e, s.clock⟩))
  let s := if x.v.d.isNone then s else x.putOne s x.v.d 2 n.toNat 4
  .ok s (if x.v.d.isNone then 0 else 4)

def execTlSig (h : Hdr) (o : RegForm) (s : State) : Host.Outcome State Fault Refusal :=
  issueWord (o.view 13 8 h) tlSigBody s

def tlWaitBody (x : Env) (s : State) : Res :=
  let tc := x.v.a.idx
  let t := (x.group s).tc tc
  let want (l : Nat) : W64 := BitVec.ofNat 64 (x.b l 64)
  let ok := pick x.e fun l => want l ≤ t.v
  let no := pick x.e fun l => !(want l ≤ t.v)
  let s := s.modLanes x.t ok fun _ y => y.acquire t.stamp
  let s := s.modLanes x.t no fun l y => { y with st := .op, wait := .timeline tc (want l), wakeAt := none }
  ⟨s, 0, [], (lanesOf no).map fun l => (l, .stay), false⟩

def execTlWait (h : Hdr) (o : RegForm) (s : State) : Host.Outcome State Fault Refusal :=
  issueWord (o.view 13 9 h) tlWaitBody s

def tlRdBody (x : Env) (s : State) : Res :=
  let t := (x.group s).tc x.v.a.idx
  let iss := bits x.v.opt 0 0 == 1
  let s := if iss then s else s.modLanes x.t x.e fun _ y => y.acquire t.stamp
  .ok (x.putOne s x.v.d 2 (if iss then t.n else t.v).toNat 4) 4

def execTlRd (h : Hdr) (o : RegForm) (s : State) : Host.Outcome State Fault Refusal :=
  issueWord (o.view 13 10 h) tlRdBody s

end Sys2Proof.Machine
end

