-- ==== Sys2Proof/Machine/LogicalTime.lean ====
section
/-! DEFINITION. Class 13, operations 16 to 21: logical times, Tideline counts and frontiers (R363 to R377, R383 to R386). -/

namespace Sys2Proof.Machine

/-! ### Times and summaries (R363, R366) -/

/-- NONE. -/
def noTime : W64 := 0xFFFFFFFFFFFFFFFF

/-- Level `k` of a time; level 0 is outermost. -/
def lev (t : W64) (k : Nat) : Nat := bits t.toNat (63 - 16 * k) (48 - 16 * k)

/-- The levels of `t` below `k`, then `x` at level `k`, then zeros. -/
def cutTime (t : W64) (k x : Nat) : W64 :=
  let sh := 48 - 16 * k
  BitVec.ofNat 64 (t.toNat / 2 ^ (sh + 16) * 2 ^ (sh + 16) + x * 2 ^ sh)

/-- Advance of Table 12-1. -/
def advance (k s : Nat) (t : W64) : Option W64 :=
  if lev t k + s > 0xFFFF then none else some (cutTime t k (lev t k + s))

/-- PSOP, PSLEVEL and PSSTEP of a PATH field (Table 1-5). -/
def psOp (p : W16) : Nat := bits p.toNat 15 14
def psLevel (p : W16) : Nat := bits p.toNat 13 12
def psStep (p : W16) : Nat := bits p.toNat 11 0

/-- A summary applied to a time (Table 12-1). -/
def summary (p : W16) (t : W64) : Option W64 :=
  match psOp p with
  | 0 => some t
  | 1 => advance (psLevel p) (psStep p) t
  | _ => some (cutTime t (psLevel p) 0)

/-! ### The plan graph (R365, R367) -/

/-- The stages at the ends of a pipe; one on a peer device is that plan's there. -/
def Pipe.prodLoc (p : Pipe) : Loc := if p.prem then .far p.peer p.prod else .stage p.prod
def Pipe.consLoc (p : Pipe) : Loc := if p.crem then .far p.peer p.cons else .stage p.cons

/-- Edges out of a location, with the summary of each: identity is PATH 0. -/
def edges (ps : List Pipe) (l : Loc) : List (Loc × W16) :=
  match l with
  | .pipe w => (ps.filter fun p => p.ref.w == w).map fun p => (p.consLoc, 0)
  | _ => (ps.filter fun p => p.prodLoc == l).map fun p => (.pipe p.ref.w, p.path)

/-- Locations of a plan's pipes on peer devices. -/
def farLocs (ps : List Pipe) : List Loc :=
  (ps.filterMap fun p => if p.prem then some p.prodLoc else if p.crem then some p.consLoc else none).dedup

/-- Locations on one plan: 16 stages, 32 pipes, and a stage on a peer device for each pipe. -/
def locMax : Nat := 80

/-- Where a time reaches along the simple paths from a location, the empty path included. -/
def flow (ps : List Pipe) : Nat → List Loc → Loc → W64 → List (Loc × W64)
  | 0, _, l, t => [(l, t)]
  | n + 1, seen, l, t =>
    (l, t) :: (edges ps l).flatMap fun e =>
      if seen.contains e.1 then [] else
      match summary e.2 t with
      | some u => flow ps n (e.1 :: seen) e.1 u
      | none => []

/-- Simple paths of one or more edges from a location, counted. -/
def pathCount (ps : List Pipe) : Nat → List Loc → Loc → Nat
  | 0, _, _ => 0
  | n + 1, seen, l => ((edges ps l).map fun e =>
      if seen.contains e.1 then 0 else 1 + pathCount ps n (e.1 :: seen) e.1).sum

/-- The summaries along each simple cycle through `start`. -/
def cyclesFrom (ps : List Pipe) (start : Loc) : Nat → List Loc → Loc → List W16 → List (List W16)
  | 0, _, _, _ => []
  | n + 1, seen, l, acc => (edges ps l).flatMap fun e =>
      if e.1 == start then [acc ++ [e.2]]
      else if seen.contains e.1 then [] else cyclesFrom ps start n (e.1 :: seen) e.1 (acc ++ [e.2])

/-- A cycle strictly increases every time: at the smallest level of its non-identity pipes there is an advance and no enter
or leave. -/
def cycleOk (c : List W16) : Bool :=
  let moves := c.filter fun p => psOp p != 0
  let k := moves.foldl (fun m p => min m (psLevel p)) 4
  let at_ := moves.filter fun p => psLevel p == k
  at_.any (fun p => psOp p == 1) && at_.all fun p => psOp p == 1

/-- The graph check at RESUME (R367). -/
def graphOk (nstages : Nat) (ps : List Pipe) : Bool :=
  let locs : List Loc := (List.range nstages).map Loc.stage ++ ps.map (fun p => .pipe p.ref.w) ++ farLocs ps
  ((locs.map fun l => pathCount ps locMax [l] l).sum ≤ 1024) &&
  locs.all fun l => (cyclesFrom ps l (locMax + 1) [l] l []).all cycleOk

/-! ### Replicas and frontiers (R371, R372, R375) -/

def planPipes (s : State) (ctx rcb : Nat) : List Pipe :=
  s.pipes.filter fun p => p.ref.ctx == ctx && p.ref.rcb == rcb

/-- Frontier of a location of a plan in a replica. -/
def frontierOf (es : List TlEntry) (ps : List Pipe) (ctx rcb : Nat) (l : Loc) : W64 :=
  let live := es.filter fun e => e.ctx == ctx && e.rcb == rcb && e.n > 0
  (live.flatMap fun e => flow ps locMax [e.loc] e.loc e.time).foldl (fun f x =>
    if x.1 == l && x.2 < f then x.2 else f) noTime

/-- The frontier that the threads of a die read. -/
def State.frontier (s : State) (d ctx rcb : Nat) (l : Loc) : W64 :=
  frontierOf (s.die d).vis (planPipes s ctx rcb) ctx rcb l

/-- Add `n` to the count at (location, time). -/
def addCount (ctx rcb : Nat) (n : Int) (es : List TlEntry) (c : Loc × W64) : List TlEntry :=
  let p (e : TlEntry) := e.ctx == ctx && e.rcb == rcb && e.loc == c.1 && e.time == c.2
  upsert es p ⟨ctx, rcb, c.1, c.2, 0⟩ fun e => { e with n := e.n + n }

/-- A batch on a replica, before zero entries are freed: increments, then decrements. -/
def batchOn (b : Batch) (es : List TlEntry) : List TlEntry :=
  let es := b.incs.foldl (addCount b.plan.ctx b.plan.rcb 1) es
  b.decs.foldl (addCount b.plan.ctx b.plan.rcb (-1)) es

/-- The batch needs a new entry while the table is full (R374). -/
def batchFits (b : Batch) (es : List TlEntry) : Bool :=
  let n := (batchOn b es).length
  n == es.length || n ≤ 4096

/-- Key of a plan in a node's stamps. -/
def planKey (p : PlanRef) : Nat := p.ctx * 2 ^ 48 + p.rcb

/-- Apply a batch at a node: counts, stamps of decrements, and the frontiers four cycles later. -/
def State.applyBatch (s : State) (d : Nat) (b : Batch) : State :=
  let s := s.modDie d fun x =>
    let es := (batchOn b x.repl).filter fun e => e.n != 0
    let k := planKey b.plan
    { x with repl := es
             snaps := x.snaps ++ [(s.clock + 4, es)]
             stamps := if b.decs.isEmpty then x.stamps else putKey x.stamps k (max (lookD x.stamps k 0) b.stamp) }
  (s.bump d 0xD08 31 0).after 4 (.frontierRecompute d)

/-- The first held batch that may apply: none of its source stands before it, and it fits. -/
def nextHeld (es : List TlEntry) (seen : List Nat) : List Batch → Option Batch
  | [] => none
  | b :: t => if !seen.contains b.src && batchFits b es then some b else nextHeld es (b.src :: seen) t

/-- Apply held batches while one fits. -/
def State.retryHeld (s : State) (d : Nat) : Nat → State
  | 0 => s
  | n + 1 =>
    match nextHeld (s.die d).repl [] (s.die d).held with
    | none => s
    | some b =>
      ((s.modDie d fun x => { x with held := x.held.erase b }).applyBatch d b).retryHeld d n

/-- A node holds a batch (R374). -/
def State.holdBatch (s : State) (d : Nat) (b : Batch) : State :=
  (s.modDie d fun x => { x with held := x.held ++ [{ b with came := s.clock }] }).after (2 ^ 20) (.tidelineHeldTimeout d)

/-- Entries of the nodes have been freed: held batches that fit now apply (R374). -/
def State.retryNodes (s : State) : State := (List.range 4).foldl (fun s d => s.retryHeld d (s.die d).held.length) s

/-- TIDELINE_BATCH_APPLY (R372, R374): the batch applies, or waits behind its source's batches or for an entry. -/
def tidelineBatchApply (d : Nat) (b : Batch) (s : State) : State :=
  let x := s.die d
  if x.held.any (·.src == b.src) || !batchFits b x.repl then s.holdBatch d b
  else
    let s := s.applyBatch d b
    s.retryHeld d (s.die d).held.length

/-- A waiting lane whose time has passed at its location, on its die's node. -/
def State.frontierPassed (s : State) (t : Team) (l : Lane) : Bool :=
  match l.wait with
  | .frontier loc x => x < s.frontier t.ref.die t.grp.ctx (s.groupOf t.grp).rcb loc
  | _ => false

/-- FRONTIER_RECOMPUTE (R371, R373): the counts applied four cycles ago are seen; lanes whose time has passed go on four
cycles later. -/
def frontierRecompute (d : Nat) (s : State) : State :=
  let s := s.modDie d fun x =>
    let now := x.snaps.filter fun e => e.1 ≤ s.clock
    { x with vis := match now.getLast? with
               | some e => e.2
               | none => x.vis
             snaps := x.snaps.filter fun e => e.1 > s.clock }
  let p (t : Team) (l : Lane) : Bool := t.ref.die == d && l.wakeAt.isNone && s.frontierPassed t l
  let ls := s.lanesWhere fun t l => l.st == .op && p t l
  let s := s.wakeIn 4 p
  ls.foldl (fun s x => (lanesOf x.2).foldl (fun s l => s.after 4 (.frontierWaiterRelease x.1 l)) s) s

/-- Largest stamp of the decrements that a node has applied for a plan (R377). -/
def State.tlStamp (s : State) (d ctx rcb : Nat) : Nat := lookD (s.die d).stamps (planKey ⟨ctx, rcb⟩) 0

/-- FRONTIER_WAITER_RELEASE (R373), an acquire at pod scope (R377). -/
def frontierWaiterRelease (t : TeamRef) (l : Nat) (s : State) : State :=
  match s.team? t with
  | none => s
  | some tm =>
    let st := s.tlStamp t.die tm.grp.ctx (s.groupOf tm.grp).rcb
    (s.dueLanes fun x y => x.ref == t && (match y.wait with
      | .frontier .. => true
      | _ => false)).foldl (fun s x =>
        let m := x.2 &&& (1#32 <<< l)
        (s.lanesDrop t.die m 5).passLanes x.1 m st) s

/-- TIDELINE_HELD_TIMEOUT (R374): a batch that has waited for 2^20 cycles raises the plan fault and keeps waiting. -/
def tidelineHeldTimeout (d : Nat) (s : State) : State :=
  ((s.die d).held.filter fun b => b.came + 2 ^ 20 == s.clock).foldl (fun s b =>
    s.unitRec d 0x30 b.plan.ctx 2 (BitVec.ofNat 64 b.plan.rcb) 0 (.plan b.plan.rcb)) s

def execTidelineBatchApply (s : State) : Host.Outcome State Fault Refusal :=
  match s.ev with
  | some (.tidelineBatchApply d b) =>
    if d < 4 then .next (tidelineBatchApply d b { s with ev := none }) else .fault .noUnit
  | _ => .fault .noEvent

def execFrontierRecompute (s : State) : Host.Outcome State Fault Refusal :=
  match s.ev with
  | some (.frontierRecompute d) =>
    if d < 4 then .next (frontierRecompute d { s with ev := none }) else .fault .noUnit
  | _ => .fault .noEvent

def execFrontierWaiterRelease (s : State) : Host.Outcome State Fault Refusal :=
  match s.ev with
  | some (.frontierWaiterRelease t l) => .next (frontierWaiterRelease t l { s with ev := none })
  | _ => .fault .noEvent

def execTidelineHeldTimeout (s : State) : Host.Outcome State Fault Refusal :=
  match s.ev with
  | some (.tidelineHeldTimeout d) =>
    if d < 4 then .next (tidelineHeldTimeout d { s with ev := none }) else .fault .noUnit
  | _ => .fault .noEvent

/-! ### Forming batches (R368, R373) -/

/-- Schedule a batch at a node, after the batches of its source that precede it in the cycle. -/
def State.sendBatch (s : State) (n d : Nat) (b : Batch) : State :=
  let due := s.clock + n
  let later (e : Nat × Event) : Bool := match e.2 with
    | .tidelineBatchApply d' c => e.1 == due && d' == d && c.src == b.src && c.key > b.key
    | _ => false
  let (lo, hi) := s.agenda.span fun e => !later e
  { s with agenda := lo ++ (due, .tidelineBatchApply d b) :: hi }

/-- Devices that share a cross-device pipe with a plan. -/
def State.peersOf (s : State) (ctx rcb : Nat) : List Nat :=
  (((planPipes s ctx rcb).filter fun p => p.prem || p.crem).map (·.peer)).dedup

/-- A batch of a die's node that may form from cycle `formed` on: it reaches its own node 12 cycles later and the others 180,
and none before now. It goes to the peers as well. -/
def State.formBatchAt (s : State) (formed d : Nat) (plan : PlanRef) (incs decs : List (Loc × W64)) (stamp key : Nat) : State :=
  let b : Batch := { plan := plan, src := d, incs := incs, decs := decs, stamp := stamp, key := key, came := 0 }
  let s := (List.range 4).foldl (fun s n =>
    let lat := if n == d then 12 else 180 + s.reroute d n
    s.sendBatch (formed + lat - s.clock) n b) s
  (s.peersOf plan.ctx plan.rcb).foldl (fun s p => s.postMsg d plan p (max formed s.clock) (.batch b)) s

/-- Form a batch at a die's node: it travels to every replica. -/
def State.formBatch (s : State) (d : Nat) (plan : PlanRef) (incs decs : List (Loc × W64)) (stamp key : Nat) : State :=
  s.formBatchAt s.clock d plan incs decs stamp key

/-! ### Capabilities (R369, R370) -/

/-- The stage of a group. -/
def State.stageOf (s : State) (g : Group) : Stage :=
  match s.plan? g.ref.ctx g.rcb with
  | some p => p.stages.getD g.stage default
  | none => default

def State.modStage (s : State) (ctx rcb st : Nat) (f : Stage → Stage) : State :=
  s.modPlan ctx rcb fun p => { p with stages := updAt p.stages st f }

/-- Times of the tiles that a group has taken and not released. -/
def State.takenTimes (s : State) (g : GroupRef) : List W64 :=
  s.pipes.flatMap fun p =>
    ((p.slots.filter fun x => x.st == .taken && x.holder == some g && !x.isVoid).map (·.time)) ++
    ((p.spilled.filter fun x => x.holder == some g && !x.gone).map (·.time))

/-- The capability set of a group. -/
def State.caps (s : State) (g : Group) : List W64 :=
  let tasks := match s.ctx? g.ref.ctx with
    | some c => (c.tasks.filter fun t => g.running.contains t.n).map (·.ltime)
    | none => []
  g.holds.map (·.1) ++ s.takenTimes g.ref ++ tasks ++ (s.stageOf g).root.toList

/-- A member of the set is at or before the time. -/
def State.covered (s : State) (g : Group) (t : W64) : Bool := (s.caps g).any fun c => c ≤ t

/-! ### The instructions -/

/-- Logical-time fault with a detail; DETAIL1 is the time. -/
def ltInfo (detail d1 : Nat) : TrapInfo := .simple 0x19 detail d1

/-- `lt.set` (R384). -/
def ltSetBody (x : Env) (s : State) : Res :=
  let t (l : Nat) : W64 := BitVec.ofNat 64 (x.a l 64)
  let ok := pick x.e fun l => t l != noTime
  let s := s.modLanes x.t ok fun l y => { y with ltnow := t l }
  ⟨s, 0, [], (x.lanes.filter fun l => t l == noTime).map fun l => (l, .trap (ltInfo 3 noTime.toNat)), false⟩

def execLtSet (h : Hdr) (o : RegForm) (s : State) : Host.Outcome State Fault Refusal :=
  issueWord (o.view 13 16 h) ltSetBody s

/-- `lt.adv` (R384): a level beyond 0xFFFF, or a result of NONE, traps the lane. -/
def ltAdvBody (x : Env) (s : State) : Res :=
  let k := x.v.a.opt
  let new (l : Nat) : Option W64 := match advance k (x.b l 32) (x.tm.lane l).ltnow with
    | some t => if t == noTime then none else some t
    | none => none
  let s := s.modLanes x.t x.e fun l y => match new l with
    | some t => { y with ltnow := t }
    | none => y
  ⟨s, 0, [], (x.lanes.filter fun l => (new l).isNone).map fun l =>
    (l, .trap (ltInfo 3 (x.tm.lane l).ltnow.toNat)), false⟩

def execLtAdv (h : Hdr) (o : RegForm) (s : State) : Host.Outcome State Fault Refusal :=
  issueWord (o.view 13 17 h) ltAdvBody s

/-- The plan of a group. -/
def Group.plan (g : Group) : PlanRef := ⟨g.ref.ctx, g.rcb⟩

/-- A stamp of the lowest lane's release (R377). -/
def Env.release0 (x : Env) (s : State) : Nat × State := s.release x.t.die (s.lane x.t x.l0).horizon

/-- `lt.hold t` (R369, R385). -/
def ltHoldBody (x : Env) (s : State) : Res :=
  let t := x.time0 x.v.a
  let g := x.group s
  let cur := (g.holds.find? (·.1 == t)).map (·.2)
  if t == noTime then .all s x (.trap (ltInfo 3 t.toNat))
  else if !s.covered g t then .all s x (.trap (ltInfo 1 t.toNat))
  else if (cur.isNone && g.holds.length ≥ 8) || cur == some 65535 then .all s x (.trap (ltInfo 4 t.toNat))
  else
    let s := s.modGroup g.ref fun y => { y with
      holds := upsert y.holds (·.1 == t) (t, 0) fun h => (h.1, h.2 + 1) }
    .ok (s.formBatch x.t.die g.plan [(.stage g.stage, t)] [] 0 x.key) 0

def execLtHold (h : Hdr) (o : RegForm) (s : State) : Host.Outcome State Fault Refusal :=
  issueWord (o.view 13 18 h) ltHoldBody s

/-- `lt.hold.root t` (R370): the root moves forward. -/
def ltHoldRootBody (x : Env) (s : State) : Res :=
  let t := x.time0 x.v.a
  let g := x.group s
  if t == noTime then .all s x (.trap (ltInfo 3 t.toNat))
  else match (s.stageOf g).root with
    | none => .all s x (.trap (ltInfo 2 t.toNat))
    | some old =>
      if t < old then .all s x (.trap (ltInfo 5 t.toNat))
      else
        let (st, s) := x.release0 s
        let s := s.modStage g.ref.ctx g.rcb g.stage fun y => { y with root := some t }
        .ok (s.formBatch x.t.die g.plan [(.stage g.stage, t)] [(.stage g.stage, old)] st x.key) 0

def execLtHoldRoot (h : Hdr) (o : RegForm) (s : State) : Host.Outcome State Fault Refusal :=
  issueWord (o.view 13 18 h) ltHoldRootBody s

/-- `lt.drop t` (R385). -/
def ltDropBody (x : Env) (s : State) : Res :=
  let t := x.time0 x.v.a
  let g := x.group s
  if !g.holds.any (·.1 == t) then .all s x (.trap (ltInfo 2 t.toNat))
  else
    let (st, s) := x.release0 s
    let s := s.modGroup g.ref fun y => { y with
      holds := (updIf y.holds (·.1 == t) fun h => (h.1, h.2 - 1)).filter (·.2 != 0) }
    .ok (s.formBatch x.t.die g.plan [] [(.stage g.stage, t)] st x.key) 0

def execLtDrop (h : Hdr) (o : RegForm) (s : State) : Host.Outcome State Fault Refusal :=
  issueWord (o.view 13 19 h) ltDropBody s

/-- `lt.drop.root` (R370). -/
def ltDropRootBody (x : Env) (s : State) : Res :=
  let g := x.group s
  match (s.stageOf g).root with
  | none => .all s x (.trap (ltInfo 2 0))
  | some old =>
    let (st, s) := x.release0 s
    let s := s.modStage g.ref.ctx g.rcb g.stage fun y => { y with root := none }
    .ok (s.formBatch x.t.die g.plan [] [(.stage g.stage, old)] st x.key) 0

def execLtDropRoot (h : Hdr) (o : RegForm) (s : State) : Host.Outcome State Fault Refusal :=
  issueWord (o.view 13 19 h) ltDropRootBody s

/-- The location that operand A names, or its trap (R386). -/
def Env.location (x : Env) (s : State) : Except TrapInfo Loc :=
  let g := x.group s
  match x.v.a with
  | .i v =>
    let n := match s.plan? g.ref.ctx g.rcb with
      | some p => p.stages.length
      | none => 0
    if v.toNat < n then .ok (.stage v.toNat) else .error (ltInfo 6 v.toNat)
  | o =>
    if (s.pipe? ⟨g.ref.ctx, g.rcb, o.idx⟩).isSome then .ok (.pipe o.idx) else .error (.simple 0x14 0 o.idx)

/-- `lt.front` (R386). -/
def ltFrontBody (x : Env) (s : State) : Res :=
  match x.location s with
  | .error i => .all s x (.trap i)
  | .ok l => .ok (x.putOne s x.v.d 2 (s.frontier x.t.die x.ctx (x.group s).rcb l).toNat 4) 4

def execLtFront (h : Hdr) (o : RegForm) (s : State) : Host.Outcome State Fault Refusal :=
  issueWord (o.view 13 20 h) ltFrontBody s

/-- `lt.await` (R386). -/
def ltAwaitBody (x : Env) (s : State) : Res :=
  match x.location s with
  | .error i => .all s x (.trap i)
  | .ok loc =>
    let rcb := (x.group s).rcb
    let f := s.frontier x.t.die x.ctx rcb loc
    let want (l : Nat) : W64 := BitVec.ofNat 64 (x.b l 64)
    let ok := pick x.e fun l => want l < f
    let no := pick x.e fun l => !(want l < f)
    let s := (s.lanesDrop x.t.die ok 5).modLanes x.t ok fun _ y => y.acquire (s.tlStamp x.t.die x.ctx rcb)
    let s := s.modLanes x.t no fun l y => { y with st := .op, wait := .frontier loc (want l), wakeAt := none }
    ⟨s, 0, [], (lanesOf no).map fun l => (l, .stay), false⟩

def execLtAwait (h : Hdr) (o : RegForm) (s : State) : Host.Outcome State Fault Refusal :=
  issueWord (o.view 13 21 h) ltAwaitBody s

end Sys2Proof.Machine
end

