-- ==== Sys2Proof/Machine/Tensor.lean ====
section
/-! DEFINITION. Tensor slots and layout records: their checks, element addresses and format conversion (R34 to R41, R275). -/

namespace Sys2Proof.Machine

/-- Word `i` of a record. -/
def wd (r : List W64) (i : Nat) : Nat := (r.getD i 0).toNat

/-! ### Formats (Table 1-10) -/

def fmtKnown (f : Nat) : Bool := (1 ≤ f && f ≤ 13) || f == 0x10 || f == 0x11 || f == 0x12 || f == 0x18
/-- Bytes of an element of a format other than npN. -/
def fmtBytes (f : Nat) : Nat :=
  if f = 13 then 16 else if f = 0x10 || f = 0x11 then 2 else if f = 0x12 then 4
  else if 1 ≤ f && f ≤ 12 then 2 ^ ((f - 1) % 4) else 0
/-- Integer and raw-bit formats of one width. -/
def fmtPlain (f : Nat) : Bool := 1 ≤ f && f ≤ 12
def fmtFlt (f : Nat) : Bool := f == 0x10 || f == 0x11 || f == 0x12
def fmtTy (f : Nat) : Ty := if f = 0x10 then .f16 else if f = 0x11 then .bf16 else .f32

/-- Pairs of formats that a copy converts between, npN apart (R275). -/
def convOk (a b : Nat) : Bool :=
  a == b || (fmtPlain a && fmtPlain b && fmtBytes a == fmtBytes b) || (fmtFlt a && fmtFlt b)

/-- An element's value converted as `cvt` does, with RM rne, SAT 0 and FTZ 0 (R275). -/
def convBytes (a b : Nat) (bs : List Byte) : List Byte :=
  if a != b && fmtFlt a && fmtFlt b then leBytes (fmtBytes b) (cvtVal (fmtTy a) (fmtTy b) 0 false false (leVal bs)) else bs

/-! ### Fields of a slot (Table 1-9) -/

def slotFmt (r : List W64) : Nat := bits (wd r 0) 62 58
def slotNpl (r : List W64) : Nat := bits (wd r 0) 57 53
def slotDims (r : List W64) : Nat := bits (wd r 0) 52 50
def slotScFmt (r : List W64) : Nat := bits (wd r 0) 49 47
def slotHalf (r : List W64) : Bool := (wd r 0).testBit 46
def slotKdim (r : List W64) : Nat := bits (wd r 0) 45 43
def slotBase (r : List W64) : Nat := bits (wd r 1) 47 0
def slotScBase (r : List W64) : Nat := bits (wd r 2) 47 0
def slotLayout (r : List W64) : Nat := bits (wd r 3) 47 0
def slotExtent (r : List W64) (d : Nat) : Nat := bits (wd r (4 + 2 * d)) 31 0
def slotStride (r : List W64) (d : Nat) : Nat := bits (wd r (5 + 2 * d)) 47 0

/-- Reserved fields are zero (R7). -/
def slotReserved (r : List W64) : Bool :=
  bits (wd r 0) 42 0 == 0 && [1, 2, 3].all (fun i => wd r i / 2 ^ 48 == 0) &&
  (List.range 5).all (fun d => wd r (4 + 2 * d) / 2 ^ 32 == 0 && wd r (5 + 2 * d) / 2 ^ 48 == 0) &&
  wd r 14 == 0 && wd r 15 == 0

/-- R37, the layout record apart. -/
def slotOk (r : List W64) : Bool :=
  let n := slotDims r
  let np := slotFmt r == 0x18
  let sc := slotScFmt r
  (wd r 0).testBit 63 && slotReserved r && fmtKnown (slotFmt r) && sc ≤ 2 && 1 ≤ n && n ≤ 5 &&
  (List.range n).all (fun d => slotExtent r d ≥ 1) &&
  (if np then 2 ≤ slotNpl r && slotNpl r ≤ 16 && slotStride r 0 == 0 && slotExtent r 0 % 64 == 0 else slotNpl r == 0) &&
  (sc == 0 || (slotKdim r < n && slotExtent r (slotKdim r) % 64 == 0))

/-! ### Fields of a layout record (Table 1-11); the empty list stands for LAYOUT = 0 -/

def layOrder (l : List W64) (k : Nat) : Nat := if l.isEmpty then k else bits (wd l 0) (55 - 3 * k) (53 - 3 * k)
def layTile (r l : List W64) (d : Nat) : Nat :=
  if l.isEmpty then (if d < slotDims r then slotExtent r d else 1)
  else if d < 4 then bits (wd l 1) (63 - 16 * d) (48 - 16 * d) else bits (wd l 2) 63 48
def laySwBits (l : List W64) : Nat := bits (wd l 0) 40 38
def laySwBase (l : List W64) : Nat := bits (wd l 0) 37 34
def laySwShift (l : List W64) : Nat := bits (wd l 0) 33 30
def layGather (l : List W64) : Bool := (wd l 0).testBit 29
def layGtab (l : List W64) : Nat := bits (wd l 3) 47 0
def layGdim (l : List W64) : Nat := bits (wd l 3) 50 48

/-- R39, with the reserved fields (R7), the ranges of Table 1-11, and GDIM a dimension where it is used. -/
def layoutOk (r l : List W64) : Bool :=
  bits (wd l 0) 63 56 == 5 && bits (wd l 0) 28 0 == 0 && bits (wd l 2) 47 0 == 0 && wd l 3 / 2 ^ 51 == 0 &&
  [4, 5, 6, 7].all (fun i => wd l i == 0) &&
  (List.range 5).all (fun d => (List.range 5).any fun k => layOrder l k == d) &&
  (List.range 5).all (fun d => layTile r l d ≥ 1 && (d < slotDims r || layTile r l d == 1)) &&
  (4 ≤ laySwBase l && 1 ≤ laySwShift l) && (!layGather l || layGdim l ≤ 4)

/-- Read a slot and its layout record once (R37, R38): the snapshots, or DETAIL0 of the tensor-slot fault. -/
def State.readSlot (s : State) (d ctx n : Nat) : Except Nat (List W64 × List W64) × State :=
  let base := match s.ctx? ctx with
    | some c => c.tsbase
    | none => 0
  match s.ctxWords d ctx (base + 128 * n) 16 with
  | (.error e, s) => (.error e, s)
  | (.ok r, s) =>
    if !slotOk r then (.error 0, s)
    else if slotLayout r == 0 then (.ok (r, []), s)
    else if slotLayout r % 64 != 0 then (.error 0, s)
    else match s.ctxWords d ctx (slotLayout r) 8 with
      | (.error e, s) => (.error e, s)
      | (.ok l, s) => if layoutOk r l then (.ok (r, l), s) else (.error 0, s)

/-! ### Elements (R35, R40) -/

def tileCount (r l : List W64) : Nat := ((List.range 5).map (layTile r l)).foldl (· * ·) 1

/-- Digits(L, i): the coordinate within the tile along each dimension. -/
def digits (r l : List W64) (i : Nat) : List Nat :=
  let (t, _) := (List.range 5).foldl (fun (a : List Nat × Nat) k =>
    let d := layOrder l k
    (updAt a.1 d fun _ => a.2 % layTile r l d, a.2 / layTile r l d)) ([0, 0, 0, 0, 0], i)
  t

def swizzle (sw : Nat × Nat × Nat) (off : Nat) : Nat :=
  if sw.1 = 0 then off
  else Nat.xor off (((off >>> (sw.2.1 + sw.2.2)) % 2 ^ sw.1) <<< sw.2.1)

def laySw (l : List W64) : Nat × Nat × Nat := if l.isEmpty then (0, 0, 0) else (laySwBits l, laySwBase l, laySwShift l)

/-- Sum of c_d times STRIDE_d over the dimensions that satisfy `p`, modulo 2^48. -/
def strideSum (r : List W64) (c : List Nat) (p : Nat → Bool) : Nat :=
  (((List.range (slotDims r)).filter p).map fun d => c.getD d 0 * slotStride r d).sum % 2 ^ 48

/-- Offset(S, L, c). -/
def tensorOffset (r l : List W64) (c : List Nat) : Nat := swizzle (laySw l) (strideSum r c fun _ => true)

/-- Coordinates of a tile element from an origin, the gathered one apart. -/
def coords (o t : List Nat) : List Nat := (List.range 5).map fun d => o.getD d 0 + t.getD d 0

def inBounds (r : List W64) (c : List Nat) (p : Nat → Bool) : Bool :=
  ((List.range (slotDims r)).filter p).all fun d => c.getD d 0 < slotExtent r d

/-- Where element `i` of a tile stands in memory; nowhere where a coordinate is out of bounds. -/
def elemSite (r l : List W64) (o : List Nat) (i : Nat) : Site :=
  let c := coords o (digits r l i)
  let g := layGdim l
  if !l.isEmpty && layGather l then
    if inBounds r c (· != g) then
      .gather ((layGtab l + 4 * c.getD g 0) % 2 ^ 48) (slotBase r) (strideSum r c (· != g)) (if g < slotDims r then slotStride r g else 0)
        (if g < slotDims r then slotExtent r g else 2 ^ 32) (laySw l)
    else .nowhere
  else if inBounds r c fun _ => true then .mem ((slotBase r + tensorOffset r l c) % 2 ^ 48)
  else .nowhere

/-- Bytes of a tile as a handle or a pipe slot holds it (R23, R274). -/
def tileBytes (r l : List W64) : Nat :=
  if slotFmt r = 0x18 then tileCount r l / 64 * (8 * slotNpl r) else tileCount r l * fmtBytes (slotFmt r)

end Sys2Proof.Machine
end

