-- ==== Sys2Proof/Machine/Copy.lean ====
section
/-! DEFINITION. Class 10 and copy channels: handles, copies and their events (R260 to R282). -/

namespace Sys2Proof.Machine

/-! ### Handles (R265 to R271) -/

def Group.hd (g : Group) (n : Nat) : Handle := g.handles.getD n default
def State.handle (s : State) (g : GroupRef) (n : Nat) : Handle := (s.groupOf g).hd n
def State.modHandle (s : State) (g : GroupRef) (n : Nat) (f : Handle → Handle) : State :=
  s.modGroup g fun x => { x with handles := updAt x.handles n f }

/-- A wait on a handle is satisfied by the handles as they stand (R269, R280). -/
def Group.handleReady (g : Group) (w : Wait) : Bool :=
  match w with
  | .handle h sts => sts.contains (g.hd h).st
  | .handles a b => (g.hd a).st == .filling && (g.hd b).st == .filling
  | .handleFree h =>
    let x := g.hd h
    x.st == .free || x.st == .full || (x.st == .draining && x.outs == 0)
  | .wptr h n => (g.hd h).wptr ≥ n || (g.hd h).st != .filling
  | _ => false

/-- The wait names the handle. -/
def Wait.onHandle (w : Wait) (n : Nat) : Bool :=
  match w with
  | .handle h _ | .handleFree h | .wptr h _ => h == n
  | .handles a b => a == n || b == n
  | _ => false

/-- A loading shadow slot becomes LOADED when its handle is FULL, and takes waiting on it go on (R80, R388). -/
def State.shadowLoad (s : State) (g : GroupRef) (n : Nat) : State :=
  let gr := s.groupOf g
  let hit (x : Shadow) : Bool := x.grp == g && x.into == n && x.st == .loading
  if (gr.hd n).st == .full then
    if (s.core gr.die gr.core).shadow.any hit then
      let s := s.modCore gr.die gr.core fun c => { c with shadow := updIf c.shadow hit fun x => { x with st := .loaded } }
      s.wakeWhere fun t l => t.grp == g && (match l.wait with
        | .slotTake _ => true
        | _ => false)
    else s
  else s

/-- A handle has changed: waiters that it satisfies issue again four cycles later (R269). -/
def State.handleChanged (s : State) (g : GroupRef) (n : Nat) : State :=
  let s := s.shadowLoad g n
  let gr := s.groupOf g
  (s.wakeIn 4 fun t l => t.grp == g && l.wait.onHandle n && gr.handleReady l.wait).after 4 (.handleWaiterWake g n)

def State.setHandle (s : State) (g : GroupRef) (n : Nat) (f : Handle → Handle) : State :=
  (s.modHandle g n f).handleChanged g n

/-- HANDLE_WAITER_WAKE (R269). -/
def handleWaiterWake (g : GroupRef) (n : Nat) (s : State) : State :=
  (s.dueLanes fun t l => t.grp == g && l.wait.onHandle n).foldl (fun s x => s.wakeLanes x.1 x.2) s

/-- A filling handle whose WPTR has reached LEN, or RES where closed, is FULL (R267). -/
def Handle.tryFull (h : Handle) : Handle :=
  if h.st == .filling && (h.wptr ≥ h.len || (h.closed && h.wptr ≥ h.res)) then { h with st := .full } else h

/-- RES and WPTR are 19 bits wide, OUTS 6 (Table 9-1). -/
def Handle.reserve (h : Handle) (n : Nat) : Handle := { h with res := (h.res + n) % 2 ^ 19 }
def Handle.addOut (h : Handle) : Handle := { h with outs := (h.outs + 1) % 64 }
def Handle.dropOut (h : Handle) : Handle := { h with outs := (h.outs + 63) % 64 }

/-- `bset.close` (Table 9-2). -/
def Handle.close (h : Handle) : Handle := if h.st == .filling then { h with closed := true }.tryFull else h

/-- A draining handle whose END copy has been read is FREE once OUTS is 0 (R268). -/
def Handle.tryFree (h : Handle) : Handle :=
  if h.st == .draining && h.ending && h.outs == 0 then { h with st := .free, ending := false } else h

/-- DELIVERY_COUNT (R266, R270): bytes count in WPTR and toward the handle's barrier. -/
def deliveryCount (g : GroupRef) (n serial bytes stamp : Nat) (s : State) : State :=
  let h := s.handle g n
  if h.serial.toNat != serial then s
  else
    let s := s.setHandle g n fun h => { h with wptr := (h.wptr + bytes) % 2 ^ 19, stamp := max h.stamp stamp }.tryFull
    if h.baren then s.atBar (s.barOf (s.groupOf g) h.bar) fun y => { y with counts := y.counts ++ [(-(bytes : Int), stamp)] } else s

/-! ### Descriptors and channels (R260, R261) -/

/-- The line that an element's read covers, none where nothing is read. -/
def Site.line : Site → Option (Nat × Nat)
  | .mem va => some (1, va / 128)
  | .scr a => some (0, a / 128)
  | .pipe _ off => some (2, off / 128)
  | .gather tab .. => some (3, tab)
  | .nowhere | .over | .beyond | .lost => none

/-- The site, where the element's bytes go on in another line, of the first of them there. -/
def Site.further (x : Site) (size : Nat) : Option Site := match x with
  | .mem va => if va % 128 + size > 128 then some (.mem ((va / 128 * 128 + 128) % 2 ^ 48)) else none
  | .scr a => if a % 128 + size > 128 then some (.scr (a / 128 * 128 + 128)) else none
  | .pipe p off => if off % 128 + size > 128 then some (.pipe p (off / 128 * 128 + 128)) else none
  | _ => none

/-- The table entry by which an element is gathered or scattered. -/
def Elem.tab (e : Elem) : Option Nat := match e.src, e.dst with
  | .gather t .., _ => some t
  | _, .gather t .. => some t
  | _, _ => none

/-- What is read for an element, in turn: the line of its table entry, whose reading comes first (R274), or the lines of its bytes. -/
def Elem.lines (e : Elem) : List ((Nat × Nat) × Site) := match e.tab with
  | some t => [((3, t / 128), .mem t)]
  | none => ([e.src] ++ (e.src.further e.size).toList).filterMap fun x => x.line.map fun l => (l, x)

/-- Put an element into the group that is being made. -/
def intoGroup (e : Elem) : List (List Elem) → List (List Elem)
  | [] => [[e]]
  | g :: t => (e :: g) :: t

/-- Line reads of a copy: each line is read once, and with its read go the elements that can be delivered in their order then: those
up to the first that needs another line (R261, R273). An element that lies in two lines follows an empty one for each. -/
def groupElems (es : List Elem) : List (List Elem) :=
  let r := es.foldl (fun (acc : List (Nat × Nat) × List (List Elem)) e =>
    let new := e.lines.filter fun l => !acc.1.contains l.1
    let mark (x : Site) : Elem := { e with src := x, dst := .nowhere, size := 0, cnt := 0 }
    let gs := if new.length ≤ 1 && (e.src.further e.size).isNone then
        (match new with
        | [] => intoGroup e acc.2
        | _ => if acc.1.isEmpty then intoGroup e acc.2 else [e] :: acc.2)
      else intoGroup e (new.foldl (fun gs l => if gs.isEmpty || !acc.1.isEmpty || l.1 != (new.map (·.1)).headD l.1 then [mark l.2] :: gs
        else intoGroup (mark l.2) gs) acc.2)
    (acc.1 ++ new.map (·.1), gs)) ([], [])
  (r.2.map List.reverse).reverse

/-- A group of elements whose read is that of the table entries by which they are gathered or scattered. -/
def tableRead (es : List Elem) : Bool := es.any fun e => e.tab.isSome

/-- The site that the read of a group of elements is made for: that of its first element that reads one. -/
def readSite (es : List Elem) : Option Site := es.findSome? fun e => e.lines.head?.map (·.2)

/-- A descriptor to be queued at cycle `issued`. -/
def CopyDesc.make (kind : CopyKind) (g : GroupRef) (h : Nat) (hserial : W16) (fin : Bool) (es : List Elem) (issued stamp : Nat)
    (pipe : Option (PipeRef × Nat × Bool)) (evict : Nat := 4) : CopyDesc :=
  let rs := groupElems es
  let csr := match kind with
    | .csr .. => true
    | _ => false
  { kind := kind, grp := g, h := h, hserial := hserial, fin := fin, reads := rs, ready := if csr then [none] else rs.map fun _ => none, listed := !csr, done := 0,
    issued := issued, order := 0, started := none, stopped := none, stamp := stamp, evict := evict, rows := [], drawn := false, pipe := pipe,
    counted := false, old := [] }

/-- Queue a descriptor on a channel (R260), after those of its core in the order of issue; it may start 8 cycles later. -/
def State.enqueue (s : State) (d core ix : Nat) (x : CopyDesc) : State :=
  let n := ([0, 1].flatMap fun i => (s.chan d core i).queue.map (·.order)).foldl max 0
  (s.modChan d core ix fun c => { c with queue := c.queue ++ [{ x with order := n + 1 }] }).after 8 (.copyDescriptorStart d core ix)

/-- Every read has been made. -/
def CopyDesc.ended (x : CopyDesc) : Bool := x.started.isSome && x.reads.isEmpty && x.listed && x.stopped.isNone

/-- The descriptor has ended, and its last write has been performed (R260). -/
def CopyDesc.past (x : CopyDesc) (clock : Nat) : Bool := x.ended && x.done ≤ clock

/-- A gathered site, once its index has been read (R274): an index at or beyond the extent is out of bounds. -/
def gatheredSite (i base part stride extent : Nat) (sw : Nat × Nat × Nat) : Site :=
  if i ≥ extent then .nowhere else .mem ((base + swizzle sw ((part + i * stride) % 2 ^ 48)) % 2 ^ 48)

/-- Latency of a channel's read at a virtual address made `dl` cycles from now, with the 8 cycles of a corrected error (R232), and
the caches afterwards; where the aperture carries it, that is noted (R393). -/
def State.vaLat (s : State) (d core : Nat) (g : GroupRef) (evict va dl : Nat) (who : Option Event) : Nat × State :=
  match s.locate d core g false va 1 1 with
  | (.ok p, l, s) =>
    let (n, s) := s.touchLoad d p 4 evict (dl + l)
    let e := match p with
      | .mem pa => if s.sectorError pa == some false then 8 else 0
      | _ => 0
    let s := match who with
      | some ev => s.noteOver s d p false (s.clock + dl + l + n) (.unit ev)
      | none => s
    (n + l + e, s)
  | (.error _, l, s) => (160 + l, s)

/-- Latency of the read of a site by a channel, and the caches afterwards. -/
def State.siteLat (s : State) (d core : Nat) (g : GroupRef) (evict : Nat) (src : Site) (who : Option Event := none) : Nat × State :=
  match src with
  | .mem va => s.vaLat d core g evict va 0 who
  | .gather tab base part stride extent sw =>
    let (n, s) := s.vaLat d core g evict tab 0 none
    match s.locate d core g false tab 4 1 with
    | (.ok p, _, s) => match gatheredSite (leVal (s.placeBytes p 4).1) base part stride extent sw with
      | .mem va => let (m, s) := s.vaLat d core g evict va n who; (n + m, s)
      | _ => (n, s)
    | (.error _, _, s) => (n, s)
  | .scr _ => (28, s)
  | .pipe p off => s.touchLoad d (.pipe p off) 4 evict 0
  | .nowhere | .over | .beyond | .lost => (0, s)

/-- What a read of a descriptor reads: the row-range descriptor or its two row pointers (R276), or a line. -/
def CopyDesc.sites (x : CopyDesc) (k : Nat) : List Site :=
  match x.reads[k]? with
  | some es => (readSite es).toList
  | none => match x.kind, x.rows with
    | .csr desc _ _ _ _, [] => [.mem (desc % 2 ^ 48)]
    | .csr _ first n _ _, rowptr :: _ => [.mem ((rowptr + 4 * first) % 2 ^ 48), .mem ((rowptr + 4 * (first + n)) % 2 ^ 48)]
    | _, _ => []

/-- Latency of what a read of a descriptor reads. -/
def State.sitesLat (s : State) (d core ix : Nat) (x : CopyDesc) (k : Nat) : Nat × State :=
  (x.sites k).zipIdx.foldl (fun acc (p, i) =>
    let (l, s) := acc.2.siteLat d core x.grp x.evict p (some (.copyReadComplete d core ix))
    (max acc.1 (l + i), s)) (0, s)

/-- Cycles from the issue of a change at a pipe's home to its effect (R288). -/
def State.pipeLat (s : State) (d : Nat) (p : PipeRef) : Nat :=
  match s.pipe? p with
  | some x => match x.home with
    | some h => if h == d then 170 else 390 + s.reroute d h
    | none => 170
  | none => 170

/-- A copy or a matrix job of a pipe slot is outstanding (R292, R320): an in-copy until its last read, an out-copy until its last
write. -/
def State.slotBusy (s : State) (p : PipeRef) (slot : Nat) (sp : Bool) : Bool :=
  (s.chans.any fun c => c.queue.any fun x => x.pipe == some (p, slot, sp) && !(x.ended && (x.kind != .outCopy || x.done ≤ s.clock))) ||
  (s.clusters.any fun c => c.queue.any fun j => j.tiles.contains (p, slot, sp)) ||
  s.engines.any fun e => (match e.run with
    | some r => r.job.tiles.contains (p, slot, sp) && !r.readEnd
    | none => false) || e.ending.any fun x => x.1.job.tiles.contains (p, slot, sp)

/-- Commits and releases that wait for a copy of a slot act as if issued now, unless another copy of it is outstanding (R292). -/
def State.pipeDone (s : State) (p : PipeRef) (slot : Nat) (sp : Bool) : State :=
  if s.slotBusy p slot sp then s else
  match s.pipe? p with
  | none => s
  | some y =>
    let mine := y.deferred.filter fun e => e.1 == slot && e.2.1 == sp
    let s := s.modPipe p fun y => { y with deferred := y.deferred.filter fun e => !(e.1 == slot && e.2.1 == sp) }
    mine.foldl (fun s e =>
      let d := match e.2.2 with
        | .commit _ _ _ _ d _ | .release _ _ _ d _ => d
        | _ => 0
      s.after (s.pipeLat d p) (.pipeCounterChange p e.2.2)) s

/-- Commits of a channel's pipe slots whose copies have written their last byte (R292). -/
def State.slotsDone (s : State) (d core ix : Nat) : State :=
  ((s.chan d core ix).queue.filter fun x => x.past s.clock).foldl (fun s x => match x.pipe with
    | some (p, slot, sp) => s.pipeDone p slot sp
    | none => s) s


/-! ### Elements -/

/-- Source bytes of an element: a failed check with its address, an uncorrectable error (none), or the bytes. -/
def State.elemRead (s : State) (d core : Nat) (g : GroupRef) (src : Site) (size : Nat) :
    Except (Nat × Nat) (Option (List Byte)) × State :=
  match src with
  | .scr a => (.ok (some (s.scrBytes a size)), s)
  | .pipe p off => let (bs, s) := s.placeBytes (.pipe p off) size; (.ok (some bs), s)
  | .nowhere | .over => (.ok (some (List.replicate size 0)), s)
  | .beyond => (.ok (some (leBytes size (Config.freeNat s.fresh))), { s with fresh := s.fresh + 1 })
  | .lost => (.ok none, s)
  | .gather .. => (.ok (some (List.replicate size 0)), s)
  | .mem va =>
    match s.unitLocate d core g va size 1 with
    | (.error e, _, s) => (.error e, s)
    | (.ok p, _, s) =>
      match p with
      | .mem pa =>
        let secs := (List.range ((pa % 32 + size + 31) / 32)).map fun i => pa / 32 * 32 + 32 * i
        match secs.find? fun a => s.sectorError a == some true with
        | some a => (.ok none, (s.meetError a).1)
        | none => let s := secs.foldl (fun s a => (s.meetError a).1) s; (.ok (some (s.memBytes pa size)), s)
      | p => let (bs, s) := s.placeBytes p size; (.ok (some bs), s)

/-- Write an element's bytes: `true` says that it lay outside the buffer. Lines and sectors are touched once for a read; answers by when
the write has been performed (R229). -/
def State.elemWrite (s : State) (d core : Nat) (g : GroupRef) (dst : Site) (bs : List Byte) (m : Touched) :
    Except (Nat × Nat) Bool × Nat × Touched × State :=
  let put (p : Place) (dl : Nat) (s : State) : Except (Nat × Nat) Bool × Nat × Touched × State :=
    let (lat, m, s) := m.store d p 4 dl s
    let (n, s) := s.placePut d p bs
    (.ok false, dl + lat + n, m.add p n, s.writeRels p bs.length false [])
  match dst with
  | .scr a => (.ok false, 0, m, ((s.placePut d (.scr a) bs).2).writeRels (.scr a) bs.length false [])
  | .pipe p off => put (.pipe p off) 0 s
  | .over => (.ok true, 0, m, s)
  | .nowhere | .beyond | .lost | .gather .. => (.ok false, 0, m, s)
  | .mem va =>
    match s.unitLocate d core g va bs.length 2 with
    | (.error e, _, s) => (.error e, 0, m, s)
    | (.ok p, l, s) => put p l s

/-- A gathered site is resolved by its index (R274). -/
def State.resolve (s : State) (d core : Nat) (g : GroupRef) (x : Site) : Except (Nat × Nat) (Option Site) × State :=
  match x with
  | .gather tab base part stride extent sw =>
    match s.elemRead d core g (.mem tab) 4 with
    | (.error e, s) => (.error e, s)
    | (.ok none, s) => (.ok none, s)
    | (.ok (some bs), s) => (.ok (some (gatheredSite (leVal bs) base part stride extent sw)), s)
  | .lost => (.ok none, s)
  | y => (.ok (some y), s)

/-- Elements whose table entries have been read, each at its place; one of an entry with an uncorrectable error is lost. -/
def State.resolveAll (s : State) (d core : Nat) (g : GroupRef) : List Elem → Except (Nat × Nat) (List Elem) × State
  | [] => (.ok [], s)
  | e :: t =>
    match s.resolve d core g e.src with
    | (.error x, s) => (.error x, s)
    | (.ok src, s) => match s.resolve d core g e.dst with
      | (.error x, s) => (.error x, s)
      | (.ok dst, s) => match s.resolveAll d core g t with
        | (.error x, s) => (.error x, s)
        | (.ok es, s) => (.ok ({ e with src := src.getD .lost, dst := dst.getD .lost } :: es), s)

/-- Move one element: a failed check stops the copy; otherwise the value that ERR takes (0: none). -/
def State.elemMove (s : State) (d core : Nat) (g : GroupRef) (e : Elem) (m : Touched) :
    Except (Nat × Nat) Nat × Nat × Touched × State :=
  match s.resolve d core g e.src with
  | (.error x, s) => (.error x, 0, m, s)
  | (.ok none, s) => (.ok 1, 0, m, s)
  | (.ok (some src), s) =>
    match s.elemRead d core g src e.size with
    | (.error x, s) => (.error x, 0, m, s)
    | (.ok none, s) => (.ok 1, 0, m, s)
    | (.ok (some bs), s) =>
      match s.resolve d core g e.dst with
      | (.error x, s) => (.error x, 0, m, s)
      | (.ok none, s) => (.ok 1, 0, m, s)
      | (.ok (some dst), s) =>
        let bs := if src == .nowhere then List.replicate (if e.dfmt == e.sfmt then e.size else fmtBytes e.dfmt) 0
          else convBytes e.sfmt e.dfmt bs
        match s.elemWrite d core g dst bs m with
        | (.error x, l, m, s) => (.error x, l, m, s)
        | (.ok o, l, m, s) => (.ok (if o then 2 else 0), l, m, s)

/-- What moving the elements of one read has come to: where and why it stopped, the values that ERR takes by handle, by when its
writes are performed, what it has touched. -/
structure Moved where
  stop : Option ((Nat × Nat) × List Elem)
  errs : List (Nat × Nat)
  lat  : Nat
  seen : Touched

/-- Move the elements of one read in order, up to the first whose check fails. -/
def State.moveAll (s : State) (d core : Nat) (g : GroupRef) : List Elem → Moved → Moved × State
  | [], r => (r, s)
  | e :: t, r =>
    if e.size = 0 then s.moveAll d core g t r else
    match s.elemMove d core g e r.seen with
    | (.error x, l, m, s) => ({ r with stop := some (x, e :: t), lat := max r.lat l, seen := m }, s)
    | (.ok n, l, m, s) => s.moveAll d core g t { r with errs := if n = 0 then r.errs else r.errs ++ [(e.h, n)], lat := max r.lat l, seen := m }

/-- A copy reads through the translations that it keeps (R239): they stand first in the core's buffer meanwhile. -/
def State.keepOld (s : State) (d core : Nat) (old : List Tb) : State :=
  if old.isEmpty then s else s.modCore d core fun c => { c with tb := old ++ c.tb }
def State.dropOld (s : State) (d core : Nat) (old : List Tb) : State :=
  if old.isEmpty then s else s.modCore d core fun c => { c with tb := c.tb.filter fun e => !old.contains e }

/-! ### Row-range walks (R276) -/

/-- Serial that the copy carries for a handle. -/
def CopyDesc.serialOf (x : CopyDesc) (h : Nat) : Nat :=
  match x.kind with
  | .csr _ _ _ hv hs => if h == hv then hs else x.hserial.toNat
  | _ => x.hserial.toNat

/-- Change a handle of a copy, where its serial still stands (R270). -/
def State.modCopied (s : State) (x : CopyDesc) (h : Nat) (f : Handle → Handle) : State :=
  if (s.handle x.grp h).serial.toNat == x.serialOf h then s.setHandle x.grp h f else s

/-- Read an n-byte value at a virtual address by a channel. -/
def State.chanVal (s : State) (d core : Nat) (g : GroupRef) (va n : Nat) : Except (Nat × Nat) (Option Nat) × State :=
  match s.elemRead d core g (.mem (va % 2 ^ 48)) n with
  | (.error e, s) => (.error e, s)
  | (.ok none, s) => (.ok none, s)
  | (.ok (some bs), s) => (.ok (some (leVal bs)), s)

def State.chanVals (s : State) (d core : Nat) (g : GroupRef) (n : Nat) :
    List Nat → Except (Nat × Nat) (Option (List Nat)) × State
  | [] => (.ok (some []), s)
  | va :: t =>
    match s.chanVal d core g va n with
    | (.error e, s) => (.error e, s)
    | (.ok none, s) => (.ok none, s)
    | (.ok (some v), s) =>
      match s.chanVals d core g n t with
      | (.ok (some vs), s) => (.ok (some (v :: vs)), s)
      | r => r

/-- Elements that append `cnt` values of `size` bytes from `va` to a handle, as many as fit. -/
def appendElems (g : Group) (hn va cnt size : Nat) : List Elem :=
  let h := g.hd hn
  let fit := min cnt ((h.len - h.res) / size)
  (List.range fit).map fun i =>
    ⟨hn, .mem ((va + size * i) % 2 ^ 48), .scr (scrBase g.die g.core + g.winBase + h.base + h.res + size * i), 0, 0, size, size⟩

/-- Both handles of a walk close, with ERR where it is not 0. -/
def State.csrEnd (s : State) (x : CopyDesc) (hv err : Nat) : State :=
  let f (h : Handle) : Handle := ({ h with err := if err = 0 then h.err else err } : Handle).close
  (s.modCopied x x.h f).modCopied x hv f

/-- The row-range descriptor has been read: ROWPTR, COLIDX, VALS and the bytes of a value, nothing where the walk ends with an error; or a
failed check. -/
def State.csrWords (s : State) (d core : Nat) (x : CopyDesc) (desc hv : Nat) : Except (Nat × Nat) (List Nat) × State :=
  match s.chanVals d core x.grp 8 [desc, desc + 8, desc + 16, desc + 24] with
  | (.error e, s) => (.error e, s)
  | (.ok none, s) => (.ok [], s.csrEnd x hv 1)
  | (.ok (some ws), s) =>
    let w (i : Nat) := ws.getD i 0
    let vs := bits (w 2) 50 48
    let vsize := if vs = 1 then 2 else 4
    let ok := desc % 8 == 0 && w 0 / 2 ^ 48 == 0 && w 1 / 2 ^ 48 == 0 && w 2 / 2 ^ 51 == 0 && w 3 == 0 && (vs == 1 || vs == 2) &&
      w 0 % 4 == 0 && w 1 % 4 == 0 && w 2 % 2 ^ 48 % vsize == 0
    if ok then (.ok [w 0, w 1, w 2 % 2 ^ 48, vsize], s) else (.ok [], s.csrEnd x hv 3)

/-- The row pointers have been read: the elements to move, or a failed check. -/
def State.csrElems (s : State) (d core : Nat) (x : CopyDesc) (first n hv : Nat) : Except (Nat × Nat) (List Elem) × State :=
  let w (i : Nat) := x.rows.getD i 0
  match s.chanVals d core x.grp 4 [w 0 + 4 * first, w 0 + 4 * (first + n)] with
  | (.error e, s) => (.error e, s)
  | (.ok none, s) => (.ok [], s.csrEnd x hv 1)
  | (.ok (some ps), s) =>
    let lo := ps.getD 0 0
    let hi := ps.getD 1 0
    if hi < lo then (.ok [], s.csrEnd x hv 3)
    else
      let g := s.groupOf x.grp
      let e1 := appendElems g x.h (w 1 + 4 * lo) (hi - lo) 4
      let e2 := appendElems g hv (w 2 + w 3 * lo) (hi - lo) (w 3)
      let grow (k size : Nat) (h : Handle) : Handle :=
        ({ h.reserve (k * size) with err := if k < hi - lo then 2 else h.err } : Handle).close
      let s := s.modCopied x x.h (grow e1.length 4)
      (.ok (e1 ++ e2), s.modCopied x hv (grow e2.length (w 3)))

/-! ### A read completes (R261, R263) -/

/-- OUT_COPY_END (R268): the out-copy has read its last byte. -/
def State.outDone (s : State) (x : CopyDesc) : State :=
  s.modCopied x x.h fun h =>
    ({ h.dropOut with ending := h.ending || x.fin, rstamp := max h.rstamp x.stamp } : Handle).tryFree

/-- A copy of a shadow slot that meets a fault: the handle is FREE and the task is delivered without its input (R81). -/
def State.prefetchFault (s : State) (d core : Nat) (x : CopyDesc) (ix : Nat) : State :=
  let s := s.modCopied x x.h fun h => { h with st := .free }
  match (s.core d core).shadow.find? (·.ix == ix) with
  | some sh =>
    let s := s.modCore d core fun c => { c with shadow := updIf c.shadow (·.ix == ix) fun y => { y with st := .loaded } }
    let s := match sh.task with
      | some n => s.modCtx x.grp.ctx fun c => { c with tasks := updIf c.tasks (·.n == n) fun t => { t with missing := true } }
      | none => s
    s.wakeWhere fun t l => t.grp == x.grp && (match l.wait with
      | .slotTake _ => true
      | _ => false)
  | none => s

/-- Put back a descriptor of a channel that has changed, by its place in the queue. -/
def State.putDesc (s : State) (d core ix i : Nat) (x : CopyDesc) : State :=
  s.modChan d core ix fun c => { c with queue := updAt c.queue i fun _ => x }

def State.frameState (s : State) (g : GroupRef) (f serial : Nat) (st : FrameSt) : State :=
  s.modGroup g fun x => { x with frames := updAt x.frames f fun y => if y.serial.toNat == serial then { y with st := st } else y }

/-- A descriptor stops at an element (R263); copies that raise no record act as their rules say (R81, R106). -/
def State.stopCopy (s : State) (d core ix i : Nat) (x : CopyDesc) (check addr : Nat) : State :=
  let gone := { x with reads := [], ready := [], listed := true, done := s.clock }
  match x.kind with
  | .frame f serial =>
    ((s.putDesc d core ix i gone).frameState x.grp f serial .faulted).after 1 (.copyDescriptorStart d core ix)
  | .prefetch k => ((s.putDesc d core ix i gone).prefetchFault d core x k).after 1 (.copyDescriptorStart d core ix)
  | _ =>
    let s := (s.putDesc d core ix i { x with stopped := some 0 }).bump d 0xA18 31 16
    s.unitRec d 0x33 x.grp.ctx (BitVec.ofNat 32 check) (BitVec.ofNat 64 addr) (BitVec.ofNat 64 (core + ix * 256)) (.chan d core ix)

/-- The last read has been made: what follows for the handle, the pipe slot or the frame; copies of the other channel may wait for its
handles. -/
def State.copyEnd (s : State) (d core ix bytes : Nat) (x : CopyDesc) : State :=
  let s := match x.kind with
    | .outCopy => s.after 0 (.outCopyEnd d core ix)
    | .frame f serial => s.after ((bytes + 63) / 64) (.cfetchLanded x.grp f serial)
    | _ => s
  let s := match x.pipe with
    | some (p, slot, sp) => s.pipeDone p slot sp
    | none => s
  let s := if (s.chan d core (1 - ix)).queue.isEmpty then s else s.after 1 (.copyReadComplete d core (1 - ix))
  (s.at_ x.done (.copyDescriptorStart d core ix)).at_ (x.done + 1) (.copyDescriptorStart d core ix)

/-- Handles that a copy delivers into or reads. -/
def CopyDesc.handles (x : CopyDesc) : List Nat :=
  match x.kind with
  | .frame .. => []
  | .csr _ _ _ hv _ => [x.h, hv]
  | _ => [x.h]

/-- The first descriptor of a channel whose next read has completed: no stopped descriptor of the channel stands before it, and no copy
of its core that was issued before it and names a handle of it is to be delivered still (R266). -/
def State.dueCopy (s : State) (d core ix : Nat) : Option (Nat × CopyDesc) :=
  let c := s.chan d core ix
  let all := c.queue ++ (s.chan d core (1 - ix)).queue
  (c.queue.zipIdx.find? fun (x, i) =>
    x.started.isSome && !x.ended && x.stopped.isNone && (match x.ready with
      | some c :: _ => decide (c ≤ s.clock)
      | _ => false) &&
    !(c.queue.take i).any (fun y => y.stopped.isSome) &&
    !all.any fun y => y.order < x.order && y.grp == x.grp && !y.ended && y.handles.any x.handles.contains).map fun p => (p.2, p.1)

/-- Sectors that accesses of units to sites draw on, by resource and die (R86). -/
def State.siteDraws (s : State) (d core : Nat) (g : GroupRef) (need : Nat) (xs : List Site) : List (Nat × Nat × Nat) :=
  (xs.flatMap fun x =>
    let vas := match x with
      | .mem va => [va]
      | .gather tab .. => tab :: match (s.resolve d core g x).1 with
        | .ok (some (.mem va)) => [va]
        | _ => []
      | _ => []
    let ps := match x with
      | .pipe p off => [Place.pipe p off]
      | _ => vas.filterMap fun va => match (s.locate d core g false va 1 need).1 with
        | .ok p => some p
        | .error _ => none
    ps.flatMap fun p => s.draws d p (need == 2)).dedup

/-- One site in each sector of some bytes. -/
def Site.sectors (x : Site) (size : Nat) : List Site := match x with
  | .mem va => (List.range ((va % 32 + size + 31) / 32)).map fun i => if i = 0 then x else .mem ((va / 32 * 32 + 32 * i) % 2 ^ 48)
  | .pipe p off => (List.range ((off % 32 + size + 31) / 32)).map fun i => if i = 0 then x else .pipe p (off / 32 * 32 + 32 * i)
  | y => [y]

/-- What a read of a descriptor, and the writes of the elements that go with it, draw on (R88): of its line, the sectors that the elements to be
moved from then on need. -/
def State.copyDraws (s : State) (d core : Nat) (x : CopyDesc) (k : Nat) : List (Nat × Nat × Nat) :=
  let es := x.reads.getD k []
  if tableRead es then s.siteDraws d core x.grp 1 ((es.filterMap (·.tab)).map .mem) else
  let line := (readSite es).bind (·.line)
  let reads := match line with
    | some l => ((x.reads.drop k).flatten.filter fun e => e.tab.isNone).flatMap fun e => (e.src.sectors e.size).filter fun y => y.line == some l
    | none => x.sites k
  (s.siteDraws d core x.grp 1 reads ++ s.siteDraws d core x.grp 2 (es.flatMap fun e => e.dst.sectors e.size)).dedup

/-- What the corrected errors of a read add beyond that of its first sector (R232). -/
def State.fixTime (s : State) (d core : Nat) (x : CopyDesc) (k : Nat) : Nat :=
  let es := x.reads.getD k []
  match (readSite es).bind (·.line) with
  | none => 0
  | some l =>
    let secs := ((es.flatMap fun e => (e.src.sectors e.size).filter fun y => y.line == some l).filterMap fun y => match y with
      | .mem va => match (s.locate d core x.grp false va 1 1).1 with
        | .ok (.mem pa) => some (sectorOf pa)
        | _ => none
      | _ => none).dedup
    8 * ((secs.drop 1).filter fun n => s.sectorError (32 * n) == some false).length

/-- Issue a read of a descriptor, the k-th of those left: it draws on the reserved part of its context's buckets first (R88), and completes at
the latency of what it reads (R261). -/
def State.issueRead (s : State) (d core ix i : Nat) (x : CopyDesc) (k : Nat) : State :=
  let (ok, s) := if x.drawn || !s.throttled then (true, s)
    else s.sluice x.grp true (.unit (.copyDescriptorStart d core ix)) (s.copyDraws d core x k)
  if !ok then s.putDesc d core ix i { x with drawn := true } else
  let e := s.fixTime d core x k
  let (l, s) := s.sitesLat d core ix x k
  let s := s.putDesc d core ix i { x with drawn := false, ready := updAt x.ready k fun _ => some (s.clock + l + e) }
  ((s.modChan d core ix fun c => { c with next := s.clock + 1 }).at_ (s.clock + l + e) (.copyReadComplete d core ix)).once
    (s.clock + 1) (.copyDescriptorStart d core ix)

/-- The descriptor of a channel that issues reads now, or starts: the first that has reads left to issue, unless one before it has stopped, or
has not listed its reads (R261, R263). -/
def Chan.issuer (c : Chan) : Option (Nat × CopyDesc) :=
  match c.queue.zipIdx.find? fun (x, _) => x.stopped.isSome || !x.listed || x.ready.contains none with
  | some (x, i) => if x.stopped.isSome || !x.ready.contains none then none else some (i, x)
  | none => none

/-- COPY_DESCRIPTOR_START (R261): ended descriptors leave; the first with reads to issue starts, where it has not, 8 cycles after its issue, and
issues one of them. -/
def copyDescriptorStart (d core ix : Nat) (s : State) : State :=
  let s := (s.slotsDone d core ix).modChan d core ix fun c => { c with queue := c.queue.filter fun x => !(x.ended && x.done < s.clock) }
  let c := s.chan d core ix
  if s.unitHeld (.copyDescriptorStart d core ix) then s else
  match c.issuer with
  | none => s
  | some (i, x) =>
    if x.started.isNone && (s.clock < x.issued + 8 || (s.groupOf x.grp).stopped) then s
    else if s.clock < c.next then s.once c.next (.copyDescriptorStart d core ix)
    else s.issueRead d core ix i { x with started := some (x.started.getD s.clock) } (x.ready.findIdx (·.isNone))

/-- A descriptor goes back into its channel's queue, which looks at what it has to issue. -/
def State.readAgain (s : State) (d core ix i : Nat) (x : CopyDesc) : State :=
  let s := (s.putDesc d core ix i x).once s.clock (.copyDescriptorStart d core ix)
  match x.ready with
  | some c :: _ => s.once c (.copyReadComplete d core ix)
  | _ => s

/-- A read whose check fails: a walk that a migration holds is made again in the next cycle (R241), any other stops the descriptor. -/
def State.failCopy (s : State) (d core ix i : Nat) (x : CopyDesc) (check addr : Nat) : State :=
  if check = 9 then (s.putDesc d core ix i { x with ready := some (s.clock + 1) :: x.ready.drop 1 }).after 1 (.copyReadComplete d core ix)
  else s.stopCopy d core ix i x check addr

/-- What an aperture carries of a unit's accesses, which comes at a cycle, is noted (R393). -/
def State.noteSites (s : State) (d core : Nat) (g : GroupRef) (xs : List Site) (due : Nat) (who : Event) : State :=
  xs.foldl (fun s x => match x with
    | .mem va => match (s.locate d core g false va 1 1).1 with
      | .ok p => s.noteOver s d p false due (.unit who)
      | .error _ => s
    | _ => s) s

/-- The table entries of some elements have been read: their reads follow, ahead of those that are left. -/
def State.tableDone (s : State) (d core ix i : Nat) (x : CopyDesc) (es : List Elem) (rest : List (List Elem)) : State :=
  match (s.keepOld d core x.old).resolveAll d core x.grp es with
  | (.error (check, addr), s) => (s.dropOld d core x.old).failCopy d core ix i x check addr
  | (.ok es, s) =>
    let gs := groupElems es
    (s.dropOld d core x.old).readAgain d core ix i { x with reads := gs ++ rest, ready := gs.map (fun _ => none) ++ x.ready.drop 1 }

/-- One read of a descriptor has completed: its elements move. -/
def State.copyRead (s : State) (d core ix i : Nat) (x : CopyDesc) (es : List Elem) (rest : List (List Elem)) : State :=
  let (r, s) := (s.keepOld d core x.old).moveAll d core x.grp es ⟨none, [], 0, Touched.none⟩
  let s := s.dropOld d core x.old
  let frameErr := match x.kind with
    | .frame .. | .prefetch _ => !r.errs.isEmpty
    | _ => false
  let s := if frameErr then s else r.errs.foldl (fun s e => s.modCopied x e.1 fun h => { h with err := e.2 }) s
  let left := match r.stop with
    | some (_, l) => l.length
    | none => 0
  let moved := es.take (es.length - left)
  let bytes := (moved.map (·.cnt)).sum
  let s := ((moved.map (·.h)).dedup).foldl (fun s h =>
    let n := ((moved.filter (·.h == h)).map (·.cnt)).sum
    (List.range ((n + 63) / 64)).foldl (fun s j =>
      s.after (j + 5) (.deliveryCount x.grp h (x.serialOf h) (min 64 (n - 64 * j)) x.stamp)) s) s
  let x := { x with done := max x.done (s.clock + max r.lat ((bytes + 63) / 64)) }
  let wrote (s : State) : State := s.noteSites d core x.grp (moved.map (·.dst)) x.done (.copyDescriptorStart d core ix)
  match r.stop with
  | some ((check, addr), l) => (wrote s).failCopy d core ix i { x with reads := l :: rest } check addr
  | none =>
    if frameErr then s.stopCopy d core ix i { x with reads := rest, ready := x.ready.drop 1 } 8 0 else
    let y := { x with reads := rest, ready := x.ready.drop 1 }
    let s := wrote s
    if rest.isEmpty then (s.putDesc d core ix i y).copyEnd d core ix bytes y
    else s.readAgain d core ix i y

/-- A read of a row-range walk has completed: the next reads follow from it. -/
def State.csrRead (s : State) (d core ix i : Nat) (x : CopyDesc) (desc first n hv : Nat) : State :=
  let ends (y : CopyDesc) (s : State) : State :=
    let y := { y with listed := true, ready := [], done := s.clock }
    ((s.putDesc d core ix i y).copyEnd d core ix 0 y).modChan d core ix fun c => { c with next := s.clock + 1 }
  let s := s.keepOld d core x.old
  if x.rows.isEmpty then
    match s.csrWords d core x desc hv with
    | (.error (check, addr), s) => (s.dropOld d core x.old).failCopy d core ix i x check addr
    | (.ok [], s) => ends x (s.dropOld d core x.old)
    | (.ok ws, s) => (s.dropOld d core x.old).readAgain d core ix i { x with rows := ws, ready := [none] }
  else
    match s.csrElems d core x first n hv with
    | (.error (check, addr), s) => (s.dropOld d core x.old).failCopy d core ix i x check addr
    | (.ok es, s) =>
      let s := s.dropOld d core x.old
      let rs := groupElems es
      let y := { x with reads := rs, ready := rs.map fun _ => none, listed := true, done := s.clock }
      if rs.isEmpty then ends y s else s.readAgain d core ix i y

/-- COPY_READ_COMPLETE (R261, R263). -/
def copyReadComplete (d core ix : Nat) (s : State) : State :=
  match s.dueCopy d core ix with
  | none => s
  | some (i, x) =>
    let s := if x.reads.length ≤ 1 && ((s.chan d core ix).queue.drop (i + 1)).isEmpty then s else s.after 1 (.copyReadComplete d core ix)
    match x.reads, x.kind with
    | es :: rest, _ => if tableRead es then s.tableDone d core ix i x es rest else s.copyRead d core ix i x es rest
    | [], .csr desc first n hv _ => s.csrRead d core ix i x desc first n hv
    | [], _ => s

/-- OUT_COPY_END: the channel's out-copies that have read their last byte leave OUTS (R268). -/
def outCopyEnd (d core ix : Nat) (s : State) : State :=
  let hit (x : CopyDesc) : Bool := x.ended && x.kind == .outCopy && !x.counted
  let xs := (s.chan d core ix).queue.filter hit
  xs.foldl (fun s x => s.outDone x)
    (s.modChan d core ix fun c => { c with queue := updIf c.queue hit fun x => { x with counted := true } })

/-- A descriptor is abandoned (R263): its handle has ERR 3 and closes, and the elements that it does not write count (R267). A frame's
is FAULTED (R106), and a prefetch leaves its task without input (R81). -/
def State.abandon (s : State) (d core ix i : Nat) (x : CopyDesc) : State :=
  let y := { x with stopped := none, reads := [], ready := [], listed := true, done := max x.done s.clock }
  let s := s.putDesc d core ix i y
  match x.kind with
  | .frame f serial => (s.frameState x.grp f serial .faulted).after 1 (.copyDescriptorStart d core ix)
  | .prefetch k => (s.prefetchFault d core x k).after 1 (.copyDescriptorStart d core ix)
  | _ =>
    let f (h : Handle) : Handle := ({ h with err := 3 } : Handle).close
    let s := s.modCopied x x.h f
    let s := match x.kind with
      | .csr _ _ _ hv _ => s.modCopied x hv f
      | _ => s
    let left : List Elem := x.reads.flatten
    let s := ((left.map (·.h)).dedup).foldl (fun s h =>
      let n : Nat := ((left.filter (·.h == h)).map (·.cnt)).sum
      if n = 0 then s else s.after 4 (.deliveryCount x.grp h (x.serialOf h) n x.stamp)) s
    s.copyEnd d core ix 0 y

/-- The reply to a stopped channel (R263): retry the element, or abandon the descriptor. -/
def State.chanReply (s : State) (d core ix : Nat) (retry : Bool) : State :=
  match (s.chan d core ix).queue.zipIdx.find? fun (x, _) => x.stopped.isSome with
  | none => s
  | some (x, i) =>
    if retry then
      s.readAgain d core ix i { x with stopped := none, ready := none :: x.ready.drop 1 }
    else (s.abandon d core ix i x).after 1 (.copyReadComplete d core ix)

def execCopyDescriptorStart (s : State) : Host.Outcome State Fault Refusal :=
  match s.ev with
  | some (.copyDescriptorStart d core ix) => .next (copyDescriptorStart d core ix { s with ev := none })
  | _ => .fault .noEvent

def execCopyReadComplete (s : State) : Host.Outcome State Fault Refusal :=
  match s.ev with
  | some (.copyReadComplete d core ix) => .next (copyReadComplete d core ix { s with ev := none })
  | _ => .fault .noEvent

def execDeliveryCount (s : State) : Host.Outcome State Fault Refusal :=
  match s.ev with
  | some (.deliveryCount g n serial bytes stamp) => .next (deliveryCount g n serial bytes stamp { s with ev := none })
  | _ => .fault .noEvent

def execOutCopyEnd (s : State) : Host.Outcome State Fault Refusal :=
  match s.ev with
  | some (.outCopyEnd d core ix) => .next (outCopyEnd d core ix { s with ev := none })
  | _ => .fault .noEvent

def execHandleWaiterWake (s : State) : Host.Outcome State Fault Refusal :=
  match s.ev with
  | some (.handleWaiterWake g n) => .next (handleWaiterWake g n { s with ev := none })
  | _ => .fault .noEvent

/-! ### Class 10 instructions -/

/-- All lanes of E wait at the instruction. -/
def Env.waitAll (x : Env) (w : Wait) (s : State) : Res := .all (s.waitLanes x.t x.e w) x .stay

/-- Go on with `f` where the handle is in one of the states, else wait for one (R269). -/
def Env.needs (x : Env) (hn : Nat) (sts : List HSt) (s : State) (f : Handle → Res) : Res :=
  let h := s.handle x.tm.grp hn
  if sts.contains h.st then f h else x.waitAll (.handle hn sts) s

/-- A window offset as a scratchpad byte of the group's core, or another site where it leaves the window. -/
def scrSite (g : Group) (off size : Nat) (out : Site) : Site :=
  if off + size ≤ g.winLim then .scr (scrBase g.die g.core + g.winBase + off) else out

/-- A team-wide instruction traps, with a record that names the lowest lane of E (R272, R291). -/
def Env.trapTeam (x : Env) (kind d0 d1 : Nat) (s : State) : Res := .team s x (.simple kind d0 d1)

/-- An instruction that acts once per issue traps in every lane of E, which its record names, as in Tables 18-4 and 20-7 (R383, R409,
log entry 129). -/
def Env.trapAll (x : Env) (kind d0 d1 : Nat) (s : State) : Res := .all s x (.trap (.simple kind d0 d1))

/-- Positions of the lanes of a `cpy`: those with a kept position of this serial, the others from RES on (R273). -/
def cpyPlaces (x : Env) (h : Handle) : List (Nat × Nat) × Nat :=
  let ra (l : Nat) : Option Nat := match (x.tm.lane l).ra with
    | some (p, ser) => if ser == h.serial.toNat || ser == 2 ^ 16 then some p else none
    | none => none
  let f := x.lanes.filter fun l => (ra l).isNone
  let fs := f.zipIdx.map fun (l, j) => (l, h.res + j * x.v.bytes)
  let rs := x.lanes.filterMap fun l => (ra l).map fun p => (l, p)
  (sortBy (fun (p : Nat × Nat) => p.2) (fs ++ rs), f.length)

/-- Check the lanes of a `cpy` in turn; its elements, and where it stops. -/
def cpyRun (x : Env) (g : Group) (h : Handle) (hn : Nat) (s0 : State) :
    List (Nat × Nat) → List Elem → State → List Elem × Option (ChkRes × List (Nat × Nat)) × State
  | [], acc, s => (acc, none, s)
  | (l, pos) :: t, acc, s =>
    let n := x.v.bytes
    if pos + n > h.len then (acc, some (.bad 0 (.simple 0x12 0 hn), (l, pos) :: t), s)
    else
      let (c, _, s) := x.check s0 x.v.space n 1 false false l (x.ea l) [] s
      match c.res with
      | .ok p =>
        let src : Site := match p with
          | .scr a => .scr a
          | .pipe r off => .pipe r off
          | _ => .mem (x.ea l).toNat
        cpyRun x g h hn s0 t (acc ++ [⟨hn, src, scrSite g (h.base + pos) n .over, 0, 0, n, n⟩]) s
      | r => (acc, some (r, (l, pos) :: t), s)

/-- `cpy` (R273). -/
def cpyBody (x : Env) (s : State) : Res :=
  let hn := x.v.d.idx
  let g := x.group s
  x.needs hn [.filling] s fun h =>
    let (places, k) := cpyPlaces x h
    let s := s.modHandle x.tm.grp hn fun h => h.reserve (k * x.v.bytes)
    let (es, stop, s) := cpyRun x g h hn s places [] s
    let (st, s) := s.releaseLanes x.t x.e
    let s := if es.isEmpty then s else
      s.enqueue x.t.die x.t.core (hn % 2) (.make .inCopy x.tm.grp hn h.serial false es s.clock st none x.v.evict)
    match stop with
    | none => .ok s 0
    | some (r, ls) =>
      let m := maskOf (ls.map (·.1))
      let s := s.modLanes x.t m fun l y => { y with ra := some (lookD ls l 0, h.serial.toNat) }
      match r with
      | .hold w => ⟨s.waitLanes x.t m w, 0, [], ls.map fun p => (p.1, .stay), false⟩
      | .bad _ i => ⟨s, 0, [], ls.map fun p => (p.1, .trap i), false⟩
      | .ok _ => .ok s 0

def execCpy (h : Hdr) (o : MemForm) (s : State) : Host.Outcome State Fault Refusal :=
  issueWord (o.view 10 0 h) cpyBody s

/-- Origin o[0..4] of a tensor copy: the g quad of the lowest lane (R274). -/
def Env.origin (x : Env) : List Nat :=
  let q := x.a0 128
  (List.range 4).map (fun i => bits q (32 * i + 31) (32 * i)) ++ [0]

/-- The two slots of a `cpyt`, checked in turn (R37, R275): the snapshots, or the trap. -/
def Env.cpytSlots (x : Env) (s : State) :
    Except TrapInfo ((List W64 × List W64) × (List W64 × List W64)) × State :=
  let m := x.v.bOpd.tsNum
  let n := bits x.v.opt 9 0
  match s.readSlot x.t.die x.ctx m with
  | (.error e, s) => (.error (.simple 0x10 e m), s)
  | (.ok a, s) =>
    match s.readSlot x.t.die x.ctx n with
    | (.error e, s) => (.error (.simple 0x10 e n), s)
    | (.ok b, s) =>
      let fa := slotFmt a.1
      let fb := slotFmt b.1
      let ok := if fa == 0x18 || fb == 0x18 then
          fa == fb && slotNpl a.1 == slotNpl b.1 && a.2.isEmpty && b.2.isEmpty && x.origin.headD 0 % 64 == 0
        else convOk fa fb
      if ok then (.ok (a, b), s) else (.error (.simple 0x10 0 m), s)

/-- Offset of element or run `i` of a tile on the handle side, within the buffer. -/
def handleOff (m ml h hl : List W64) (i : Nat) : Nat :=
  if slotFmt m = 0x18 then
    let t := digits m ml (64 * i)
    (strideSum h t (· != 0) + t.headD 0 / 64 * (8 * slotNpl h)) % 2 ^ 48
  else tensorOffset h hl (digits m ml i)

/-- Site of element or run `i` of a tile on the memory side. -/
def memSite (m ml : List W64) (o : List Nat) (i : Nat) : Site :=
  if slotFmt m = 0x18 then
    let c := coords o (digits m ml (64 * i))
    if inBounds m c fun _ => true then
      .mem ((slotBase m + strideSum m c (· != 0) + c.headD 0 / 64 * (8 * slotNpl m)) % 2 ^ 48)
    else .nowhere
  else elemSite m ml o i

/-- Elements of a tensor copy, or 64-element runs of npN (R275). -/
def tileUnits (m ml : List W64) : Nat := if slotFmt m = 0x18 then tileCount m ml / 64 else tileCount m ml
def unitBytes (m : List W64) : Nat := if slotFmt m = 0x18 then 8 * slotNpl m else fmtBytes (slotFmt m)

/-- Elements of `cpyt.in`, in ascending handle offset (R274). -/
def inElems (g : Group) (h : Handle) (hn : Nat) (m ml hs hl : List W64) (o : List Nat) : List Elem :=
  let size := unitBytes hs
  let es := (List.range (tileUnits m ml)).map fun i =>
    let y := handleOff m ml hs hl i
    let dst := if y + size ≤ h.len then scrSite g (h.base + slotBase hs % 2 ^ 32 + y) size .over else .over
    (y, (⟨hn, memSite m ml o i, dst, slotFmt m, slotFmt hs, unitBytes m, size⟩ : Elem))
  (sortBy (fun (p : Nat × Elem) => (p.1 + 2 ^ 47) % 2 ^ 48) es).map (·.2)

/-- Elements of `cpyt.out`, in ascending i. -/
def outElems (g : Group) (h : Handle) (hn : Nat) (m ml hs hl : List W64) (o : List Nat) : List Elem :=
  let size := unitBytes hs
  (List.range (tileUnits m ml)).map fun i =>
    ⟨hn, scrSite g ((h.base + slotBase hs % 2 ^ 32 + handleOff m ml hs hl i) % 2 ^ 48) size .beyond, memSite m ml o i,
     slotFmt hs, slotFmt m, size, 0⟩

/-- `cpyt.in` (R274). -/
def cpytInBody (x : Env) (s : State) : Res :=
  let hn := x.v.d.idx
  let g := x.group s
  match x.cpytSlots s with
  | (.error i, s) => .team s x i
  | (.ok ((m, ml), (hs, hl)), s) =>
    x.needs hn [.filling] s fun h =>
      let bytes := tileUnits m ml * unitBytes hs
      if h.res + bytes > h.len then x.trapTeam 0x12 0 hn s
      else
        let (st, s) := x.release0 s
        let s := s.setHandle x.tm.grp hn fun h => { h.reserve bytes with closed := h.closed || x.v.opt.testBit 11 }
        .ok (s.enqueue x.t.die x.t.core (hn % 2)
          (.make .inCopy x.tm.grp hn h.serial false (inElems g h hn m ml hs hl x.origin) s.clock st none)) 0

def execCpytIn (h : Hdr) (o : RegForm) (s : State) : Host.Outcome State Fault Refusal :=
  issueWord (o.view 10 1 h) cpytInBody s

/-- A handle that an out-copy is issued on (R268). -/
def Handle.outIssue (h : Handle) : Handle := { h.addOut with st := .draining }

/-- `cpyt.out` (R274). -/
def cpytOutBody (x : Env) (s : State) : Res :=
  let hn := x.v.d.idx
  let g := x.group s
  match x.cpytSlots s with
  | (.error i, s) => .team s x i
  | (.ok ((m, ml), (hs, hl)), s) =>
    x.needs hn [.full, .draining] s fun h =>
      let (st, s) := x.release0 s
      let s := s.setHandle x.tm.grp hn Handle.outIssue
      .ok (s.enqueue x.t.die x.t.core (hn % 2)
        (.make .outCopy x.tm.grp hn h.serial (x.v.opt.testBit 11) (outElems g h hn m ml hs hl x.origin) s.clock st none)) 0

def execCpytOut (h : Hdr) (o : RegForm) (s : State) : Host.Outcome State Fault Refusal :=
  issueWord (o.view 10 1 h) cpytOutBody s

/-- `cpycsr` (R276). -/
def cpycsrBody (x : Env) (s : State) : Res :=
  let hc := x.v.d.idx
  let hv := x.v.cOpd.idx
  let g := x.tm.grp
  let a := s.handle g hc
  let b := s.handle g hv
  if a.st == .filling && b.st == .filling then
    let (st, s) := x.release0 s
    let range := x.b0 64
    let k : CopyKind := .csr (x.a0 64 % 2 ^ 48) (range % 2 ^ 32) (range / 2 ^ 32) hv b.serial.toNat
    .ok (s.enqueue x.t.die x.t.core (hc % 2) (.make k g hc a.serial false [] s.clock st none)) 0
  else x.waitAll (.handles hc hv) s

def execCpycsr (h : Hdr) (o : RegForm) (s : State) : Host.Outcome State Fault Refusal :=
  issueWord (o.view 10 2 h) cpycsrBody s

/-! ### bset, bwait, bquery, wptr (R277 to R281) -/

/-- A freshly armed handle. -/
def Handle.armed (h : Handle) (base len : Nat) (baren : Bool) (bar : Nat) : Handle :=
  { st := if len = 0 then .full else .filling, base := base, len := len, res := 0, wptr := 0, err := 0, closed := false, baren := baren, bar := bar,
    outs := 0, serial := h.serial + 1, ending := false, ring := h.ring, stamp := 0, rstamp := 0 }

def bsetArmBody (x : Env) (s : State) : Res :=
  let hn := x.v.d.idx
  let base := x.a0 32
  let len := x.b0 32
  let o := x.v.opt
  if base % 16 != 0 || len % 4 != 0 then x.trapTeam 0x08 0 base s
  else if base + len > (x.group s).winLim then x.trapTeam 0x07 0 base s
  else x.needs hn [.free] s fun _ =>
    .ok (s.setHandle x.tm.grp hn fun h => h.armed base len (o.testBit 3) (bits o 7 4)) 0

def execBsetArm (h : Hdr) (o : RegForm) (s : State) : Host.Outcome State Fault Refusal :=
  issueWord (o.view 10 3 h) bsetArmBody s

def bsetCloseBody (x : Env) (s : State) : Res := .ok (s.setHandle x.tm.grp x.v.d.idx Handle.close) 0

def execBsetClose (h : Hdr) (o : RegForm) (s : State) : Host.Outcome State Fault Refusal :=
  issueWord (o.view 10 3 h) bsetCloseBody s

def bsetDrainBody (x : Env) (s : State) : Res :=
  let hn := x.v.d.idx
  x.needs hn [.full, .draining] s fun _ => .ok (s.setHandle x.tm.grp hn fun h => { h with st := .draining }) 0

def execBsetDrain (h : Hdr) (o : RegForm) (s : State) : Host.Outcome State Fault Refusal :=
  issueWord (o.view 10 3 h) bsetDrainBody s

def bsetFreeBody (x : Env) (s : State) : Res :=
  let hn := x.v.d.idx
  if (x.group s).handleReady (.handleFree hn) then
    .ok (s.setHandle x.tm.grp hn fun h => { h with st := .free, ending := false, rstamp := 0 }) 0
  else x.waitAll (.handleFree hn) s

def execBsetFree (h : Hdr) (o : RegForm) (s : State) : Host.Outcome State Fault Refusal :=
  issueWord (o.view 10 3 h) bsetFreeBody s

/-- `bset.reset` (R278): every waiter on the handle tests again. -/
def bsetResetBody (x : Env) (s : State) : Res :=
  let hn := x.v.d.idx
  let g := x.tm.grp
  let s := s.modHandle g hn fun h => { h with st := .free, serial := h.serial + 1, ending := false, rstamp := 0 }
  .ok ((s.wakeIn 4 fun t l => t.grp == g && l.wait.onHandle hn).after 4 (.handleWaiterWake g hn)) 0

def execBsetReset (h : Hdr) (o : RegForm) (s : State) : Host.Outcome State Fault Refusal :=
  issueWord (o.view 10 3 h) bsetResetBody s

/-- STATE codes of Table 9-1. -/
def HSt.ofCode (c : Nat) : HSt := match c with
  | 0 => .free | 1 => .filling | 2 => .full | _ => .draining
def HSt.code : HSt → Nat
  | .free => 0 | .filling => 1 | .full => 2 | .draining => 3

/-- `bwait` (R279). -/
def bwaitBody (x : Env) (s : State) : Res :=
  let hn := x.v.d.idx
  let st := HSt.ofCode (bits x.v.opt 1 0)
  x.needs hn [st] s fun h =>
    if st == .full && h.err != 0 then x.trapTeam 0x13 h.err hn s
    else
      let stamp := match st with
        | .full => h.stamp
        | .free => h.rstamp
        | .filling | .draining => 0
      .ok (s.modLanes x.t x.e fun _ y => y.acquire stamp) 0

def execBwait (h : Hdr) (o : RegForm) (s : State) : Host.Outcome State Fault Refusal :=
  issueWord (o.view 10 4 h) bwaitBody s

/-- INFL: copies of an older serial in flight (Table 9-5). -/
def State.inflight (s : State) (t : TeamRef) (g : GroupRef) (hn : Nat) (serial : W16) : Bool :=
  ([0, 1].any fun i => (s.chan t.die t.core i).queue.any fun x =>
    x.grp == g && x.handles.contains hn && x.serialOf hn != serial.toNat && !x.past s.clock) ||
  s.isDue fun e => match e with
    | .deliveryCount g' n ser _ _ => g' == g && n == hn && ser != serial.toNat
    | _ => false

/-- `bquery` (R281). -/
def bqueryBody (x : Env) (s : State) : Res :=
  let hn := x.v.a.idx
  let h := s.handle x.tm.grp hn
  let w := h.st.code + h.err * 4 + h.closed.toNat * 16 + (hn % 2) * 32 +
    (s.inflight x.t x.tm.grp hn h.serial).toNat * 64 + h.baren.toNat * 128 + h.bar * 256
  .ok (x.putOne s x.v.d 2 (h.res + w * 2 ^ 32) 4) 4

def execBquery (h : Hdr) (o : RegForm) (s : State) : Host.Outcome State Fault Refusal :=
  issueWord (o.view 10 5 h) bqueryBody s

/-- Write WPTR to D, acquiring the deliveries it counts (R280). -/
def Env.putWptr (x : Env) (h : Handle) (s : State) : Res :=
  .ok ((x.putOne s x.v.d 1 h.wptr 4).modLanes x.t x.e fun _ y => y.acquire h.stamp) 4

def wptrBody (x : Env) (s : State) : Res := x.putWptr (s.handle x.tm.grp x.v.a.idx) s

def execWptr (h : Hdr) (o : RegForm) (s : State) : Host.Outcome State Fault Refusal :=
  issueWord (o.view 10 6 h) wptrBody s

def wptrGeBody (x : Env) (s : State) : Res :=
  let hn := x.v.a.idx
  let n := x.b0 32
  if (x.group s).handleReady (.wptr hn n) then x.putWptr (s.handle x.tm.grp hn) s else x.waitAll (.wptr hn n) s

def execWptrGe (h : Hdr) (o : RegForm) (s : State) : Host.Outcome State Fault Refusal :=
  issueWord (o.view 10 6 h) wptrGeBody s

end Sys2Proof.Machine
end

