-- ==== Sys2Proof/Machine/Pipe.lean ====
section
/-! DEFINITION. Class 11 and tile pipes: the home's counters and requests, spills, staging, and their events (R283 to R300). -/

namespace Sys2Proof.Machine

/-! ### Counters (Table 9-6) -/

/-- A pipe's slots and counters at their starting values (R283, R285). -/
def Pipe.start (p : Pipe) : Pipe :=
  { p with
    slots := List.replicate (if p.crem then p.staging else p.depth)
      { st := .free, ticket := 0, holder := none, time := 0, isVoid := false, stamp := 0, rstamp := 0, lines := false }
    ticket := 0, closed := false, spilled := [], queue := [], deferred := [], changes := [], m := 0, sent := 0, releases := 0
    toSpill := 0, spillNext := 0, data := [], race := [] }

def Pipe.free (p : Pipe) : Nat := (p.slots.filter fun x => x.st == .free).length

/-- A committed tile is available once every tile with a lower ticket has been committed (R285). -/
def Pipe.avail (p : Pipe) (x : Slot) : Bool :=
  x.st == .committed && !(p.slots.any fun y => y.st == .reserved && y.ticket < x.ticket)

def Pipe.filled (p : Pipe) : Nat := (p.slots.filter fun x => p.avail x && !x.isVoid).length
def Pipe.spilln (p : Pipe) : Nat := (p.spilled.filter fun x => x.holder.isNone && !x.gone).length

/-- CLOSED, no tile available, and no slot reserved (R292). -/
def Pipe.ended (p : Pipe) : Bool :=
  p.closed && p.spilln == 0 && !p.slots.any fun x => x.st == .reserved || x.st == .spilling || (x.st == .committed && !x.isVoid)

/-- Index of the slot that satisfies `f` with the lowest ticket. -/
def Pipe.oldest (p : Pipe) (f : Slot → Bool) : Option (Nat × Slot) :=
  (p.slots.zipIdx.foldl (fun (b : Option (Nat × Slot)) (x, i) =>
    if f x then match b with
      | some (_, y) => if x.ticket < y.ticket then some (i, x) else b
      | none => some (i, x)
    else b) none)

/-- The slice's tile that satisfies `f` with the lowest ticket. -/
def Pipe.oldestSpilled (p : Pipe) (f : Spilled → Bool) : Option Spilled :=
  p.spilled.foldl (fun (b : Option Spilled) x => if !f x then b else match b with
    | some y => if x.ticket < y.ticket then some x else b
    | none => some x) none

def Pipe.modSlot (p : Pipe) (i : Nat) (f : Slot → Slot) : Pipe := { p with slots := updAt p.slots i f }

/-- The counters of Table 9-6. -/
def Pipe.counters (p : Pipe) : List Nat := [p.free, p.filled, p.spilln, p.closed.toNat]

/-- The plan's quiet count starts again where a counter of a pipe is no longer what it was in the state `was` (R297). -/
def State.pipeMoved (s was : State) (p : PipeRef) : State :=
  if (s.pipe? p).map Pipe.counters == (was.pipe? p).map Pipe.counters then s
  else s.modPlan p.ctx p.rcb fun x => { x with quiet := s.clock, declared := false }

/-- Have every pipe of a die that has requests waiting look again at the end of the cycle. -/
def State.pipesAgain (s : State) (d : Nat) : State :=
  (s.pipes.filter fun p => p.home == some d && !p.queue.isEmpty).foldl (fun s p => s.atEnd (.pipeRequestArrival p.ref)) s

/-! ### Spills (R295, R296) -/

/-- Slice position of a tile, as a virtual address. -/
def State.sliceAddr (s : State) (p : Pipe) (pos : Nat) : Nat :=
  let base := match s.plan? p.ref.ctx p.ref.rcb with
    | some x => x.spill
    | none => 0
  (base + 65536 * p.spillOff + pos * p.slotSize) % 2 ^ 48

/-- The next free slice position from the pointer on. -/
def Pipe.freePos (p : Pipe) : Option Nat :=
  ((List.range p.spillCap).map fun i => (p.spillNext + i) % p.spillCap).find? fun k => !p.spilled.any (·.pos == k)

/-- Write bytes into the context's memory, a sector at a time, where they translate (R479). -/
def State.ctxPut (s : State) (d ctx va : Nat) (bs : List Byte) : State :=
  match s.ctx? ctx with
  | none => s
  | some c => (List.range ((bs.length + 31) / 32)).foldl (fun s i =>
      s.recPut d c.walkfmt c.ptroot (va + 32 * i) ((bs.drop (32 * i)).take 32)) s

/-- Cycles of one tile's spill. -/
def Pipe.spillTime (p : Pipe) : Nat := 540 + p.slotSize / 64

/-- Start the next tile of a spill, if one remains that may go (R295). -/
def State.spillStart (s : State) (r : PipeRef) : State :=
  match s.pipe? r with
  | none => s
  | some p =>
    if p.toSpill = 0 || p.slots.any (fun x => x.st == .spilling) then s else
    match p.oldest (fun x => p.avail x && !x.isVoid), p.freePos with
    | some (i, _), some _ =>
      ((s.modPipe r fun p => p.modSlot i fun x => { x with st := .spilling }).after p.spillTime (.tileSpill r)).pipeMoved s r
    | _, _ => s.modPipe r fun p => { p with toSpill := 0 }

/-- Available home tiles that could be spilled beside those that already will be: as many as the slice has positions for (R293). -/
def Pipe.spillable (p : Pipe) : Nat :=
  let busy := (p.slots.filter fun x => x.st == .spilling).length
  min (p.filled - (p.toSpill - busy)) (p.spillCap - p.spilled.length - p.toSpill)

/-- Spill up to `n` more tiles of a pipe. -/
def State.spill (s : State) (r : PipeRef) (n : Nat) : State :=
  (s.modPipe r fun p => { p with toSpill := p.toSpill + min n p.spillable }).spillStart r

/-- TILE_SPILL (R295): a tile has been written to the slice; its home slot is free, and its lines are given up (log entry 22). -/
def tileSpill (r : PipeRef) (s : State) : State :=
  match s.pipe? r with
  | none => s
  | some p =>
    match p.oldest (fun x => x.st == .spilling), p.freePos with
    | some (i, x), some pos =>
      let d := p.home.getD 0
      let s := s.ctxPut d r.ctx (s.sliceAddr p pos) (cellsGet p.data (i * p.slotSize) p.slotSize)
      let was := s
      let s := s.modPipe r fun p => { p.modSlot i (fun x => { x with st := .free, lines := false }) with
        spilled := p.spilled ++ [⟨pos, x.ticket, x.time, x.stamp, none, false⟩]
        toSpill := p.toSpill - 1
        spillNext := (pos + 1) % p.spillCap }
      let s := ((s.bump d 0xA10 31 0).pipeMoved was r).spillStart r
      (s.atEnd (.pipeRequestArrival r)).pipesAgain d
    | _, _ => s

/-- Bytes of pipe lines that a die may hold: PIPECAP, and 16 of the 24 ways (R296; log entry 22). -/
def State.pipeRoom (s : State) (d : Nat) : Nat := min (s.fld d 0xA00 15 0 * 65536) (16 * 65536 * 128)

/-- A reservation of the lowest free slot would raise the die's pipe lines above what it may hold: a slot's lines are allocated when
it is first reserved (R283). -/
def State.pipePressed (s : State) (p : Pipe) : Bool :=
  match p.home, p.slots.find? fun x => x.st == .free with
  | some d, some x => !x.lines && s.pipeBytes d + p.slotSize > s.pipeRoom d
  | _, _ => false

/-- Bytes of a die's pipe lines that spills under way will give up. -/
def State.pipeSpilling (s : State) (d : Nat) : Nat := ((s.pipes.filter fun p => p.home == some d).map fun p => p.toSpill * p.slotSize).sum

/-- Spill available tiles of the die's pipes, deepest first and ties to the lower port, until a slot's lines fit (R296). -/
def State.pressureSpill (s : State) (d need : Nat) : State :=
  let ps := s.pipes.filter fun p => p.home == some d && p.spillable > 0
  let order := sortBy (fun (p : Pipe) => (512 - p.depth) * 64 + p.ref.w) ps
  (order.foldl (fun (a : Nat × State) p =>
    if a.1 = 0 then a else
    let n := min ((a.1 + p.slotSize - 1) / p.slotSize) p.spillable
    (a.1 - n * p.slotSize, a.2.spill p.ref n)) (need - s.pipeSpilling d, s)).2

/-! ### The home (R285, R287, R288) -/

/-- The slot pair of Table 9-7. -/
def pairOf (w index addr : Nat) (spilled end_ : Bool) : W64 :=
  BitVec.ofNat 64 (addr % 2 ^ 48 + index * 2 ^ 48 + w * 2 ^ 56 + end_.toNat * 2 ^ 62 + spilled.toNat * 2 ^ 63)

/-- Pipe address of a slot (R284). -/
def slotAddr (p : Pipe) (i : Nat) : Nat := 0xFF8000000000 + p.ref.w * 2 ^ 32 + i * p.slotSize

/-- One change that takes effect (R292, R368). -/
def State.applyChange (s : State) (r : PipeRef) (c : PipeChange) : State :=
  let plan : PlanRef := ⟨r.ctx, r.rcb⟩
  match s.pipe? r with
  | none => s
  | some p =>
    match c with
    | .commit i time stamp isVoid d key =>
      let s := s.modPipe r fun p => p.modSlot i fun x =>
        { x with st := .committed, time := time, isVoid := isVoid, stamp := stamp, holder := none }
      if isVoid then s else s.formBatch d plan [(.pipe r.w, time)] [] 0 key
    | .release i spilled stamp d key =>
      let time := if spilled then ((p.spilled.find? (·.pos == i)).map (·.time)).getD noTime
        else (p.slots.getD i default).time
      let s := s.modPipe r fun p =>
        if spilled then { p with spilled := p.spilled.filter (·.pos != i), releases := p.releases + 1 }
        else { p.modSlot i (fun x => { x with st := .free, holder := none, rstamp := stamp }) with releases := p.releases + 1 }
      let s := s.formBatch d plan [] [(.stage p.cons, time)] stamp key
      if p.prem then
        s.postMsg (p.home.getD 0) plan p.peer s.clock (.credit r (p.releases + 1))
      else s
    | .close _ => s.modPipe r fun p => { p with closed := true }
    | .deliver .. => s

/-- Void tiles that have become available are freed (R294). -/
def Pipe.dropVoid (p : Pipe) : Pipe :=
  { p with slots := p.slots.map fun x => if x.isVoid && p.avail x then { x with st := .free, isVoid := false } else x }

/-- A stage closes when one of its groups receives END or drains (R463). -/
def State.closeStage (s : State) (g : GroupRef) : State :=
  let gr := s.groupOf g
  s.modStage g.ctx gr.rcb gr.stage fun x => { x with open_ := false }

/-- Write a pair to the destination of a request. -/
def State.putPair (s : State) (q : PipeReq) (pair : W64) (lat : Nat) : State :=
  match q.dst with
  | .k _ _ n => s.writeK q.team q.lanes q.pc n.toNat 2 pair.toNat lat
  | o => s.modLanes q.team q.lanes fun _ y => writeG o 2 pair.toNat y

/-- Scope of the acquire of a served request: it spans the team's die and the pipe's home, and other devices for a pipe across them
(R289, DEDUCED, log entry 110). -/
def State.pipeScope (s : State) (r : PipeRef) (d : Nat) : Nat := match s.pipe? r with
  | some p => if p.crem || p.prem then 5 else if p.home == some d then 3 else 4
  | none => 3

/-- A request is answered: at once, with the pair at the request's latency; or from the queue, in this cycle (R288). -/
def State.answerPipe (s : State) (r : PipeRef) (q : PipeReq) (pair : W64) (time : Option W64) (stamp : Nat) : State :=
  let s := if pair.getLsbD 62 then s.closeStage q.grp else s
  if q.isNew then
    let due := some (s.clock + q.lat)
    let s := s.modLanes q.team q.lanes fun _ y =>
      { (y.pass s.clock { q.win with due := due, olds := y.holds q.win.writes }) with
        pc := nextPc q.pc, hold := max y.hold (s.clock + 1), ra := none }
    let s := s.putPair q pair q.lat
    s.after q.lat (.pipeCounterChange r (.deliver q.team q.lanes q.pc q.dst pair time stamp))
  else
    let s := s.putPair q pair 0
    let s := s.modLanes q.team q.lanes fun _ y => match time with
      | some t => { y with ltnow := t }
      | none => y
    (s.lanesDrop q.team.die q.lanes (s.pipeScope r q.team.die)).passLanes q.team q.lanes stamp

/-- Slot i's lines, where it holds none, are allocated: they start with clear race records (R283, R343). -/
def Pipe.takeLines (p : Pipe) (i : Nat) : Pipe :=
  let spans (k line : Nat) : Bool := k * p.slotSize / 128 ≤ line && 128 * line < (k + 1) * p.slotSize
  let held (line : Nat) : Bool := p.slots.zipIdx.any fun (x, k) => x.lines && spans k line
  { (p.modSlot i fun x => { x with lines := true }) with race := p.race.filter fun r => !(spans i (r.1 / 4) && !held (r.1 / 4)) }

/-- A free slot is filled or reserved with its lines allocated in the home's L2, whose sets make room for them. -/
def State.takeSlot (s : State) (r : PipeRef) (i : Nat) (f : Slot → Slot) : State :=
  match s.pipe? r with
  | none => s
  | some p =>
    let d := p.home.getD 0
    let old := s.pipeBytes d / 128
    (s.modPipe r fun p => (p.takeLines i).modSlot i f).fitL2 d old

/-- Serve a `pres`: none where it cannot be served. -/
def State.servePres (s : State) (r : PipeRef) (p : Pipe) (q : PipeReq) : Option State :=
  if p.closed then some (s.answerPipe r q (pairOf r.w 0 0 false true) none 0)
  else match p.slots.zipIdx.find? fun (x, _) => x.st == .free with
    | none => none
    | some (x, i) =>
      if s.pipePressed p then none else
      let s := s.takeSlot r i fun y => { y with st := .reserved, ticket := p.ticket, holder := some q.grp, isVoid := false }
      let s := s.modPipe r fun p => { p with ticket := p.ticket + 1 }
      some (s.answerPipe r q (pairOf r.w i (slotAddr p i) false false) none x.rstamp)

/-- Serve a `ptake`: the available tile with the lowest ticket, of a home slot or of the slice. -/
def State.serveTake (s : State) (r : PipeRef) (p : Pipe) (q : PipeReq) : Option State :=
  if p.ended then some (s.answerPipe r q (pairOf r.w 0 0 false true) none 0) else
  let home := p.oldest fun x => x.st == .spilling || (p.avail x && !x.isVoid)
  let sl := p.oldestSpilled fun x => x.holder.isNone && !x.gone
  let counts (s : State) (t : W64) : State :=
    let (st, s) := s.release q.team.die (s.lane q.team (lowest q.lanes)).horizon
    s.formBatch q.team.die ⟨r.ctx, r.rcb⟩ [(.stage p.cons, t)] [(.pipe r.w, t)] st q.key
  let fromHome (i : Nat) (x : Slot) : Option State :=
    if x.st == .spilling then none else
    let s := s.modPipe r fun p => p.modSlot i fun y => { y with st := .taken, holder := some q.grp }
    some ((counts s x.time).answerPipe r q (pairOf r.w i (slotAddr p i) false false) (some x.time) x.stamp)
  let fromSlice (x : Spilled) : Option State :=
    let s := s.modPipe r fun p => { p with spilled := updIf p.spilled (·.pos == x.pos) fun y => { y with holder := some q.grp } }
    some ((counts s x.time).answerPipe r q (pairOf r.w x.pos (s.sliceAddr p x.pos) true false) (some x.time) x.stamp)
  match home, sl with
  | some (i, x), some y => if y.ticket < x.ticket then fromSlice y else fromHome i x
  | some (i, x), none => fromHome i x
  | none, some y => fromSlice y
  | none, none => none

/-- Serve one request, or keep it queued with its lanes waiting. -/
def State.serveReq (s : State) (r : PipeRef) (q : PipeReq) : State :=
  match s.pipe? r with
  | none => s
  | some p =>
    let res := if p.home.isNone then none else if q.take then s.serveTake r p q else s.servePres r p q
    match res with
    | some s' => s'.pipeMoved s r
    | none =>
      let s := if !q.take && p.home.isSome && p.free > 0 && !p.closed && s.pipePressed p then
          s.pressureSpill (p.home.getD 0) (s.pipeBytes (p.home.getD 0) + p.slotSize - s.pipeRoom (p.home.getD 0)) else s
      let s := if q.isNew then s.waitLanes q.team q.lanes (if p.home.isNone then .pipeHome r.w else .pipe r.w) else s
      s.modPipe r fun p => { p with queue := p.queue ++ [{ q with isNew := false }] }

def changeKey : PipeChange → Nat
  | .commit _ _ _ _ _ k | .release _ _ _ _ k | .close k => k
  | .deliver .. => 0

/-- Tiles of a staging queue that have credit are sent (R300). -/
def State.stageSend (s : State) (r : PipeRef) : State :=
  match s.pipe? r with
  | some p => if p.crem && p.depth + p.m > p.sent && p.filled + p.spilln > 0 then s.after 0 (.stagingTransfer r) else s
  | none => s

/-- The request, for those of its lanes that still wait for it or, at the home at once, are not parked: a parked lane makes its own again
when it returns (R288, R423, R450). -/
def State.liveReq (s : State) (r : PipeRef) (q : PipeReq) : Option PipeReq :=
  let live (y : Lane) : Bool := match y.st with
    | .exited | .parked => false
    | _ => q.isNew || (y.st == .op && (y.wait == .pipe r.w || y.wait == .pipeHome r.w) && y.pc == q.pc)
  match s.team? q.team with
  | none => none
  | some tm =>
    let ls := (lanesOf q.lanes).filter fun l => live (tm.lane l)
    if ls.isEmpty || tm.grp != q.grp then none else some { q with lanes := maskOf ls }

/-- PIPE_REQUEST_ARRIVAL (R287): changes by identifier, then queued requests in order, then new ones by identifier. -/
def pipeRequestArrival (r : PipeRef) (s : State) : State :=
  match s.pipe? r with
  | none => s
  | some p =>
    let later (q : PipeReq) : Bool := s.clock < q.since
    let s := s.modPipe r fun p => { p with changes := [], queue := p.queue.filter later }
    let s := if p.changes.isEmpty then s else
      (sortBy changeKey p.changes).foldl (fun s c => (s.applyChange r c).pipeMoved s r) s
    let s := (s.modPipe r Pipe.dropVoid).pipeMoved s r
    let live := p.queue.filterMap (s.liveReq r)
    let old := live.filter fun q => !q.isNew && !later q
    let new := sortBy (fun (q : PipeReq) => q.key) (live.filter (·.isNew))
    let s := (old ++ new).foldl (fun s q => s.serveReq r q) s
    let s := (s.spillStart r).stageSend r
    if p.changes.isEmpty then s else match p.home with
      | some d => s.pipesAgain d
      | none => s

/-- PIPE_COUNTER_CHANGE: a commit, release or close takes effect at the home, with the queued requests it serves; or a
served pair reaches its lanes (R288), an acquire (R289). -/
def pipeCounterChange (r : PipeRef) (c : PipeChange) (s : State) : State :=
  match c with
  | .deliver t m _ _ _ time stamp =>
    (s.lanesDrop t.die m (s.pipeScope r t.die)).modLanes t m fun _ y =>
      let y := y.acquire stamp
      match time with
      | some x => { y with ltnow := x }
      | none => y
  | c => (s.modPipe r fun p => { p with changes := p.changes ++ [c] }).after 0 (.pipeRequestArrival r)

/-- The home of a pipe is fixed (R23): the requests that wait for it are sent there. -/
def State.fixHome (s : State) (r : PipeRef) (d : Nat) : State :=
  match s.pipe? r with
  | none => s
  | some p =>
    if p.home.isSome then s else
    let s := s.modPipe r fun p => { p with home := some d }
    p.queue.foldl (fun s q =>
      let c := s.clock + s.pipeLat q.team.die r
      let s := s.modPipe r fun p => { p with queue := updIf p.queue (· == q) fun q => { q with since := c } }
      (s.modLanes q.team q.lanes fun _ y => { y with wait := .pipe r.w }).at_ c (.pipeRequestArrival r)) s

/-! ### Across devices (R300) -/

/-- Bytes of a tile of the slice; free values where the slice cannot be read (R479). -/
def State.sliceBytes (s : State) (p : Pipe) (pos : Nat) : List Byte × State :=
  let free (s : State) := (leBytes p.slotSize (Config.freeNat s.fresh), { s with fresh := s.fresh + 1 })
  match s.ctx? p.ref.ctx with
  | none => free s
  | some c => match s.recBytes (p.home.getD 0) c.walkfmt c.ptroot (s.sliceAddr p pos) p.slotSize with
    | (.ok bs, s) => (bs, s)
    | (.error _, s) => free s

/-- A tile of a staging queue leaves with its time (R300). -/
def State.sendTile (s : State) (p : Pipe) (time : W64) (bytes : List Byte) : State :=
  let s := s.modPipe p.ref fun p => { p with sent := p.sent + 1 }
  let s := s.post (p.home.getD 0) ⟨p.ref.ctx, p.ref.rcb⟩ p.peer (256 + p.ref.w) 0 p.slotSize s.clock (.tile time bytes)
  s.stageSend p.ref

/-- STAGING_TRANSFER: the oldest available staging tile leaves, from its slot or from the slice (R295, R300). -/
def stagingTransfer (r : PipeRef) (s : State) : State :=
  match s.pipe? r with
  | none => s
  | some p =>
    if !(p.crem && p.depth + p.m > p.sent) then s else
    let slot (i : Nat) (x : Slot) : State :=
      if x.st == .spilling then s else
      ((s.modPipe r fun p => p.modSlot i fun y => { y with st := .taken }).pipeMoved s r).sendTile p x.time (cellsGet p.data (i * p.slotSize) p.slotSize)
    let slice (x : Spilled) : State :=
      let (bs, s) := s.sliceBytes p x.pos
      ((s.modPipe r fun p => { p with spilled := updIf p.spilled (·.pos == x.pos) fun y => { y with gone := true } }).pipeMoved s r).sendTile p x.time bs
    match p.oldest fun x => x.st == .spilling || (p.avail x && !x.isVoid), p.oldestSpilled fun x => x.holder.isNone && !x.gone with
    | some (i, x), some y => if y.ticket < x.ticket then slice y else slot i x
    | some (i, x), none => slot i x
    | none, some y => slice y
    | none, none => s

/-- STAGING_ACK: the consumer's home has the oldest tile in transfer; its staging slot, or its place in the slice, is free. -/
def stagingAck (r : PipeRef) (s : State) : State :=
  match s.pipe? r with
  | none => s
  | some p =>
    let slot (i : Nat) : State := s.modPipe r fun p => p.modSlot i fun x => { x with st := .free }
    let slice (y : Spilled) : State := s.modPipe r fun p => { p with spilled := p.spilled.filter (·.pos != y.pos) }
    let go (t : State) : State := (t.pipeMoved s r).atEnd (.pipeRequestArrival r)
    match p.oldest fun x => x.st == .taken && x.holder.isNone, p.oldestSpilled fun y => y.holder.isNone && y.gone with
    | some (i, x), some y => go (if y.ticket < x.ticket then slice y else slot i)
    | some (i, _), none => go (slot i)
    | none, some y => go (slice y)
    | none, none => s

/-- TILE_ARRIVAL: a tile from the peer is committed into a home slot, as if by `pcom` now, and acknowledged; the
producer counted it. -/
def tileArrival (r : PipeRef) (time : W64) (bytes : List Byte) (s : State) : State :=
  match s.pipe? r with
  | none => s
  | some p =>
    match p.slots.zipIdx.find? fun (x, _) => x.st == .free with
    | none => s
    | some (_, i) =>
      let was := s
      let s := s.takeSlot r i fun x => { x with st := .committed, ticket := p.ticket, time := time, isVoid := false, holder := none }
      let s := s.modPipe r fun p => { p with
        ticket := p.ticket + 1
        data := cellsPut p.data (i * p.slotSize) (bytes.take p.slotSize) }
      let s := { s with fab := { s.fab with outAck := s.fab.outAck ++ [(p.peer, p.ticket, false)] } }
      (s.pipeMoved was r).atEnd (.pipeRequestArrival r)

/-- CREDIT_REPORT: the consumer's total of releases; a lower one changes nothing. -/
def creditReport (r : PipeRef) (total : Nat) (s : State) : State :=
  (s.modPipe r fun p => { p with m := max p.m total }).stageSend r

def execPipeRequestArrival (s : State) : Host.Outcome State Fault Refusal :=
  match s.ev with
  | some (.pipeRequestArrival r) => .next (pipeRequestArrival r { s with ev := none })
  | _ => .fault .noEvent

def execPipeCounterChange (s : State) : Host.Outcome State Fault Refusal :=
  match s.ev with
  | some (.pipeCounterChange r c) => .next (pipeCounterChange r c { s with ev := none })
  | _ => .fault .noEvent

def execTileSpill (s : State) : Host.Outcome State Fault Refusal :=
  match s.ev with
  | some (.tileSpill r) => .next (tileSpill r { s with ev := none })
  | _ => .fault .noEvent

def execStagingTransfer (s : State) : Host.Outcome State Fault Refusal :=
  match s.ev with
  | some (.stagingTransfer r) => .next (stagingTransfer r { s with ev := none })
  | _ => .fault .noEvent

def execTileArrival (s : State) : Host.Outcome State Fault Refusal :=
  match s.ev with
  | some (.tileArrival r t bs) => .next (tileArrival r t bs { s with ev := none })
  | _ => .fault .noEvent

def execCreditReport (s : State) : Host.Outcome State Fault Refusal :=
  match s.ev with
  | some (.creditReport r n) => .next (creditReport r n { s with ev := none })
  | _ => .fault .noEvent

def execStagingAck (s : State) : Host.Outcome State Fault Refusal :=
  match s.ev with
  | some (.stagingAck r) => .next (stagingAck r { s with ev := none })
  | _ => .fault .noEvent

/-! ### Class 11 instructions (R286, R291 to R294) -/

inductive Side where
  | prod | cons | either
  deriving DecidableEq, Repr

/-- The pipe that operand A names, where the thread's stage has the side (R291); else the pipe-port trap. -/
def Env.port (x : Env) (side : Side) (s : State) : Option Pipe :=
  let g := x.group s
  match s.pipe? ⟨g.ref.ctx, g.rcb, x.v.a.idx⟩ with
  | none => none
  | some p =>
    let isProd := !p.prem && p.prod == g.stage
    let isCons := !p.crem && p.cons == g.stage
    if (match side with
      | .prod => isProd
      | .cons => isCons
      | .either => isProd || isCons) then some p else none

def Env.portTrap (x : Env) (s : State) : Res := x.trapTeam 0x14 0 x.v.a.idx s

/-- A `pres` or `ptake`: its request is served or queued at the end of the cycle (R287, R288). -/
def Env.request (x : Env) (take : Bool) (p : Pipe) (s : State) : Res :=
  let w : Window := { pc := x.pc, due := none, left := x.v.h.la.toNat, writes := x.v.writes 0, olds := [], fence := false, reads := false }
  let q : PipeReq := { take := take, team := x.t, lanes := x.e, pc := x.pc, grp := x.tm.grp, key := x.key,
                       lat := s.pipeLat x.t.die p.ref, dst := x.v.d, isNew := true, since := 0, win := w }
  let s := s.modLanes x.t x.e fun _ y => { y with hold := max y.hold (s.clock + 1) }
  .all ((s.modPipe p.ref fun p => { p with queue := p.queue ++ [q] }).atEnd (.pipeRequestArrival p.ref)) x .stay

def presBody (x : Env) (s : State) : Res :=
  match x.port .prod s with
  | some p => x.request false p s
  | none => x.portTrap s

def execPres (h : Hdr) (o : RegForm) (s : State) : Host.Outcome State Fault Refusal :=
  issueWord (o.view 11 0 h) presBody s

def ptakeBody (x : Env) (s : State) : Res :=
  match x.port .cons s with
  | some p => x.request true p s
  | none => x.portTrap s

def execPtake (h : Hdr) (o : RegForm) (s : State) : Host.Outcome State Fault Refusal :=
  issueWord (o.view 11 2 h) ptakeBody s

/-- What a slot pair names: pipe, index, and whether it stands in the slice. -/
def Env.pair (x : Env) (s : State) : Option (Pipe × Nat × Bool) :=
  let v := x.a0 64
  if bits v 62 61 != 0 then none else
  let g := x.group s
  (s.pipe? ⟨g.ref.ctx, g.rcb, bits v 60 56⟩).map fun p => (p, bits v 55 48, v.testBit 63)

/-- The pair names a slot that the group holds reserved (R286). -/
def Env.reserved (x : Env) (s : State) : Option (Pipe × Nat) :=
  match x.pair s with
  | some (p, i, false) =>
    let y := p.slots.getD i default
    if i < p.slots.length && y.st == .reserved && y.holder == some x.tm.grp then some (p, i) else none
  | _ => none

/-- The pair names a slot or slice position that the group holds taken. -/
def Env.taken (x : Env) (s : State) : Option (Pipe × Nat × Bool) :=
  match x.pair s with
  | some (p, i, false) =>
    let y := p.slots.getD i default
    if i < p.slots.length && y.st == .taken && y.holder == some x.tm.grp then some (p, i, false) else none
  | some (p, i, true) =>
    if p.spilled.any fun y => y.pos == i && y.holder == some x.tm.grp && !y.gone then some (p, i, true) else none
  | none => none

def Env.slotTrap (x : Env) (s : State) : Res := x.trapTeam 0x15 0 (bits (x.a0 64) 60 56) s

/-- Issue a change of a slot: deferred while a copy or job of it is outstanding (R292). -/
def State.issueChange (s : State) (d : Nat) (p : PipeRef) (i : Nat) (sp : Bool) (c : PipeChange) : State :=
  if s.slotBusy p i sp then s.modPipe p fun y => { y with deferred := y.deferred ++ [(i, sp, c)] }
  else s.after (s.pipeLat d p) (.pipeCounterChange p c)

/-- The group no longer holds the slot. -/
def State.dropHolder (s : State) (p : PipeRef) (i : Nat) (sp : Bool) : State :=
  s.modPipe p fun y => if sp then { y with spilled := updIf y.spilled (·.pos == i) fun z => { z with gone := true } }
    else y.modSlot i fun z => { z with holder := none }

def pcomBody (x : Env) (s : State) : Res :=
  match x.reserved s with
  | none => x.slotTrap s
  | some (p, i) =>
    let t := (x.tm.lane x.l0).ltnow
    if !s.covered (x.group s) t then .team s x (ltInfo 1 t.toNat)
    else match summary p.path t with
      | none => .team s x (ltInfo 3 t.toNat)
      | some u =>
        if u == noTime then .team s x (ltInfo 3 t.toNat) else
        let (st, s) := x.release0 s
        let s := s.dropHolder p.ref i false
        .ok (s.issueChange x.t.die p.ref i false (.commit i u st false x.t.die x.key)) 0

def execPcom (h : Hdr) (o : RegForm) (s : State) : Host.Outcome State Fault Refusal :=
  issueWord (o.view 11 1 h) pcomBody s

def prelBody (x : Env) (s : State) : Res :=
  match x.taken s with
  | none => x.slotTrap s
  | some (p, i, sp) =>
    let (st, s) := x.release0 s
    let s := s.dropHolder p.ref i sp
    .ok (s.issueChange x.t.die p.ref i sp (.release i sp st x.t.die x.key)) 0

def execPrel (h : Hdr) (o : RegForm) (s : State) : Host.Outcome State Fault Refusal :=
  issueWord (o.view 11 3 h) prelBody s

/-- Units of 32 bytes of a slot. -/
def slotUnits (p : Pipe) : List Nat := (List.range (p.slotSize / 32)).map (32 * ·)

/-- `pcpy.in` (R292). -/
def pcpyInBody (x : Env) (s : State) : Res :=
  let hn := x.v.d.idx
  match x.taken s with
  | none => x.slotTrap s
  | some (p, i, sp) =>
    x.needs hn [.filling] s fun h =>
      if h.res + p.slotSize > h.len then x.trapTeam 0x12 0 hn s
      else
        let g := x.group s
        let src (o : Nat) : Site := if sp then .mem ((s.sliceAddr p i + o) % 2 ^ 48) else .pipe p.ref (i * p.slotSize + o)
        let es := (slotUnits p).map fun o => (⟨hn, src o, scrSite g (h.base + h.res + o) 32 .over, 0, 0, 32, 32⟩ : Elem)
        let (st, s) := x.release0 s
        let s := s.setHandle x.tm.grp hn fun h => { h.reserve p.slotSize with closed := h.closed || x.v.opt.testBit 1 }
        .ok (s.enqueue x.t.die x.t.core (hn % 2)
          (.make .inCopy x.tm.grp hn h.serial false es s.clock st (some (p.ref, i, sp)))) 0

def execPcpyIn (h : Hdr) (o : RegForm) (s : State) : Host.Outcome State Fault Refusal :=
  issueWord (o.view 11 4 h) pcpyInBody s

/-- `pcpy.out` (R292). -/
def pcpyOutBody (x : Env) (s : State) : Res :=
  let hn := x.v.d.idx
  match x.reserved s with
  | none => x.slotTrap s
  | some (p, i) =>
    x.needs hn [.full, .draining] s fun h =>
      let g := x.group s
      let es := (slotUnits p).map fun o => (⟨hn, scrSite g (h.base + o) 32 .beyond, .pipe p.ref (i * p.slotSize + o), 0, 0, 32, 0⟩ : Elem)
      let (st, s) := x.release0 s
      let s := s.setHandle x.tm.grp hn Handle.outIssue
      .ok (s.enqueue x.t.die x.t.core (hn % 2)
        (.make .outCopy x.tm.grp hn h.serial (x.v.opt.testBit 1) es s.clock st (some (p.ref, i, false)))) 0

def execPcpyOut (h : Hdr) (o : RegForm) (s : State) : Host.Outcome State Fault Refusal :=
  issueWord (o.view 11 4 h) pcpyOutBody s

/-- `pquery` (R293); before the home is fixed the counters stand at their starting values (R23). -/
def pqueryBody (x : Env) (s : State) : Res :=
  match x.port .either s with
  | none => x.portTrap s
  | some q =>
    let p : Pipe := if q.home.isSome then q
      else { q with slots := List.replicate q.slots.length default, spilled := [], closed := false, sent := 0, m := 0 }
    let lat := s.pipeLat x.t.die p.ref
    let credit := p.crem && p.depth + p.m ≤ p.sent && p.filled + p.spilln > 0
    let w := p.free + p.filled * 2 ^ 10 + p.spilln * 2 ^ 20 + p.closed.toNat * 2 ^ 29 + credit.toNat * 2 ^ 30
    let first := (p.oldest fun y => p.avail y && !y.isVoid).map fun e => (e.2.ticket, e.2.time)
    let slice := (p.spilled.filter fun y => y.holder.isNone && !y.gone).map fun y => (y.ticket, y.time)
    let t := (first.toList ++ slice).foldl (fun (b : Option (Nat × W64)) e => match b with
      | some c => if e.1 < c.1 then some e else b
      | none => some e) none
    let v := if x.ty == .b64 then ((t.map (·.2)).getD noTime).toNat else w
    .ok (x.putOne s x.v.d x.ty.regs v lat) lat

def execPquery (h : Hdr) (o : RegForm) (s : State) : Host.Outcome State Fault Refusal :=
  issueWord (o.view 11 5 h) pqueryBody s

/-- `pspill` (R293, R295). A count outside 1 to 256 from a register is taken as the tiles it can reach. -/
def pspillBody (x : Env) (s : State) : Res :=
  match x.port .either s with
  | none => x.portTrap s
  | some p => .ok (s.spill p.ref (x.b0 32)) 0

def execPspill (h : Hdr) (o : RegForm) (s : State) : Host.Outcome State Fault Refusal :=
  issueWord (o.view 11 6 h) pspillBody s

/-- `pdrain` (R293, R463). -/
def pdrainBody (x : Env) (s : State) : Res :=
  match x.port .prod s with
  | none => x.portTrap s
  | some p => .ok ((s.closeStage x.tm.grp).after (s.pipeLat x.t.die p.ref) (.pipeCounterChange p.ref (.close x.key))) 0

def execPdrain (h : Hdr) (o : RegForm) (s : State) : Host.Outcome State Fault Refusal :=
  issueWord (o.view 11 7 h) pdrainBody s

/-- The slots that a group holds at its exit are committed void or released (R294). -/
def State.exitSlots (s : State) (g : GroupRef) (d key : Nat) : State :=
  s.pipes.foldl (fun s p =>
    let s := p.slots.zipIdx.foldl (fun s (x, i) =>
      if x.holder != some g then s
      else if x.st == .reserved then
        (s.dropHolder p.ref i false).issueChange d p.ref i false (.commit i noTime 0 true d key)
      else if x.st == .taken then
        (s.dropHolder p.ref i false).issueChange d p.ref i false (.release i false (s.die d).c d key)
      else s) s
    p.spilled.foldl (fun s x =>
      if x.holder != some g || x.gone then s
      else (s.dropHolder p.ref x.pos true).issueChange d p.ref x.pos true (.release x.pos true (s.die d).c d key)) s) s

end Sys2Proof.Machine
end

