-- ==== Sys2Proof/Machine/Fabric.lean ====
section
/-! DEFINITION. Class 14, operations 0 to 4, and the fabrics: UALink, circuits, send queues, receive windows (R390 to R403,
R409 to R414, R475, R476). -/

namespace Sys2Proof.Machine

/-! ### Slot tables (R395, R396) -/

/-- Cycles of one slot: its guard interval and its data period. -/
def SlotTable.slotLen (t : SlotTable) : Nat := (1 + t.slotUs) * 1500
def SlotTable.period (t : SlotTable) : Nat := t.nslot * t.slotLen
def SlotTable.peer (t : SlotTable) (k q : Nat) : Option Nat := t.peers.getD (32 * k + q) none

/-- The connections that a table names: slot, plane, peer. -/
def SlotTable.conns (t : SlotTable) : List (Nat × Nat × Nat) :=
  t.peers.zipIdx.filterMap fun (p, i) => p.map fun d => (i / 32, i % 32, d)

/-- An image read from memory; none where it is malformed. -/
def parseTable (own : Nat) (bs : List Byte) : Option SlotTable :=
  let w := leVal (bs.take 8)
  let nslot := bits w 55 50
  let us := if bits w 49 40 = 0 then 10 else bits w 49 40
  let tail := if bits w 39 32 = 0 then 10 else bits w 39 32
  let halves := (List.range (32 * nslot)).map fun i => leVal ((bs.drop (64 + 2 * i)).take 2)
  let ok := bits w 63 56 == 8 && bits w 31 0 == 0 && (bs.drop 8).take 56 == List.replicate 56 0 && nslot ≥ 1 && us ≥ 2 && us ≤ 1000 &&
    tail < 10 * us && halves.all fun h => bits h 14 10 == 0 && !(h.testBit 15 && bits h 9 0 == own)
  if ok then some { nslot := nslot, slotUs := us, tail := tail,
                    peers := halves.map fun h => if h.testBit 15 then some (bits h 9 0) else none }
  else none

/-- Slot and cycle within it, of the active table. -/
def State.slotNow (s : State) (t : SlotTable) : Nat × Nat :=
  let x := (s.clock - s.fab.base) % t.period
  (x / t.slotLen, x % t.slotLen)

/-! ### Routes (R391, R398) -/

/-- Planes that reach a device now, in a data period. -/
def State.planesTo (s : State) (t : SlotTable) (dest : Nat) : List Nat :=
  let (k, off) := s.slotNow t
  if off < 1500 then [] else
  (List.range 32).filter fun q => s.fab.planes.testBit q && t.peer k q == some dest

/-! ### Entries (R397 to R399) -/

def State.modEntry (s : State) (id : Nat) (f : SendEntry → SendEntry) : State :=
  s.modFab fun x => { x with entries := updIf x.entries (·.id == id) f }

/-- An entry completes: its number completes, and an error goes to the group's send error word. -/
def State.endEntry (s : State) (e : SendEntry) (err : Nat) : State :=
  let s := s.modFab fun x => { x with entries := x.entries.filter (·.id != e.id) }
  let s := if err = 0 then s else s.modGroup e.grp fun g => { g with sendErr := g.sendErr.add err ((e.tc.map fun t => t.2.toNat).getD 0) }
  let s := match e.tc with
    | some (tc, n) => s.after 0 (.tlSigComplete e.grp tc n.toNat e.stamp none)
    | none => s
  let s := s.admitWaiting
  match s.fab.entries.find? (·.dest == e.dest) with
  | some x => s.once (s.clock + 1) (.sendEligible x.id)
  | none => s

/-- Read `n` source bytes line by line. -/
def State.readRun (s : State) (d core : Nat) (g : GroupRef) (va n : Nat) : Except (Nat × Nat) (Option (List Byte)) × State :=
  let starts := (List.range (n / 128 + 1)).map fun i => if i = 0 then va else va / 128 * 128 + 128 * i
  starts.foldl (fun (acc : Except (Nat × Nat) (Option (List Byte)) × State) a =>
    match acc with
    | (.ok (some bs), s) =>
      let m := min (128 - a % 128) (va + n - a)
      if m = 0 then (.ok (some bs), s) else
      match s.elemRead d core g (.mem (a % 2 ^ 48)) m with
      | (.ok (some b), s) => (.ok (some (bs ++ b)), s)
      | r => r
    | r => r) (.ok (some []), s)

/-- What a frame draws on: its eight sectors of the fabric, and those of its source (R86, R398). -/
def State.frameDraws (s : State) (e : SendEntry) (off : Nat) : List (Nat × Nat × Nat) :=
  ((List.range 8).map fun i => (3, e.die, i)) ++
    if e.isSend then s.siteDraws e.die e.core e.grp 1 ((List.range 8).map fun i => .mem ((e.src + off + 32 * i) % 2 ^ 48)) else []

/-- The payload of an entry's frame: what an `fx.send` reads when the frame is formed (R410), or what the device sends itself. -/
def State.framePayload (s : State) (e : SendEntry) (off : Nat) : Except (Nat × Nat) (Option (List Byte)) × State :=
  if e.isSend then s.readRun e.die e.core e.grp (e.src + off) 256 else (.ok (some (e.load.payload off)), s)

/-- What of an entry becomes known on the far end with a frame: a message with its own, a partial or result with its last. -/
def SendEntry.tells (e : SendEntry) (off : Nat) : Option CtlMsg := match e.load with
  | .msg m => some m
  | .part m _ => if off + 256 ≥ e.len then some m else none
  | .send | .tile .. => none

/-- Form the frame of an entry at an offset, and send it; false where Sluice holds it, its walk is held, or the source stops it. -/
def State.sendFrame (s : State) (e : SendEntry) (off : Nat) (again : Bool) : Bool × State :=
  let mine : Waiter := .unit (.sendEligible e.id)
  if s.unitHeld (.sendEligible e.id) then (false, s) else
  let (ok, s) := if e.drawn || !s.throttled then (true, s) else s.sluice e.grp false mine (s.frameDraws e off)
  let s := s.modEntry e.id fun x => { x with drawn := !ok }
  if !ok then (false, s) else
    match s.framePayload e off with
    | (.error (9, _), s) => (false, (s.modEntry e.id fun x => { x with drawn := true }).once (s.clock + 1) (.sendEligible e.id))
    | (.error (check, addr), s) =>
      let s := (s.modEntry e.id fun x => { x with stopped := some 0 }).bump e.die 0xA18 31 16
      (false, s.unitRec e.die 0x33 e.grp.ctx (BitVec.ofNat 32 check) (BitVec.ofNat 64 addr)
        (BitVec.ofNat 64 (e.core + 2 * 256 + e.queue * 1024)) (.send e.id))
    | (.ok none, s) => (false, s.endEntry e 1)
    | (.ok (some bs), s) =>
      let start := match e.load with
        | .tile t _ => t.toNat
        | _ => e.offset
      let f : Frame := { srcDev := s.fab.devid, ctx := e.grp.ctx % 4096, window := e.win, start := start, length := e.len,
                         offset := e.offset + off, gen := s.topoGen, seq := e.seq + off / 256, payload := bs }
      let told := ((e.tells off).map fun m => (e.dest, m)).toList
      let s := s.modEntry e.id fun x =>
        { x with next := if again then x.next else off + 256, lost := x.lost.filter (· != off), flight := x.flight ++ [(off, s.clock)] }
      let s := if again then s.bump 0 0xE30 63 32 else s
      (true, s.modFab fun x => { x with sent := if e.isMsg then x.sent else x.sent ++ [(e.dest, f)], sentMsg := x.sentMsg ++ told })

/-- The next frame of a queue: unacknowledged frames first, then the first entry with frames left, the device's own traffic ahead of
`fx.send` (R397); a stopped entry holds those behind it. On UALink every entry is eligible that has formed. -/
def State.nextFrame (s : State) (dest : Nat) (ua : Bool := false) : Option (SendEntry × Nat × Bool) :=
  let mine := s.fab.entries.filter (·.dest == dest)
  let own := mine.filter fun e => !e.isSend && (e.elig ≤ s.clock || (ua && e.formed ≤ s.clock))
  let q := own ++ (mine.filter (·.isSend)).takeWhile (·.stopped.isNone)
  match q.find? fun e => !e.lost.isEmpty with
  | some e => some (e, e.lost.headD 0, true)
  | none =>
    match q.find? fun e => e.next < e.len with
    | some e => if e.elig ≤ s.clock || (ua && e.formed ≤ s.clock) then some (e, e.next, false) else none
    | none => none

/-- 28ths of a cycle that a frame takes on a plane: 3.75 cycles, at 7/8 of the rate while a wavelength is recalibrated. -/
def State.frameTime (s : State) (q : Nat) : Nat := if s.fab.lambda.any (·.1 == q) then 120 else 105

/-- The plane among `qs` that is free earliest, the lower one in a tie, and when it is. -/
def State.freePlane (s : State) (qs : List Nat) : Option (Nat × Nat) :=
  qs.foldl (fun b q =>
    let f := max (28 * s.clock) (s.fab.planeAt.getD q 0)
    match b with
    | some (_, g) => if f < g then some (q, f) else b
    | none => some (q, f)) none

/-- Send the frames of a queue that start in this cycle on its planes. -/
def State.pumpOptical (s : State) (t : SlotTable) (dest : Nat) : Nat → State
  | 0 => s
  | n + 1 =>
    match s.nextFrame dest, s.freePlane (s.planesTo t dest) with
    | some (e, off, again), some (q, f) =>
      let (_, at_) := s.slotNow t
      let ends := 28 * (s.clock - at_ + t.slotLen - 150 * t.tail)
      let d := s.frameTime q
      if f + d > ends then s
      else if f ≥ 28 * (s.clock + 1) then s.once (f / 28) (.sendEligible e.id)
      else
        match s.sendFrame e off again with
        | (false, s) => s
        | (true, s) => (s.modFab fun x => { x with planeAt := updAt x.planeAt q fun _ => f + d }).pumpOptical t dest n
    | _, _ => s

/-- The port among those of a mask that is free earliest, in 25ths of a cycle (100 GB/s carries a frame in 3.84 cycles). -/
def State.freePort (s : State) (mask : Nat) : Option (Nat × Nat) :=
  ((List.range 16).filter fun p => (mask &&& s.fab.ports).testBit p).foldl (fun b p =>
    let f := max (25 * s.clock) (s.fab.portAt.getD p 0)
    match b with
    | some (_, g) => if f < g then some (p, f) else b
    | none => some (p, f)) none

/-- Send the frames of a queue that start in this cycle on UALink. -/
def State.pumpUalink (s : State) (mask dest : Nat) : Nat → State
  | 0 => s
  | n + 1 =>
    match s.nextFrame dest true, s.freePort mask with
    | some (e, off, again), some (p, f) =>
      if f ≥ 25 * (s.clock + 1) then s.once (f / 25) (.sendEligible e.id)
      else
        match s.sendFrame e off again with
        | (false, s) => s
        | (true, s) => (s.modFab fun x => { x with portAt := updAt x.portAt p fun _ => f + 96 }).pumpUalink mask dest n
    | _, _ => s

/-- Send what a destination's queue can send now. -/
def State.pump (s : State) (dest : Nat) : State :=
  match s.uaRoute dest with
  | some mask => s.pumpUalink mask dest 64
  | none => match s.fab.active with
    | some t => s.pumpOptical t dest 128
    | none => s

/-- SEND_ELIGIBLE (R398). -/
def sendEligible (id : Nat) (s : State) : State :=
  match s.fab.entries.find? (·.id == id) with
  | some e => s.pump e.dest
  | none => s

/-- Control messages that have formed for an optical destination become eligible (R400). -/
def State.wakeMsgs (s : State) (dest : Nat) : State :=
  s.modFab fun x => { x with entries := updIf x.entries (fun e => e.dest == dest && e.isMsg && e.formed ≤ s.clock) fun e =>
    { e with elig := min e.elig s.clock } }

/-- DATA_PERIOD_START (R395, R398, R400): what waits for the slot's peers goes, and the guard interval follows. -/
def dataPeriodStart (s : State) : State :=
  match s.fab.active with
  | none => s
  | some t =>
    let (k, off) := s.slotNow t
    let s := s.at_ (s.clock - off + t.slotLen) .guardInterval
    let ds := ((List.range 32).filterMap fun q => if s.fab.planes.testBit q then t.peer k q else none).dedup
    ds.foldl (fun s d => if (s.uaRoute d).isSome then s else (s.wakeMsgs d).pump d) s

/-- GUARD_INTERVAL (R395, R399): the switches reconfigure, and what is in flight is lost and will be sent again. -/
def guardInterval (s : State) : State :=
  let s := s.modFab fun x => { x with entries := x.entries.map fun e =>
    if (s.uaRoute e.dest).isSome then e
    else { e with lost := sortBy id (e.lost ++ e.flight.map (·.1)), flight := [] } }
  if s.fab.active.isSome then s.after 1500 .dataPeriodStart else s

/-- FRAME_ACK_RECEIVE (R399): a frame is acknowledged, or its window refuses the entry. -/
def frameAckReceive (id off : Nat) (refused : Bool) (s : State) : State :=
  match s.fab.entries.find? (·.id == id) with
  | none => s
  | some e =>
    if refused then s.endEntry e 2
    else if e.acked.contains off || !e.flight.any (·.1 == off) then s
    else
      let e' := { e with acked := e.acked ++ [off], flight := e.flight.filter (·.1 != off) }
      let s := s.modEntry id fun _ => e'
      if 256 * e'.acked.length ≥ e.len then s.endEntry e' 0 else s

/-- The reply to a send entry that its source stopped (R399). -/
def State.sendReply (s : State) (id : Nat) (retry : Bool) : State :=
  match s.fab.entries.find? (·.id == id) with
  | none => s
  | some e =>
    if retry then (s.modEntry id fun x => { x with stopped := none }).once s.clock (.sendEligible id) else s.endEntry e 3

/-! ### Receiving (R399, R403) -/

def winBaseReg (w : Nat) : Nat := 0xE80 + 16 * w
def winBytesReg (w : Nat) : Nat := 0xF80 + 8 * w

/-- Window `w` accepts an entry of a context: `len` bytes from offset `start` (R403). -/
def State.windowTakes (s : State) (ctx w start len : Nat) : Bool :=
  let r := winBaseReg w
  s.fld 0 r 60 60 == 1 && start + len ≤ s.fld 0 (r + 8) 39 0 && ctx == s.fld 0 r 59 48

/-- FRAME_RECEIVE: a frame is written once at its home, served to the fabric (R240), and acknowledged, or refuses its entry. One for which
no die stands as its home is neither written nor acknowledged. Frames above window 15 are tiles of a cross-device pipe, which arrive as
`tileArrival`. -/
def frameReceive (f : Frame) (s : State) : State :=
  let ack (refused : Bool) (s : State) : State := s.modFab fun x => { x with outAck := x.outAck ++ [(f.srcDev, f.seq, refused)] }
  if f.window > 15 then ack true s
  else if !s.windowTakes f.ctx f.window f.start f.length then ack true s
  else if s.fab.seen.contains (f.srcDev, f.seq) then ack false s
  else
    let pa := s.fld 0 (winBaseReg f.window) 47 0 + f.offset
    match homeOf pa with
    | none => s
    | some h =>
      let s := (((s.touchL2 h pa 0).touchL2 h (pa + 128) 0).devPut h pa (f.payload.take 256)).heat pa 4 8
      let s := s.setReg 0 (winBytesReg f.window) (s.reg 0 (winBytesReg f.window) + 256)
      ack false (s.modFab fun x => { x with seen := x.seen ++ [(f.srcDev, f.seq)] })

/-- RECEIVE_WINDOW_ENABLE: a write of RWBASE, RWCTX and RWEN; setting RWEN clears RXBYTES (Table 13-9). -/
def receiveWindowEnable (w : Nat) (v : W64) (s : State) : State :=
  let was := s.fld 0 (winBaseReg w) 60 60
  let s := s.setReg 0 (winBaseReg w) (v &&& BitVec.ofNat 64 (2 ^ 61 - 1))
  if was == 0 && v.getLsbD 60 then s.setReg 0 (winBytesReg w) 0 else s

/-! ### UALink ports (R393) -/

/-- What a unit was to have at a cycle comes at another: the read or write of a channel, the data or writes of an engine's step, the record
of an `mx.post`, or else what an event brings. -/
def State.moveUnit (s : State) (due till : Nat) (e : Event) : State :=
  match e with
  | .copyReadComplete d core ix =>
    let late (x : CopyDesc) : CopyDesc := { x with ready := updIf x.ready (· == some due) fun _ => some till }
    (s.modChan d core ix fun c => { c with queue := c.queue.map late }).at_ till e
  | .copyDescriptorStart d core ix =>
    ((s.modChan d core ix fun c => { c with queue := updIf c.queue (·.done == due) fun x => { x with done := till } }).at_ till e).at_ (till + 1) e
  | .jobComplete d c k =>
    let late (r : RunJob) : RunJob :=
      { r with ends := if r.ends == due then till else r.ends, wrote := if r.wrote == due then till else r.wrote }
    (s.modEngine d (2 * c + k) fun y => { y with run := y.run.map late, ending := y.ending.map fun x => (late x.1, x.2) }).at_ till e
  | .memoryAccessPerform a => match a.post with
    | some (t, m) => (s.modLanes t m fun _ y => if y.wait == .mxPost due then { y with wait := .mxPost till } else y).at_ till e
    | none => s
  | _ => { s with agenda := updIf s.agenda (· == (due, e)) fun _ => (max till s.clock, e) }

/-- What a port carries comes at another cycle. -/
def State.moveFlight (s : State) (f : Flight) (till : Nat) : State :=
  match f.who with
  | .lanes t m pc since win => s.moveAccess t m pc since (fun n => n + till - f.due) win
  | .unit e => s.moveUnit f.due till e
  | .nobody => s

/-- UALINK_REPLAY: the flits of a port go again, and what they carry comes 1980 cycles later. -/
def ualinkReplay (p : Nat) (s : State) : State :=
  let mine (f : Flight) : Bool := f.port == p && s.clock < f.due && f.held.isNone
  let s := (s.fab.flight.filter mine).foldl (fun s f => s.moveFlight f (f.due + 1980)) s
  (s.bump 0 0xE30 31 0).modFab fun x => { x with
    portAt := updAt x.portAt p fun f => max f (25 * s.clock) + 25 * 1980
    flight := updIf x.flight mine fun f => { f with due := f.due + 1980 } }

/-- UALINK_PORT_FAIL (R393): the port's flits go again on those of the mask that remain; where none does they wait, at most the time that an
access waits for a port. -/
def ualinkPortFail (p : Nat) (s : State) : State :=
  let s := s.modFab fun x => { x with ports := setBits x.ports p p 0 }
  let mine (f : Flight) : Bool := f.port == p && s.clock < f.due && f.held.isNone
  let other (f : Flight) : Option Nat := (List.range 16).find? fun k => (f.mask &&& s.fab.ports).testBit k
  let s := (s.fab.flight.filter fun f => mine f && (other f).isNone).foldl (fun s f => s.moveFlight f (f.due + portPatience)) s
  s.modFab fun x => { x with flight := updIf x.flight mine fun f => match other f with
    | some k => { f with port := k }
    | none => { f with due := f.due + portPatience, held := some s.clock } }

/-- Flits that waited for a port of their mask go on, later by the time that they have waited. -/
def State.goFlights (s : State) : State :=
  let go (f : Flight) : Bool := f.held.isSome && f.mask &&& s.fab.ports != 0
  let till (f : Flight) : Nat := f.due - portPatience + (s.clock - f.held.getD s.clock)
  let s := (s.fab.flight.filter go).foldl (fun s f => s.moveFlight f (till f)) s
  s.modFab fun x => { x with flight := updIf x.flight go fun f =>
    { f with due := till f, held := none, port := ((List.range 16).find? fun k => (f.mask &&& s.fab.ports).testBit k).getD f.port } }

/-- UALINK_PORT_RETRAIN: accesses and flits that wait for a port go on. -/
def ualinkPortRetrain (p : Nat) (s : State) : State :=
  let s := (s.modFab fun x => { x with ports := setBits x.ports p p 1 }).goFlights
  let s := s.wakeWhere fun _ l => match l.wait with
    | .port dev .. => match s.uaRoute dev with
      | some m => m &&& s.fab.ports != 0
      | none => true
    | _ => false
  ((s.fab.entries.map (·.dest)).dedup.filter fun d => (s.uaRoute d).isSome).foldl State.pump s

/-- UALINK_ROUTE_TIMEOUT: accesses that have waited for 2^24 cycles raise the memory-error fault. -/
def ualinkRouteTimeout (dev : Nat) (s : State) : State :=
  (s.lanesWhere fun _ l => l.st == .op && (match l.wait with
    | .port d _ since => d == dev && since + portPatience ≤ s.clock
    | _ => false)).foldl (fun s x =>
      match s.team? x.1 with
      | some tm => (pcsOf tm x.2).foldl (fun s p =>
          let m := pick x.2 fun l => (tm.lane l).pc.toNat == p
          s.raise x.1 (BitVec.ofNat 48 p) (tm.key (lowest m)) ((lanesOf m).map fun l => (l, match (tm.lane l).wait with
            | .port _ pa _ => checkInfo 8 pa
            | _ => checkInfo 8 0))) s
      | none => s) s

/-! ### Circuits (R401, R402) -/

/-- The connections that a device's pending request names. -/
def State.pendingConns (s : State) (dev : Nat) : Option (List (Nat × Nat × Nat)) :=
  if dev == s.fab.devid then
    match s.fab.circ, s.fab.staged with
    | some c, some t => if c.at_.isSome then some t.conns else none
    | _, _ => none
  else (s.fab.peers.find? (·.1 == dev)).map fun p => p.2.2

/-- The connections that a device has now, as far as this device's table shows them. -/
def State.oldConns (s : State) (dev : Nat) : List (Nat × Nat × Nat) := match s.fab.active with
  | none => []
  | some t => if dev == s.fab.devid then t.conns else t.conns.filterMap fun c => if c.2.2 == dev then some (c.1, c.2.1, s.fab.devid) else none

/-- The devices on which a pending request rests: those of the connections that it names, and those whose old connections it breaks. -/
def State.restsOn (s : State) (dev : Nat) : List Nat :=
  let new := (s.pendingConns dev).getD []
  (new.map (·.2.2) ++ ((s.oldConns dev).filter fun c => !new.contains c).map (·.2.2)).dedup

/-- A device's request is satisfied (R402): each connection that it names is named in reverse by the peer's pending request, and every device
whose old connections it breaks has one. -/
def State.satisfied (s : State) (dev : Nat) : Bool := match s.pendingConns dev with
  | none => false
  | some new =>
    new.all (fun c => ((s.pendingConns c.2.2).getD []).contains (c.1, c.2.1, dev)) &&
    (s.restsOn dev).all fun p => (s.pendingConns p).isSome

/-- Where the device's request is satisfied, set the boundary of its application. With no table active there is no rotation,
and the boundary is the first cycle 50 µs on. -/
def State.tryCircuits (s : State) : State :=
  if s.fab.apply.isSome then s else
  match s.fab.circ with
  | none => s
  | some c =>
    match c.at_ with
    | none => s
    | some mine =>
      if !s.satisfied s.fab.devid then s else
      let set := s.restsOn s.fab.devid
      let last := (s.fab.peers.filter fun p => set.contains p.1).foldl (fun m p => max m p.2.1) mine
      let t0 := last + 75000
      let at_ := match s.fab.active with
        | some t => s.fab.base + (t0 - s.fab.base + t.period - 1) / t.period * t.period
        | none => t0
      (s.modFab fun x => { x with apply := some at_ }).at_ at_ .tableActivation

/-- CIRCUIT_REQUEST_ARRIVAL (R402, R475): a request of this device or of a peer reaches the switch planes. -/
def circuitRequestArrival (dev : Nat) (conns : List (Nat × Nat × Nat)) (s : State) : State :=
  let s := s.modFab fun x =>
    if dev == x.devid then { x with circ := x.circ.map fun c => { c with at_ := some s.clock } }
    else { x with peers := (x.peers.filter (·.1 != dev)) ++ [(dev, s.clock, conns)] }
  s.tryCircuits

/-- The `fx.circ` of the device ends with a status, written 4 cycles later (R411); neither its timeout nor its arrival is awaited any more. -/
def State.endCirc (s : State) (status : Nat) : State :=
  match s.fab.circ with
  | none => s
  | some c =>
    let s := (s.modFab fun x => { x with circ := none }).cancel fun e =>
      e == .circuitRequestWithdraw s.fab.devid || e == .circuitRequestArrival s.fab.devid []
    let m := pick c.lanes fun l => (s.lane c.team l).st == .op && (s.lane c.team l).wait == .circ
    let rs : List RegName := match c.dst with
      | .g _ _ n => [.g n.toNat]
      | _ => []
    -- the pass of the lanes takes one from `left`
    (s.modLanes c.team m fun _ y => { writeG c.dst 1 status y with
      win := y.win ++ [{ pc := y.pc, due := some (s.clock + 4), left := c.la + 1, writes := rs, olds := y.holds rs, fence := false, reads := false }] }).passLanes
        c.team m 0

/-- TABLE_ACTIVATION (R401, R402): the staged table becomes active, topo.gen advances, and the `fx.circ` completes. The requests of peers that
the switches apply by this boundary are pending no more; the others stand. -/
def tableActivation (s : State) : State :=
  match s.fab.staged with
  | none => s
  | some t =>
    if s.fab.apply != some s.clock then s else
    let s := s.cancel fun e => e == .dataPeriodStart || e == .guardInterval
    let left := s.fab.peers.filter fun p => !(s.satisfied p.1 && p.2.1 + 75000 ≤ s.clock)
    let s := guardInterval (s.modFab fun x => { x with active := none })
    let s := s.modFab fun x => { x with active := some t, staged := none, base := s.clock, apply := none, peers := left }
    let s := s.setFld 0 0xE00 31 16 ((s.topoGen + 1) % 65536)
    let s := s.modFab fun x => { x with entries := x.entries.map fun e => { e with stranded := !s.routed e.dest } }
    let s := (s.after 1500 .dataPeriodStart).endCirc 0
    s.wakeWhere fun _ l => match l.wait with
      | .gen x => x.toNat != s.topoGen
      | _ => false

/-- CIRCUIT_REQUEST_WITHDRAW (R402): a request not satisfied in time is withdrawn; this device's completes with status 1. -/
def circuitRequestWithdraw (dev : Nat) (s : State) : State :=
  if dev == s.fab.devid then (if s.fab.apply.isSome then s else s.endCirc 1)
  else s.modFab fun x => { x with peers := x.peers.filter (·.1 != dev) }

def execUalinkReplay (s : State) : Host.Outcome State Fault Refusal :=
  match s.ev with
  | some (.ualinkReplay p) => if p < 16 then .next (ualinkReplay p { s with ev := none }) else .fault .noUnit
  | _ => .fault .noEvent

def execUalinkPortFail (s : State) : Host.Outcome State Fault Refusal :=
  match s.ev with
  | some (.ualinkPortFail p) => if p < 16 then .next (ualinkPortFail p { s with ev := none }) else .fault .noUnit
  | _ => .fault .noEvent

def execUalinkPortRetrain (s : State) : Host.Outcome State Fault Refusal :=
  match s.ev with
  | some (.ualinkPortRetrain p) => if p < 16 then .next (ualinkPortRetrain p { s with ev := none }) else .fault .noUnit
  | _ => .fault .noEvent

def execUalinkRouteTimeout (s : State) : Host.Outcome State Fault Refusal :=
  match s.ev with
  | some (.ualinkRouteTimeout dev) => .next (ualinkRouteTimeout dev { s with ev := none })
  | _ => .fault .noEvent

def execSendEligible (s : State) : Host.Outcome State Fault Refusal :=
  match s.ev with
  | some (.sendEligible id) => .next (sendEligible id { s with ev := none })
  | _ => .fault .noEvent

def execDataPeriodStart (s : State) : Host.Outcome State Fault Refusal :=
  match s.ev with
  | some .dataPeriodStart => .next (dataPeriodStart { s with ev := none })
  | _ => .fault .noEvent

def execGuardInterval (s : State) : Host.Outcome State Fault Refusal :=
  match s.ev with
  | some .guardInterval => .next (guardInterval { s with ev := none })
  | _ => .fault .noEvent

def execFrameReceive (s : State) : Host.Outcome State Fault Refusal :=
  match s.ev with
  | some (.frameReceive f) => .next (frameReceive f { s with ev := none })
  | _ => .fault .noEvent

def execFrameAckReceive (s : State) : Host.Outcome State Fault Refusal :=
  match s.ev with
  | some (.frameAckReceive id off refused) => .next (frameAckReceive id off refused { s with ev := none })
  | _ => .fault .noEvent

def execCircuitRequestArrival (s : State) : Host.Outcome State Fault Refusal :=
  match s.ev with
  | some (.circuitRequestArrival dev conns) => .next (circuitRequestArrival dev conns { s with ev := none })
  | _ => .fault .noEvent

def execTableActivation (s : State) : Host.Outcome State Fault Refusal :=
  match s.ev with
  | some .tableActivation => .next (tableActivation { s with ev := none })
  | _ => .fault .noEvent

def execCircuitRequestWithdraw (s : State) : Host.Outcome State Fault Refusal :=
  match s.ev with
  | some (.circuitRequestWithdraw dev) => .next (circuitRequestWithdraw dev { s with ev := none })
  | _ => .fault .noEvent

def execReceiveWindowEnable (s : State) : Host.Outcome State Fault Refusal :=
  match s.ev with
  | some (.receiveWindowEnable w v) => if w < 16 then .next (receiveWindowEnable w v { s with ev := none }) else .fault .noUnit
  | _ => .fault .noEvent

/-! ### Class 14, operations 0 to 4 (R409 to R414) -/

/-- The stale check: the trap where the operand is not topo.gen. -/
def State.stale (s : State) (gen : Nat) : Option TrapInfo :=
  if gen != s.topoGen then some (.simple 0x1C gen s.topoGen) else none

/-- The field that a descriptor fails by (no coding is given; log entry 14). -/
def sendField (s : State) (len w3 off : Nat) : Option Nat :=
  if len % 256 != 0 || len < 256 || len > 2 ^ 24 then some 0
  else if off % 256 != 0 || off / 2 ^ 40 != 0 then some 1
  else if w3 / 2 ^ 14 != 0 then some 2
  else if bits w3 9 0 == s.fab.devid then some 3
  else none

/-- `fx.send` (R410). -/
def fxSendBody (x : Env) (s : State) : Res :=
  let q := x.a0 128
  let len := bits q 95 64
  let w3 := bits q 127 96
  let off := x.c0 64
  let dest := bits w3 9 0
  match s.stale (x.b0 32 % 65536) with
  | some i => .all s x (.trap i)
  | none =>
    match sendField s len w3 off with
    | some f => x.trapAll 0x1D (Config.fieldDetail f).toNat dest s
    | none =>
      if !s.routed dest then x.trapAll 0x1E 0 dest s else
      let (st, s) := s.releaseLanes x.t x.e
      let (tc, s) := if x.v.d.isNone then (none, s) else
        let (n, s) := s.issueNumber x.tm.grp x.v.d.idx
        (some (x.v.d.idx, n), s)
      let id := s.fab.nextId
      let elig := s.clock + (if (s.uaRoute dest).isSome then 0 else 750)
      let e : SendEntry := { id := id, dest := dest, win := bits w3 13 10, grp := x.tm.grp, tc := tc, src := bits q 47 0, len := len,
                             offset := off, gen := BitVec.ofNat 16 s.topoGen, formed := s.clock, elig := elig, next := 0, flight := [], acked := [], lost := [],
                             seq := s.fab.nextSeq, die := x.t.die, core := x.t.core, queue := s.sendQueue dest, stamp := st, stopped := none,
                             stranded := false, drawn := false, load := .send }
      let s := s.modFab fun y => { y with entries := y.entries ++ [e], nextId := id + 1, nextSeq := y.nextSeq + len / 256 }
      .ok (s.at_ elig (.sendEligible id)) 0

def execFxSend (h : Hdr) (o : RegForm) (s : State) : Host.Outcome State Fault Refusal :=
  issueWord (o.view 14 0 h) fxSendBody s

/-- The context may use `fx.slot` and `fx.circ` (Table 13-9). -/
def Env.fxOwner (x : Env) (s : State) : Bool := s.fld 0 0xE08 12 12 == 1 && x.ctx == s.fld 0 0xE08 11 0

/-- `fx.circ` (R402, R411, R475). -/
def fxCircBody (x : Env) (s : State) : Res :=
  if !x.fxOwner s then x.trapAll 0x1F 0 0 s else
  match s.stale (x.a0 32 % 65536) with
  | some i => .all s x (.trap i)
  | none =>
    if s.fab.circ.isSome then .ok (x.putOne s x.v.d 1 2 4) 4
    else if s.fab.staged.isNone then .ok (x.putOne s x.v.d 1 3 4) 4
    else
      let s := s.modFab fun y => { y with circ := some { team := x.t, lanes := x.e, dst := x.v.d, la := x.v.h.la.toNat, at_ := none } }
      let way := 600 + (3 * s.fab.fibre.getD 0 0 + 1) / 2
      let s := s.after way (.circuitRequestArrival s.fab.devid [])
      x.waitAll .circ (s.after (s.fld 0 0xE20 31 0 * 1500) (.circuitRequestWithdraw s.fab.devid))

def execFxCirc (h : Hdr) (o : RegForm) (s : State) : Host.Outcome State Fault Refusal :=
  issueWord (o.view 14 1 h) fxCircBody s

/-- `fx.gen` (R412). -/
def fxGenBody (x : Env) (s : State) : Res := .ok (x.putOne s x.v.d 1 s.topoGen 4) 4

def execFxGen (h : Hdr) (o : RegForm) (s : State) : Host.Outcome State Fault Refusal :=
  issueWord (o.view 14 2 h) fxGenBody s

/-- `fx.gen.ne`: wait until topo.gen differs, then as `fx.gen`. -/
def fxGenNeBody (x : Env) (s : State) : Res :=
  let want : W16 := BitVec.ofNat 16 (x.b0 32)
  if want.toNat == s.topoGen then x.waitAll (.gen want) s else fxGenBody x s

def execFxGenNe (h : Hdr) (o : RegForm) (s : State) : Host.Outcome State Fault Refusal :=
  issueWord (o.view 14 2 h) fxGenNeBody s

/-- The bytes of a slot-table image, line by line, each under the checks of R413; its latency too. -/
def Env.readImage (x : Env) (va : Nat) : Nat → Nat → List Byte → Nat → State → Except ChkRes (List Byte × Nat) × State
  | 0, _, acc, lat, s => (.ok (acc, lat), s)
  | n + 1, i, acc, lat, s =>
    let (c, _, s) := x.check s false 64 1 false true x.l0 ((va + 64 * i : Nat) : Int) [] s
    match c.res with
    | .ok p =>
      let s := s.sluiceAll x true [(x.l0, p)] false
      let (l, s) := s.touchLoad x.t.die p 0 0 c.walk
      let (bs, s) := s.placeBytes p 64
      x.readImage va n (i + 1) (acc ++ bs) (max lat (l + c.walk)) s
    | r => (.error r, s)

/-- `fx.slot` (R413). -/
def fxSlotBody (x : Env) (s : State) : Res :=
  if !x.fxOwner s then x.trapAll 0x1F 0 0 s else
  let va := x.a0 64
  let stop (r : ChkRes) (s : State) : Res := match r with
    | .bad _ i => .all s x (.trap i)
    | .hold w => x.waitAll w s
    | .ok _ => .ok s 0
  match x.readImage va 1 0 [] 0 s with
  | (.error r, s) => stop r s
  | (.ok (h, l0), s) =>
    match x.readImage va (bits (leVal (h.take 8)) 55 50) 1 h l0 s with
    | (.error r, s) => stop r s
    | (.ok (bs, lat), s) =>
      match parseTable s.fab.devid bs with
      | none => x.trapAll 0x1D (Config.fieldDetail 4).toNat 0 s
      | some t =>
        if s.fab.circ.isSome then x.trapAll 0x1D (Config.fieldDetail 5).toNat 0 s
        else .ok (s.modFab fun y => { y with staged := some t }) lat

def execFxSlot (h : Hdr) (o : RegForm) (s : State) : Host.Outcome State Fault Refusal :=
  issueWord (o.view 14 3 h) fxSlotBody s

/-- Value of a selector (Table 13-5). -/
def fxQstatVal (x : Env) (s : State) (sel arg : Nat) : Nat :=
  match sel with
  | 0 =>
    let (slot, n) := match s.fab.active with
      | some t => ((s.slotNow t).1, t.nslot - 1)
      | none => (0, 0)
    s.topoGen + slot * 2 ^ 16 + s.fab.staged.isSome.toNat * 2 ^ 22 + s.fab.circ.isSome.toNat * 2 ^ 23 + n * 2 ^ 24
  | 1 =>
    let es := s.fab.entries.filter (·.dest == arg % 1024)
    (es.map fun e => e.len - 256 * e.acked.length).sum % 2 ^ 32 + es.length * 2 ^ 32 + (es.any (·.stranded)).toNat * 2 ^ 48 +
      (s.uaRoute (arg % 1024)).isSome.toNat * 2 ^ 49
  | 2 =>
    let w := arg % 16
    if s.fld 0 (winBaseReg w) 59 48 == x.ctx then (s.reg 0 (winBytesReg w)).toNat else 0
  | _ => errWordVal (x.group s).sendErr

/-- `fx.qstat` (R414). -/
def fxQstatBody (x : Env) (s : State) : Res :=
  let sel := x.v.a.opt
  let v := fxQstatVal x s sel (x.b0 32)
  let s := if sel == 3 then s.modGroup x.tm.grp fun g => { g with sendErr := ⟨0, 0, 0⟩ } else s
  let s := if sel == 2 then s.acquireDrop x.t.die 2 5 else s
  .ok (x.putOne s x.v.d 2 v 4) 4

def execFxQstat (h : Hdr) (o : RegForm) (s : State) : Host.Outcome State Fault Refusal :=
  issueWord (o.view 14 4 h) fxQstatBody s

end Sys2Proof.Machine
end

