-- ==== Sys2Proof/Machine/Collective.lean ====
section
/-! DEFINITION. Class 14, operations 8 to 10, and collectives: chunks, reduce blocks, commits and redos (R400, R404 to R408,
R415 to R418). -/

namespace Sys2Proof.Machine

/-! ### The collective of a launch -/

def State.launch? (s : State) (ctx rcb : Nat) : Option Launch := (s.plan? ctx rcb).bind (·.launch)
def State.collOf (s : State) (ctx rcb : Nat) : Option Coll := (s.launch? ctx rcb).bind (·.coll)

/-- Children of a rank in a tree, ascending. -/
def childrenOf (tree : List Nat) (rank : Nat) : List Nat :=
  tree.zipIdx.filterMap fun (p, i) => if p == rank then some i else none
def rootOf (tree : List Nat) : Nat := (tree.zipIdx.find? fun x => x.1 == 0xFFFF).elim 0 (·.2)

def Coll.treeOf (k : Coll) (alt : Bool) : List Nat := if alt then k.alttree else k.tree
def Coll.member (k : Coll) (r : Nat) : Nat := k.members.getD r 0
def Coll.bytes (k : Coll) : Nat := 2 ^ k.clog

/-- Physical address of the staging area of a chunk for a rank (R406). -/
def State.stageAddr (s : State) (k : Coll) (c r : Nat) : Nat :=
  s.fld 0 (winBaseReg k.rwin) 47 0 + (c * k.nmem + r) * k.bytes

/-- Virtual address of a chunk (R405). -/
def chunkAddr (l : Launch) (k : Coll) (c : Nat) : Nat := (l.resbase + c * k.bytes) % 2 ^ 48

/-- Bytes of a context's virtual space; a free value where they cannot be read. -/
def State.ctxRead (s : State) (d ctx va n : Nat) : List Byte × State :=
  let free (s : State) := (leBytes n (Config.freeNat s.fresh), { s with fresh := s.fresh + 1 })
  match s.ctx? ctx with
  | none => free s
  | some c => match s.recBytes d c.walkfmt c.ptroot va n with
    | (.ok bs, s) => (bs, s)
    | (.error _, s) => free s

/-- Write bytes to a context's virtual space, page by page; a page without backing is not written. -/
def State.ctxStore (s : State) (d ctx va : Nat) (bs : List Byte) : State :=
  match s.ctx? ctx with
  | none => s
  | some c =>
    ((List.range (bs.length / 4096 + 2)).map fun i => if i = 0 then va else va / 4096 * 4096 + 4096 * i).foldl (fun s a =>
      if a ≥ va + bs.length then s else
      let piece := (bs.drop (a - va)).take (4096 - a % 4096)
      s.recPut d c.walkfmt c.ptroot a piece) s

/-- The words of `a` and `b` combined under OP of Table 13-3. -/
def combine (op : Nat) (a b : List Byte) : List Byte :=
  let f : Nat → Nat → Nat := match op with
    | 0 => redOp 8 .f32
    | 1 => redOp 0 .n32
    | _ => redOp 10 .f32
  (List.range (a.length / 4)).flatMap fun i => leBytes 4 (f (leVal ((a.drop (4 * i)).take 4)) (leVal ((b.drop (4 * i)).take 4)))

/-! ### Messages -/

/-- The die on which a context's collective works: that of its queue. -/
def State.coordOf (s : State) (ctx : Nat) : Nat := match s.ctx? ctx with
  | some c => c.coord
  | none => 0

/-- A collective notice of a chunk's launch leaves for a rank's device (R400). -/
def State.sendMsg (s : State) (x : Chunk) (dest : Nat) (m : CtlMsg) : State := s.postMsg (s.coordOf x.ctx) ⟨x.ctx, x.rcb⟩ dest s.clock m

/-- A partial for an offset of the window of the staging area leaves, or a result, frame by frame (R397, R406, R407). -/
def State.sendPart (s : State) (x : Chunk) (dest win off : Nat) (m : CtlMsg) (bs : List Byte) : State :=
  s.post (s.coordOf x.ctx) ⟨x.ctx, x.rcb⟩ dest win off bs.length s.clock (.part m bs)

/-! ### Reduce blocks (R405, R406) -/

/-- Lines of an area that starts at `pa`. -/
def areaLines (pa n : Nat) : List Nat := (List.range ((n + 127) / 128)).map fun i => pa + 128 * i

/-- Physical lines of a part of a context's virtual space, as far as it translates. -/
def State.vaLines (s : State) (d ctx va n : Nat) : List Nat :=
  match s.ctx? ctx with
  | none => []
  | some c => (areaLines va n).filterMap fun a => match (s.recAddr d c.walkfmt c.ptroot a).1 with
    | .ok pa => some pa
    | .error _ => none

/-- A chunk's transfer or block draws on the reserved part of its context's buckets, line by line, each read or written (R88): it may go on,
or goes on with the event `me` once Sluice has let it pass. A context that is away has no buckets. -/
def State.collDraw (s : State) (x : Chunk) (d : Nat) (me : Event) (lines : Unit → List (Nat × Bool)) : Bool × State :=
  if s.unitHeld me then (false, s)
  else if x.passed.contains me then (true, s.modChunk x.ctx x.rcb x.c fun y => { y with passed := y.passed.erase me })
  else if !s.throttled || (s.away? x.ctx).isSome then (true, s)
  else
    let needs := (lines ()).flatMap fun p => needsOf ((List.range 4).flatMap fun i => s.draws d (.mem (p.1 + 32 * i)) p.2)
    let zero := match (s.plan? x.ctx x.rcb).bind fun p => p.stages.head? with
      | some st => needs.any fun n => st.rates.getD n.1 1 == 0
      | none => false
    let (ok, s) := s.sluiceGo x.ctx true zero (.unit me) needs
    (ok, if ok then s else s.modChunk x.ctx x.rcb x.c fun y => { y with passed := y.passed ++ [me] })

/-- Cycles of a reduce block of some areas (R406), with the latencies of their reads and of `src`, and the caches afterwards. -/
def State.blockTime (s : State) (d : Nat) (k : Coll) (src areas : List Nat) : Nat × State :=
  let (lat, s) := (src ++ areas).foldl (fun (a : Nat × State) pa => let (n, s) := a.2.loadLine d pa 0 0; (a.1 + n, s)) (0, s)
  (120 + areas.length * k.bytes / 128 + lat, s)

/-- The areas that a reduce block of a chunk reads: its contribution, and those of its children. -/
def State.blockAreas (s : State) (k : Coll) (c : Nat) (alt : Bool) : List Nat :=
  s.stageAddr k c k.rank :: (childrenOf (k.treeOf alt) k.rank).map (s.stageAddr k c)

/-- What a reduce block reads and writes, line by line: on the first pass its chunk, which it keeps in the staging area, then its areas. -/
def State.blockLines (s : State) (x : Chunk) (l : Launch) (k : Coll) : List (Nat × Bool) :=
  let d := s.coordOf x.ctx
  let first := if x.held then [] else (s.vaLines d x.ctx (chunkAddr l k x.c) k.bytes).map (fun a => (a, false)) ++
    (areaLines (s.stageAddr k x.c k.rank) k.bytes).map fun a => (a, true)
  first ++ (s.blockAreas k x.c x.alt).flatMap fun pa => (areaLines pa k.bytes).map fun a => (a, false)

/-- A reduce block begins: on the first pass the contribution is kept (R406). -/
def State.startBlock (s : State) (x : Chunk) (l : Launch) (k : Coll) : State :=
  let d := s.coordOf x.ctx
  let (src, s) : List Nat × State := if x.held then ([], s) else
    let src := (s.vaLines d x.ctx (chunkAddr l k x.c) k.bytes).take 1
    let (bs, s) := s.ctxRead d x.ctx (chunkAddr l k x.c) k.bytes
    (src, (s.devPut d (s.stageAddr k x.c k.rank) bs).modChunk x.ctx x.rcb x.c fun y => { y with held := true })
  let (n, s) := s.blockTime d k src (s.blockAreas k x.c x.alt)
  s.after n (.reduceBlockEnd k.id x.c)

/-- Dispatch the reduce block of a chunk whose counter is zero, where a reserve slot is free. A context that is away takes part with what it
has kept alone (R408). -/
def State.dispatchReduce (s : State) (x : Chunk) : State :=
  match s.launch? x.ctx x.rcb, s.collOf x.ctx x.rcb with
  | some l, some k =>
    if x.busy || (s.chunks.filter (·.busy)).length ≥ s.reserves || (!x.held && (s.away? x.ctx).isSome) then s else
    let lines := s.blockLines x l k
    let s := s.modChunk x.ctx x.rcb x.c fun y => { y with busy := true, st := .reducing }
    match s.collDraw x (s.coordOf x.ctx) (.reduceBlockEnd k.id x.c) fun _ => lines with
    | (false, s) => s
    | (true, s) => s.startBlock x l k
  | _, _ => s

/-- Cycles after which a member asks for a redo (R407). -/
def Coll.patience (k : Coll) : Nat := (if k.tmous = 0 then 2000 else k.tmous) * 1500

/-- The two timeouts of a chunk run from the cycle in which its counter reached zero. -/
def State.armChunk (s : State) (k : Coll) (c z : Nat) : State :=
  (s.at_ (z + k.patience) (.redoRequest k.id c)).at_ (z + 2 * k.patience) (.collectiveFail k.id c)

/-- A chunk's counter may have reached zero. -/
def State.chunkCheck (s : State) (ctx rcb c : Nat) : State :=
  match s.chunk? ctx rcb c, s.collOf ctx rcb with
  | some x, some k =>
    if x.counter != 0 || !(x.st == .gathering || x.st == .redo) then s else
    let s := if x.zeroAt.isSome then s else
      (s.modChunk ctx rcb c fun y => { y with zeroAt := some s.clock }).armChunk k c s.clock
    s.dispatchReduce x
  | _, _ => s

/-- Chunks that wait for a reserve slot. -/
def State.dispatchWaiting (s : State) : State :=
  (s.chunks.filter fun x => x.counter == 0 && !x.busy && (x.st == .gathering || x.st == .redo)).foldl (fun s x => s.dispatchReduce x) s

/-- Fires whose accesses have been performed count down their chunks (R405, R415). -/
def State.firesDue (s : State) : State :=
  let due (o : Nat × List Settle) : Bool := o.1 ≤ s.clock && o.2.all s.settledNow
  (s.chunks.filter fun x => x.owed.any due).foldl (fun s x =>
    let n := (x.owed.filter due).length
    (s.modChunk x.ctx x.rcb x.c fun y =>
      { y with counter := y.counter - n, fires := y.fires - n, owed := y.owed.filter fun a => !due a }).chunkCheck x.ctx x.rcb x.c) s

/-- A fire of a group on a chunk, with its release's stamp, the cycle in which it takes effect at the earliest, and the accesses that it
waits for (R405). -/
def State.fire (s : State) (g : Group) (c stamp at_ : Nat) (after : List Settle) : State :=
  let s := s.modGroup g.ref fun x => { x with fired := x.fired ++ [c] }
  (s.modChunk g.ref.ctx g.rcb c fun x => { x with stamp := max x.stamp stamp, owed := x.owed ++ [(at_, after)] }).firesDue

/-- The chunk of a collective with its launch's records: of several launches, that of one which has no result yet. -/
def State.chunkOf (s : State) (coll c : Nat) : Option (Chunk × Launch × Coll) :=
  let mine := s.chunks.filter fun x => x.coll == coll && x.c == c
  match (mine.find? fun x => x.st != .result).orElse fun _ => mine.head? with
  | none => none
  | some x => match s.launch? x.ctx x.rcb, s.collOf x.ctx x.rcb with
    | some l, some k => some (x, l, k)
    | _, _ => none

/-- Waiters on chunks test again. -/
def State.wakeColl (s : State) (ctx : Nat) : State :=
  s.wakeWhere fun t l => t.grp.ctx == ctx && (match l.wait with
    | .coll _ => true
    | _ => false)

/-- A result arrives: the children get it, it is written, and the retention is freed (R407). -/
def State.resultArrives (s : State) (x : Chunk) (l : Launch) (k : Coll) (alt : Bool) (v : List Byte) : State :=
  if x.st == .result then s else
  let s := (childrenOf (k.treeOf alt) k.rank).foldl (fun s r => s.sendPart x (k.member r) 512 0 (.result k.id x.c alt v) v) s
  if x.failed then s else
  let s := s.ctxStore (s.coordOf x.ctx) x.ctx (chunkAddr l k x.c) v
  let s := s.modChunk x.ctx x.rcb x.c fun y => { y with st := .result, alt := alt, held := false, busy := false }
  s.wakeColl x.ctx

/-- A result is taken once its write may draw on the context's buckets (R88). -/
def State.takeResult (s : State) (x : Chunk) (l : Launch) (k : Coll) (alt : Bool) (v : List Byte) : State :=
  let d := s.coordOf x.ctx
  match s.collDraw x d (.broadcastArrival k.id x.c alt v) fun _ => (s.vaLines d x.ctx (chunkAddr l k x.c) k.bytes).map fun a => (a, true) with
  | (true, s) => s.resultArrives x l k alt v
  | (false, s) => s

/-- The alternate root decides a commit: granted if no redo has begun. -/
def State.decideCommit (s : State) (x : Chunk) : Bool × State :=
  if x.redone then (false, s)
  else (true, s.modChunk x.ctx x.rcb x.c fun y => { y with commit := true })

/-- REDUCE_BLOCK_END (R406, R407); or a block whose reads Sluice has let pass begins. -/
def reduceBlockEnd (coll c : Nat) (s : State) : State :=
  match s.chunkOf coll c with
  | none => s
  | some (x, l, k) =>
    if !x.busy || s.unitHeld (.reduceBlockEnd coll c) then s
    else if x.passed.contains (.reduceBlockEnd coll c) then
      (s.modChunk x.ctx x.rcb c fun y => { y with passed := y.passed.erase (.reduceBlockEnd coll c) }).startBlock x l k
    else
    let n := k.bytes
    let v := (childrenOf (k.treeOf x.alt) k.rank).foldl (fun v r => combine k.op v (s.memBytes (s.stageAddr k c r) n))
      (s.memBytes (s.stageAddr k c k.rank) n)
    let s := s.modChunk x.ctx x.rcb c fun y => { y with busy := false, st := .sent, value := v }
    let s := s.dispatchWaiting
    let y := { x with busy := false, st := .sent, value := v }
    let parent := (k.treeOf x.alt).getD k.rank 0xFFFF
    if parent != 0xFFFF then
      s.sendPart x (k.member parent) k.rwin ((c * k.nmem + k.rank) * k.bytes) (.partial_ coll c k.rank (x.ctx % 4096) x.alt v) v
    else if x.alt then s.takeResult y l k true v
    else if rootOf k.alttree == k.rank then
      match s.decideCommit y with
      | (true, s) => s.takeResult { y with commit := true } l k false v
      | (false, s) => s
    else s.sendMsg x (k.member (rootOf k.alttree)) (.notice coll c 0 k.rank)

/-- CHILD_PARTIAL_ARRIVAL (R405, R406): a partial is performed in the staging area, as frames of the sender's CTXID for its window (R403).
One of ALTTREE that comes before this member's own redo is kept for it. -/
def childPartialArrival (coll c child ctx : Nat) (alt : Bool) (bytes : List Byte) (s : State) : State :=
  match s.chunkOf coll c with
  | none => s
  | some (x, _, k) =>
    if alt && !x.alt then s.modChunk x.ctx x.rcb c fun y => { y with early := y.early ++ [(child, ctx, bytes)] }
    else if alt != x.alt || x.counter = 0 || !s.windowTakes ctx k.rwin ((c * k.nmem + child) * k.bytes) k.bytes ||
      (homeOf (s.stageAddr k c child)).isNone then s else
    let pa := s.stageAddr k c child
    let d := s.coordOf x.ctx
    let (ok, s) := s.collDraw x d (.childPartialArrival coll c child ctx alt bytes) fun _ => (areaLines pa k.bytes).map fun a => (a, true)
    if !ok then s else
    let s := (areaLines pa k.bytes).foldl (fun s a => s.heat a 4 4) (s.devPut d pa (bytes.take k.bytes))
    let s := s.setReg 0 (winBytesReg k.rwin) (s.reg 0 (winBytesReg k.rwin) + BitVec.ofNat 64 k.bytes)
    (s.modChunk x.ctx x.rcb c fun y => { y with counter := y.counter - 1 }).chunkCheck x.ctx x.rcb c

/-- COMMIT_REQUEST (R407): the alternate root answers the primary root. -/
def commitRequest (coll c rank : Nat) (s : State) : State :=
  match s.chunkOf coll c with
  | none => s
  | some (x, _, k) =>
    let (ok, s) := s.decideCommit x
    s.sendMsg x (k.member rank) (.notice coll c (if ok then 1 else 2) k.rank)

/-- BROADCAST_ARRIVAL (R407). -/
def broadcastArrival (coll c : Nat) (alt : Bool) (bytes : List Byte) (s : State) : State :=
  match s.chunkOf coll c with
  | none => s
  | some (x, l, k) => s.takeResult x l k alt (bytes.take k.bytes)

/-- A chunk's counter has been zero for some cycles. -/
def Chunk.waited (x : Chunk) (clock n : Nat) : Bool := match x.zeroAt with
  | some z => z + n ≤ clock
  | none => false

/-- REDO_REQUEST (R407): TMOUS has passed without a result. -/
def redoRequest (coll c : Nat) (s : State) : State :=
  match s.chunkOf coll c with
  | none => s
  | some (x, _, k) =>
    if x.st == .result || x.failed || !x.waited s.clock k.patience then s
    else if rootOf k.alttree == k.rank then s.after 0 (.redo coll c)
    else s.sendMsg x (k.member (rootOf k.alttree)) (.notice coll c 3 k.rank)

/-- This member runs a chunk again over ALTTREE, from its retained contribution. -/
def State.redoHere (s : State) (x : Chunk) (k : Coll) : State :=
  let n := (childrenOf k.alttree k.rank).length
  let s := s.cancel fun e => e == .reduceBlockEnd k.id x.c
  let s := s.modChunk x.ctx x.rcb x.c fun y =>
    { y with alt := true, st := .redo, counter := n + y.fires, busy := false, redone := true, early := [] }
  let s := x.early.foldl (fun s p => s.after 0 (.childPartialArrival k.id x.c p.1 p.2.1 true p.2.2)) s
  (s.bump 0 0xE40 15 0).chunkCheck x.ctx x.rcb x.c

/-- REDO (R407): at the alternate root, a request before any commit begins a redo; at a member, the redo begins. -/
def redo (coll c : Nat) (s : State) : State :=
  match s.chunkOf coll c with
  | none => s
  | some (x, _, k) =>
    if x.redone || x.st == .result then s
    else if rootOf k.alttree == k.rank then
      if x.commit then s else
      let s := ((List.range k.nmem).filter (· != k.rank)).foldl (fun s r => s.sendMsg x (k.member r) (.notice coll c 4 k.rank)) s
      s.redoHere x k
    else s.redoHere x k

/-- COLLECTIVE_FAIL (R407): twice TMOUS has passed without a result. -/
def collectiveFail (coll c : Nat) (s : State) : State :=
  match s.chunkOf coll c with
  | none => s
  | some (x, _, k) =>
    if x.st == .result || x.failed || !x.waited s.clock (2 * k.patience) then s else
    let s := (s.modChunk x.ctx x.rcb c fun y => { y with failed := true }).bump 0 0xE40 31 16
    (s.unitRec (s.coordOf x.ctx) 0x32 (x.ctx % 4096) 0 (BitVec.ofNat 64 c) 0 (.plan x.rcb)).wakeColl x.ctx

/-- A collective notice arrives. -/
def State.noticeArrives (s : State) (coll c kind rank : Nat) : State :=
  match kind with
  | 0 => s.after 0 (.commitRequest coll c rank)
  | 1 => match s.chunkOf coll c with
    | some (x, l, k) => s.takeResult x l k false x.value
    | none => s
  | 2 => s
  | _ => s.after 0 (.redo coll c)

/-- A peer's batch, in this device's names for its locations: a stage there that a cross-device pipe joins to the plan, or such a pipe. Changes at
the peer's other locations are not kept (R372). -/
def State.farBatch (s : State) (b : Batch) : Batch :=
  let ps := (planPipes s b.plan.ctx b.plan.rcb).filter fun p => (p.prem || p.crem) && p.peer == b.src / 4 - 1
  let name (x : Loc × W64) : Option (Loc × W64) :=
    let l := match x.1 with
      | .stage n => Loc.far (b.src / 4 - 1) n
      | l => l
    if (farLocs ps).contains l || ps.any (fun p => l == .pipe p.ref.w) then some (l, x.2) else none
  { b with incs := b.incs.filterMap name, decs := b.decs.filterMap name }

/-- CONTROL_MESSAGE (R400): what a message carries takes its own event; a batch applies at each node 40 cycles on (Table 12-3). -/
def controlMessage (m : CtlMsg) (s : State) : State :=
  match m with
  | .batch b =>
    let b := s.farBatch b
    (List.range 4).foldl (fun s d => s.after 40 (.tidelineBatchApply d b)) s
  | .credit p n => s.after 0 (.creditReport p n)
  | .notice coll c kind rank => s.noticeArrives coll c kind rank
  | .partial_ coll c rank ctx alt bs => s.after 0 (.childPartialArrival coll c rank ctx alt bs)
  | .result coll c alt bs => s.after 0 (.broadcastArrival coll c alt bs)

def execReduceBlockEnd (s : State) : Host.Outcome State Fault Refusal :=
  match s.ev with
  | some (.reduceBlockEnd coll c) => .next (reduceBlockEnd coll c { s with ev := none })
  | _ => .fault .noEvent

def execChildPartialArrival (s : State) : Host.Outcome State Fault Refusal :=
  match s.ev with
  | some (.childPartialArrival coll c r ctx alt bs) => .next (childPartialArrival coll c r ctx alt bs { s with ev := none })
  | _ => .fault .noEvent

def execCommitRequest (s : State) : Host.Outcome State Fault Refusal :=
  match s.ev with
  | some (.commitRequest coll c r) => .next (commitRequest coll c r { s with ev := none })
  | _ => .fault .noEvent

def execBroadcastArrival (s : State) : Host.Outcome State Fault Refusal :=
  match s.ev with
  | some (.broadcastArrival coll c alt bs) => .next (broadcastArrival coll c alt bs { s with ev := none })
  | _ => .fault .noEvent

def execRedoRequest (s : State) : Host.Outcome State Fault Refusal :=
  match s.ev with
  | some (.redoRequest coll c) => .next (redoRequest coll c { s with ev := none })
  | _ => .fault .noEvent

def execRedo (s : State) : Host.Outcome State Fault Refusal :=
  match s.ev with
  | some (.redo coll c) => .next (redo coll c { s with ev := none })
  | _ => .fault .noEvent

def execCollectiveFail (s : State) : Host.Outcome State Fault Refusal :=
  match s.ev with
  | some (.collectiveFail coll c) => .next (collectiveFail coll c { s with ev := none })
  | _ => .fault .noEvent

def execControlMessage (s : State) : Host.Outcome State Fault Refusal :=
  match s.ev with
  | some (.controlMessage m) => .next (controlMessage m { s with ev := none })
  | _ => .fault .noEvent

/-! ### Class 14, operations 8 to 10 (R415 to R417) -/

/-- Entry of a group in the chunk map (R32); none where the launch has no collective or the entry cannot be read. -/
def State.chunkEntry (s : State) (g : Group) : Option Nat × State :=
  match s.launch? g.ref.ctx g.rcb with
  | none => (none, s)
  | some l =>
    if l.coll.isNone then (none, s) else
    match s.ctx? g.ref.ctx with
    | none => (none, s)
    | some c => match s.recBytes g.die c.walkfmt c.ptroot (l.chunkmap + 2 * g.ref.rank) 2 with
      | (.ok bs, s) => (some (leVal bs), s)
      | (.error _, s) => (none, s)

/-- Chunks of the launch of a group; 0 where COLL = 0. -/
def State.chunkCount (s : State) (g : Group) : Nat :=
  match s.launch? g.ref.ctx g.rcb with
  | some l => if l.coll.isSome then l.nchunk else 0
  | none => 0

/-- `co.fire` (R415). -/
def coFireBody (x : Env) (s : State) : Res :=
  let c := x.a0 32
  let g := x.group s
  let (e, s) := s.chunkEntry g
  if c ≥ s.chunkCount g || e != some c || g.fired.contains c then x.trapAll 0x20 0 c s
  else
    let (st, s) := s.releaseLanes x.t x.e
    .ok (s.fire g c st (s.clock + x.performed s) [⟨x.t, x.e, s.clock⟩]) 0

def execCoFire (h : Hdr) (o : RegForm) (s : State) : Host.Outcome State Fault Refusal :=
  issueWord (o.view 14 8 h) coFireBody s

/-- Status of a chunk that has a result or has failed. -/
def Chunk.status (x : Chunk) : Option Nat :=
  if x.failed then some 2 else if x.st == .result then some (if x.alt then 1 else 0) else none

/-- The acquire of the results of some chunks: the device's own fires raise the horizons of E (R340, R416). -/
def Env.ackResults (x : Env) (rcb : Nat) (cs : List Nat) (s : State) : State :=
  let st := cs.foldl (fun m c => max m (((s.chunk? x.ctx rcb c).map (·.stamp)).getD 0)) 0
  (s.acquireDrop x.t.die 2 5).modLanes x.t x.e fun _ y => y.acquire st

/-- `co.ack` (R416). -/
def coAckBody (x : Env) (s : State) : Res :=
  let c := x.a0 32
  let g := x.group s
  if c ≥ s.chunkCount g then x.trapAll 0x20 0 c s
  else match (s.chunk? x.ctx g.rcb c).bind Chunk.status with
    | some n => .ok (x.putOne (x.ackResults g.rcb [c] s) x.v.d 1 n 4) 4
    | none => x.waitAll (.coll (some c)) s

def execCoAck (h : Hdr) (o : RegForm) (s : State) : Host.Outcome State Fault Refusal :=
  issueWord (o.view 14 9 h) coAckBody s

/-- `co.ack.all`: every chunk of the launch; the status is the greatest of theirs. -/
def coAckAllBody (x : Env) (s : State) : Res :=
  let g := x.group s
  let n := s.chunkCount g
  if n = 0 then x.trapAll 0x20 0 0 s
  else
    let sts := (List.range n).map fun c => (s.chunk? x.ctx g.rcb c).bind Chunk.status
    if sts.all (·.isSome) then
      .ok (x.putOne (x.ackResults g.rcb (List.range n) s) x.v.d 1 ((sts.map (·.getD 0)).foldl max 0) 4) 4
    else x.waitAll (.coll none) s

def execCoAckAll (h : Hdr) (o : RegForm) (s : State) : Host.Outcome State Fault Refusal :=
  issueWord (o.view 14 9 h) coAckAllBody s

def Chunk.code (x : Chunk) : Nat :=
  if x.failed then 5 else
  match x.st with
  | .gathering => 0 | .reducing => 1 | .sent => 2 | .result => 3 | .redo => 4

/-- `co.stat` (R417). -/
def coStatBody (x : Env) (s : State) : Res :=
  let c := x.a0 32
  let g := x.group s
  if c ≥ s.chunkCount g then x.trapAll 0x20 0 c s
  else
    let v := match s.chunk? x.ctx g.rcb c with
      | some y => y.counter % 65536 + y.code * 2 ^ 16 + y.alt.toNat * 2 ^ 19 + y.held.toNat * 2 ^ 20
      | none => 0
    .ok (x.putOne s x.v.d 2 v 4) 4

def execCoStat (h : Hdr) (o : RegForm) (s : State) : Host.Outcome State Fault Refusal :=
  issueWord (o.view 14 10 h) coStatBody s

/-- The fire of a group's exit (R32, R405): its map entry's chunk, unless fired; an entry beyond the chunks makes a record. -/
def State.exitFire (s : State) (g : Group) (stamp at_ : Nat) (r : Rec) : State :=
  let (e, s) := s.chunkEntry g
  match e with
  | none => s
  | some c =>
    if c == 0xFFFF || g.fired.contains c then s
    else if c ≥ s.chunkCount g then s.pushRec { r with kind := 0x20, d1 := BitVec.ofNat 64 c }
    else s.fire g c stamp at_ ((s.teams.filter (·.grp == g.ref)).map fun t => ⟨t.ref, BitVec.allOnes 32, s.clock⟩)

end Sys2Proof.Machine
end

