-- ==== Sys2Proof/Machine/Matrix.lean ====
section
/-! DEFINITION. Class 12 and the matrix engines: job records, the job queue, bit-plane arithmetic, B stores and their events
(R302 to R328). -/

namespace Sys2Proof.Machine

/-! ### Fields of a job record (Table 10-1) -/

def jKind (w : List W64) : Nat := bits (wd w 0) 55 53
def jAcc (w : List W64) : Nat := bits (wd w 0) 52 52
def jEngm (w : List W64) : Nat := bits (wd w 0) 51 50
def jMode (w : List W64) : Nat := bits (wd w 0) 49 48
/-- p: planes read. -/
def jPlanes (w : List W64) : Nat := bits (wd w 0) 47 44 + 1
def jM (w : List W64) : Nat := bits (wd w 0) 43 38 + 1
def jN (w : List W64) : Nat := bits (wd w 0) 37 29 + 1
def jKb (w : List W64) : Nat := bits (wd w 0) 28 26 + 1
def jAccm (w : List W64) : Nat := bits (wd w 0) 25 24
def jAcol (w : List W64) : Nat := bits (wd w 0) 23 21
def jPage (w : List W64) : Nat := bits (wd w 0) 20 17
def jBcol (w : List W64) : Nat := bits (wd w 0) 16 14
def jBw (w : List W64) : Nat := bits (wd w 0) 13 13
def jAend (w : List W64) : Bool := (wd w 0).testBit 12
def jSig (w : List W64) : Option Nat := if (wd w 0).testBit 11 then some (bits (wd w 0) 10 8) else none
def jTag (w : List W64) : Nat := bits (wd w 1) 63 48
def jAsrc (w : List W64) : Nat := bits (wd w 1) 47 46
def jAts (w : List W64) : Nat := bits (wd w 1) 45 36
def jAh (w : List W64) : Nat := bits (wd w 1) 35 30
def jO0 (w : List W64) : Nat := bits (wd w 2) 31 0
def jO1 (w : List W64) : Nat := bits (wd w 2) 63 32
def jPair (w : List W64) : Nat := wd w 3
/-- Physical width (R303). -/
def jNp (w : List W64) : Nat := jN w * (1 + jBw w)
/-- MMA or GMMA. -/
def jMul (w : List W64) : Bool := jKind w ≤ 1
/-- The job reads an operand. -/
def jReads (w : List W64) : Bool := jKind w ≤ 2
/-- Column groups of the B page that it reads or writes. -/
def jGroups (w : List W64) : List Nat := (List.range ((jNp w + 63) / 64)).map (jBcol w + ·)

/-! ### Checks (R303, R306 to R308, Table 10-4) -/

/-- Detail 1: reserved values, and fields that the kind does not use. -/
def jobDetail1 (w : List W64) : Bool :=
  let k := jKind w
  let z (hi lo : Nat) : Bool := bits (wd w 0) hi lo != 0
  bits (wd w 0) 63 56 != 6 || k > 4 || jAsrc w == 3 || z 7 0 || bits (wd w 1) 29 0 != 0 || bits (wd w 4) 37 0 != 0 || wd w 7 != 0 ||
  (if k == 2 then jEngm w == 0 else jEngm w != 0) ||
  (k == 1 && jAsrc w != 0) || (k == 1 && jPair w % 4 != 0) || (jAsrc w == 2 && jAts w != 0) || (jAsrc w != 1 && jAh w != 0) ||
  (if jAsrc w == 2 then false else if k == 1 then bits (jPair w) 63 48 != 0 else jPair w != 0) ||
  (k == 2 && (z 52 52 || z 49 44 || z 43 38 || z 25 21)) ||
  (k == 3 && (z 49 44 || z 28 26 || z 20 12 || jTag w != 0)) ||
  (k == 4 && (z 49 44 || z 28 26 || z 20 12 || wd w 1 != 0 || wd w 2 != 0))

/-- Detail 2: columns. -/
def jobDetail2 (w : List W64) : Bool :=
  let f := 64 * 2 ^ jMode w
  let c := 64 * jBcol w
  (jMul w && (jNp w > f || c / f != (c + jNp w - 1) / f)) || (jKind w == 2 && c + jNp w > 512) ||
  (jKind w != 2 && 64 * jAcol w + jN w > 512)

/-- Details 3 to 5 that need no slot, and those that do. -/
def jobDetail345 (w : List W64) (slot : Option (List W64)) : Nat :=
  let sc := match slot with
    | some r => slotScFmt r != 0
    | none => false
  let d3 := (jReads w && jO0 w % 64 != 0) || (match slot with
    | some r => jMul w && jPlanes w > slotNpl r
    | none => false)
  let d4 := match slot with
    | some r =>
      let f := slotFmt r
      slotDims r < 2 || (sc && slotKdim r != 0) ||
      (match jKind w with
       | 0 | 1 => f != 0x18
       | 2 => if jBw w = 0 then !(f == 9 || f == 1) else !(f == 10 || f == 2)
       | _ => if jAccm w ≤ 1 then !fmtFlt f else !(f == 3 || f == 4))
    | none => false
  let d5 := (jMul w && jAccm w ≥ 2 && sc) || (jKind w == 4 && jAccm w != 0)
  -- a format other than npN fails detail 4, not the plane count
  let d3 := d3 && !(jMul w && d4 && jO0 w % 64 == 0)
  if d3 then 3 else if d4 then 4 else if d5 then 5 else 0

/-- Words of a short form's record (R309). -/
def shortRecord (opn : Nat) (sig : Option Nat) (a b c : Nat) : List W64 :=
  let kind := [2, 0, 1, 3, 4].getD opn 0
  let w0 := a % 2 ^ 64
  let w0 := setBits w0 63 56 6
  let w0 := setBits w0 55 53 kind
  let w0 := setBits w0 11 11 (if sig.isSome then 1 else 0)
  let w0 := setBits w0 10 8 (sig.getD 0)
  [w0, a / 2 ^ 64, b, c, 0, 0, 0, 0].map (BitVec.ofNat 64)

/-! ### Posting (R310, R311) -/

/-- The pipe tile that an ASRC 2 record names, where the group holds it taken. -/
def State.jobTile (s : State) (g : Group) (w : List W64) : Option (Pipe × Nat × Bool) :=
  let v := jPair w
  if bits v 62 61 != 0 then none else
  match s.pipe? ⟨g.ref.ctx, g.rcb, bits v 60 56⟩ with
  | none => none
  | some p =>
    let i := bits v 55 48
    if v.testBit 63 then
      if p.spilled.any fun y => y.pos == i && y.holder == some g.ref && !y.gone then some (p, i, true) else none
    else
      let y := p.slots.getD i default
      if i < p.slots.length && y.st == .taken && y.holder == some g.ref then some (p, i, false) else none

/-- Destination bytes of an RD job. -/
def rdBytes (w r : List W64) : Nat := jM w * jN w * fmtBytes (slotFmt r)

/-- The slot that a record names, as read; for ASRC 2 the pipe's TSLOT. -/
def State.jobSlot (s : State) (d : Nat) (g : Group) (w : List W64) :
    Option Nat × Except Nat (List W64 × List W64) × State :=
  if jKind w == 4 then (none, .ok ([], []), s)
  else if jAsrc w == 2 then
    match s.pipe? ⟨g.ref.ctx, g.rcb, bits (jPair w) 60 56⟩ with
    | none => (none, .ok ([], []), s)
    | some p => let (r, s) := s.readSlot d g.ref.ctx p.tslot; (some p.tslot, r, s)
  else let (r, s) := s.readSlot d g.ref.ctx (jAts w); (some (jAts w), r, s)

inductive PostRes where
  | ok (slot layout : List W64) (tiles : List (PipeRef × Nat × Bool))
  | trap (i : TrapInfo)
  /-- an RD into a handle waits for FILLING -/
  | wait (h : Nat)
  deriving DecidableEq, Repr

/-- The traps of R310, in order, with the handle checks of an RD before step 2. -/
def State.checkJob (s : State) (d : Nat) (g : Group) (w : List W64) : PostRes × State :=
  let (n, r, s) := s.jobSlot d g w
  let slot := match r with
    | .ok (r, _) => if n.isSome then some r else none
    | .error _ => none
  let toHandle := jKind w == 3 && jAsrc w == 1
  let h := g.hd (jAh w)
  let ovr := match slot with
    | some r => toHandle && h.res + rdBytes w r > h.len
    | none => false
  if toHandle && h.st != .filling then (.wait (jAh w), s)
  else if ovr then (.trap (.simple 0x12 0 (jAh w)), s)
  else if jobDetail1 w then (.trap (.simple 0x11 1), s)
  else if jobDetail2 w then (.trap (.simple 0x11 2), s)
  else
    let e := jobDetail345 w slot
    if e != 0 then (.trap (.simple 0x11 e), s)
    else match r with
      | .error c => (.trap (.simple 0x10 c (n.getD 0)), s)
      | .ok (r, l) =>
        if jKind w != 4 && jAsrc w == 2 then
          match s.jobTile g w with
          | some (p, i, sp) => (.ok r l [(p.ref, i, sp)], s)
          | none => (.trap (.simple 0x15 0 (bits (jPair w) 60 56)), s)
        else (.ok r l [], s)

/-- Put a checked job into its cluster's queue with its serial and number (R311). -/
def State.postJob (s : State) (t : TeamRef) (m : Lanes) (g : GroupRef) (w slot layout : List W64)
    (tiles : List (PipeRef × Nat × Bool)) : State :=
  let (st, s) := s.release t.die (s.lane t (lowest m)).horizon
  let (num, s) := match jSig w with
    | some tc => let (n, s) := s.issueNumber g tc; (some n, s)
    | none => (none, s)
  let ser := (s.groupOf g).mxSer + 1
  let s := s.modGroup g fun x => { x with mxSer := ser }
  let h := jAh w
  let s := if jKind w == 3 && jAsrc w == 1 then s.modHandle g h fun x => x.reserve (rdBytes w slot)
    else if jReads w && jAsrc w == 1 then s.modHandle g h Handle.addOut else s
  let c := t.core / 4
  let job : Job := { grp := g, words := w, serial := ser, num := num, stamp := st, die := t.die, cluster := c, posted := s.clock,
                     hserial := (s.handle g h).serial, slot := slot,
                     layout := layout, tiles := tiles }
  s.modCluster t.die c fun x => { x with queue := x.queue ++ [job] }

/-- A posting instruction with its record (R310, R311). -/
def Env.post (x : Env) (w : List W64) (s : State) : Res :=
  match s.checkJob x.t.die (x.group s) w with
  | (.trap i, s) => .team s x i
  | (.wait h, s) => x.waitAll (.handle h [.filling]) s
  | (.ok r l ts, s) => .ok (s.postJob x.t x.e x.tm.grp w r l ts) 0

/-- D of a short form: the counter signalled. -/
def View.sig (v : View) : Option Nat := if v.d.isNone then none else some v.d.idx

def shortBody (x : Env) (s : State) : Res :=
  let c := if x.v.cOpd.isNone then 0 else x.c0 64
  let b := if x.v.opn == 4 then 0 else x.b0 64
  x.post (shortRecord x.v.opn x.v.sig (x.a0 128) b c) s

def execMxLdb (h : Hdr) (o : RegForm) (s : State) : Host.Outcome State Fault Refusal :=
  issueWord (o.view 12 0 h) shortBody s
def execMxMma (h : Hdr) (o : RegForm) (s : State) : Host.Outcome State Fault Refusal :=
  issueWord (o.view 12 1 h) shortBody s
def execMxGmma (h : Hdr) (o : RegForm) (s : State) : Host.Outcome State Fault Refusal :=
  issueWord (o.view 12 2 h) shortBody s
def execMxRd (h : Hdr) (o : RegForm) (s : State) : Host.Outcome State Fault Refusal :=
  issueWord (o.view 12 3 h) shortBody s
def execMxClr (h : Hdr) (o : RegForm) (s : State) : Host.Outcome State Fault Refusal :=
  issueWord (o.view 12 4 h) shortBody s

/-- `mx.post`: the record's 64 bytes are read by the lowest lane; the job posts in the cycle after (R309, R311). Where Sluice holds the
read, its lanes wait with no cycle named yet. -/
def mxPostBody (x : Env) (s0 : State) : Res :=
  let s := s0
  let (c, _, s) := x.check s x.v.space 64 1 false true x.l0 (x.ea x.l0) [] s
  match c.res with
  | .bad _ i => .team s x i
  | .hold w => x.waitAll w s
  | .ok p =>
    let data := match p with
      | .scr _ => 1
      | .pipe r _ => 2 + r.w
      | _ => 0
    let a : Access := { die := x.t.die, write := false, pa := p.addr, size := 64, data := data, scope := 0, evict := x.v.evict,
                        post := some (x.t, x.e), record := [], run := none }
    let s := s.modLane x.t x.l0 (observe (s.relsAt p 64) x.v.ord 0 x.who)
    let (ok, s) := if s.throttled then s.sluice x.tm.grp false (.unit (.memoryAccessPerform a)) (s.draws x.t.die p false) else (true, s)
    if !ok then x.waitAll (.mxPost 0) s
    else
      let (lat, s) := s.touchLoad x.t.die p 0 x.v.evict c.walk
      let due := lat + c.walk + 1
      let s := s.noteOver s0 x.t.die p true (s.clock + due) (.unit (.memoryAccessPerform a))
      x.waitAll (.mxPost (s.clock + due)) (s.after due (.memoryAccessPerform a))

def execMxPost (h : Hdr) (o : MemForm) (s : State) : Host.Outcome State Fault Refusal :=
  issueWord (o.view 12 5 h) mxPostBody s

/-- The place that an access names: 0 memory, or a peer's; 1 scratchpad; 2 + w a pipe of the team's plan. -/
def State.accessPlace (s : State) (g : Group) (a : Access) : Place :=
  if a.data = 0 then match s.backing false 7 0 0 a.pa with
    | .ok p => p
    | .error _ => .mem a.pa
  else if a.data = 1 then .scr a.pa else .pipe ⟨g.ref.ctx, g.rcb, a.data - 2⟩ a.pa

/-- A checked record posts in the turn of its quad among the issues of the cycle (R311). Its lanes have gone on; where an issue before it
has filled the queue or changed the handle, they stand at the `mx.post` again. -/
def State.postTurn (s : State) (a : Access) (i : Issue) (tm : Team) (m : Lanes) : State :=
  let t := tm.ref
  let back (s : State) : State := s.modLanes t m fun _ l => { l with pc := i.pc }
  if (s.cluster t.die (t.core / 4)).queue.length ≥ 64 then
    ((back s).waitLanes t m (.mxPost (s.clock + 1))).after 1 (.memoryAccessPerform { a with record := [] })
  else match s.checkJob t.die (s.groupOf tm.grp) a.record with
    | (.trap f, s) => (back s).raise t i.pc (tm.key (lowest m)) ((lanesOf m).map fun l => (l, f)) (others m)
    | (.wait h, s) => (back s).waitLanes t m (.handle h [.filling])
    | (.ok r l ts, s) => s.postJob t m tm.grp a.record r l ts

/-- The record of an `mx.post` has been read: its lanes go on and it posts, or they trap (R311). A read that Sluice has let pass is made
now, and a full queue is looked at again in the next cycle (log entry 96). -/
def State.postRead (s : State) (a : Access) (t : TeamRef) (m : Lanes) : State :=
  match s.team? t with
  | none => s
  | some tm =>
    let due (c : Nat) : Lanes := pick m fun l => (tm.lane l).st == .op && (tm.lane l).wait == .mxPost c
    let g := s.groupOf tm.grp
    let p := s.accessPlace g a
    let again (m : Lanes) (n : Nat) (s : State) : State :=
      (s.waitLanes t m (.mxPost (s.clock + n))).after n (.memoryAccessPerform a)
    if due 0 != 0 then
      let (lat, s1) := s.touchLoad a.die p 0 a.evict 0
      again (due 0) (lat + 1) (s1.noteOver s a.die p true (s.clock + lat + 1) (.unit (.memoryAccessPerform a)))
    else
    match s.cur with
    | some i => ({ s with cur := none } : State).postTurn a i tm m
    | none =>
    let m := due s.clock
    if m = 0 then s else
    if (s.cluster t.die (t.core / 4)).queue.length + s.adding (.engine t.die (t.core / 4)) ≥ 64 then again m 1 s else
    let bad := match p with
      | .mem pa => (sectorsOf pa 64).find? fun b => s.sectorError b == some true
      | _ => none
    if let some b := bad then
      (s.meetError b).1.raise t (tm.lane (lowest m)).pc (tm.key (lowest m)) ((lanesOf m).map fun l => (l, checkInfo 8 (max b p.addr))) (others m)
    else
    let (bs, s) := s.placeBytes p 64
    let w := (List.range 8).map fun i => BitVec.ofNat 64 (leVal ((bs.drop (8 * i)).take 8))
    let pc := (tm.lane (lowest m)).pc
    match s.checkJob t.die g w with
    | (.trap i, s) => s.raise t pc (tm.key (lowest m)) ((lanesOf m).map fun l => (l, i)) (others m)
    | (.wait h, s) => s.waitLanes t m (.handle h [.filling])
    | (.ok .., s) => ({ s with chosen := s.chosen ++ [⟨t, pc, m, some { a with record := w }⟩] } : State).passLanes t m 0

/-- MEMORY_ACCESS_PERFORM (R229, R252, R311): an access is performed at its home; a read keeps the value it read. -/
def memoryAccessPerform (a : Access) (s : State) : State :=
  match a.post, a.run with
  | some (t, m), _ => s.postRead a t m
  | none, some r => s.runLines a r
  | none, none =>
    let p : Place := .mem a.pa
    if a.write then
      let s := (s.touchStore a.die p a.evict 0).2
      s.devPutVal a.die a.pa a.size a.data
    else
      let s := (s.touchLoad a.die p a.scope a.evict 0).2
      { (s.meetError a.pa).1 with lastRead := BitVec.ofNat 64 (s.memVal a.pa a.size) }

def execMemoryAccessPerform (s : State) : Host.Outcome State Fault Refusal :=
  match s.ev with
  | some (.memoryAccessPerform a) =>
    if a.die < 4 && (a.post.isSome || a.run.isSome || a.pa + a.size ≤ hbmBytes) then .next (memoryAccessPerform a { s with ev := none })
    else .fault .noUnit
  | _ => .fault .noEvent

/-- `mx.ring` (R319). -/
def mxRingBody (x : Env) (s : State) : Res :=
  .ok (s.modHandle x.tm.grp x.v.d.idx fun h => { h with ring := if x.v.a.isNone then none else some x.v.a.idx }) 0

def execMxRing (h : Hdr) (o : RegForm) (s : State) : Host.Outcome State Fault Refusal :=
  issueWord (o.view 12 6 h) mxRingBody s

/-! ### mx.stat (Table 10-8) -/

def State.setsHeld (s : State) (g : Group) : Nat :=
  ((s.cluster g.die (g.core / 4)).sets.filter fun x => match x.holder with
    | some (h, _) => h == g.ref
    | none => false).length

def mxStatVal (x : Env) (s : State) (sel : Nat) : Nat :=
  let c := x.t.core / 4
  let q := (s.cluster x.t.die c).queue
  match sel with
  | 0 => q.length + (q.filter (·.grp == x.tm.grp)).length * 2 ^ 8 + s.setsHeld (x.group s) * 2 ^ 16
  | 1 | 2 =>
    let e := s.engine x.t.die (2 * c + (sel - 1))
    windowsOf e.fence + e.csver.toNat * 2 ^ 16 + e.run.isSome.toNat * 2 ^ 32
  | 3 => errWordVal (x.group s).mxErr
  | _ => (x.group s).mxSer % 2 ^ 64

def mxStatBody (x : Env) (s : State) : Res :=
  let sel := x.v.imm
  let v := mxStatVal x s sel
  let s := if sel = 3 then s.modGroup x.tm.grp fun g => { g with mxErr := ⟨0, 0, 0⟩ } else s
  .ok (x.putOne s x.v.d 2 v 4) 4

def execMxStat (h : Hdr) (o : ImmForm) (s : State) : Host.Outcome State Fault Refusal :=
  issueWord (o.view 12 7 h) mxStatBody s

/-! ### The scheduler (R312, R313) -/

/-- Jobs of a group that are queued or running, on its die. -/
def State.jobsOf (s : State) (g : GroupRef) : List Job :=
  (s.clusters.flatMap (·.queue) ++ s.engines.filterMap fun e => e.run.map (·.job)).filter (·.grp == g)

def Engine.holdsTag (e : Engine) (w : List W64) : Bool :=
  jTag w != 0 && (jGroups w).all fun c => e.groups.any fun x => x.page == jPage w && x.cg == c && x.tag.toNat == jTag w

def Engine.windowFree (e : Engine) (w : List W64) : Bool :=
  windowOk e.fence (jMode w) (jBcol w / 2 ^ jMode w)

/-- Enabled waits of a record (R312 condition 1). -/
def jobWaits (g : Group) (w : List W64) : Bool :=
  let q := wd w 4
  (!q.testBit 63 || (g.hd (bits q 62 57)).st == HSt.ofCode (bits q 56 55)) &&
  (!q.testBit 54 || (g.hd (bits q 53 48)).st == HSt.ofCode (bits q 47 46)) &&
  (!q.testBit 45 || wd w 5 ≤ (g.tc (bits q 44 42)).v.toNat) &&
  (!q.testBit 41 || wd w 6 ≤ (g.tc (bits q 40 38)).v.toNat)

/-- The accumulator has a set, or one is free (R307). -/
def State.setFor (s : State) (j : Job) : Option Nat :=
  let key := some (j.grp, jAcc j.words)
  let sets := (s.cluster j.die j.cluster).sets
  match sets.zipIdx.find? fun (x, _) => x.holder == key with
  | some (_, i) => some i
  | none => (sets.zipIdx.find? fun (x, _) => x.holder.isNone).map (·.2)

/-- Conditions 1, 2 and 4; `before` are the jobs posted earlier that are queued. -/
def State.jobReady (s : State) (j : Job) (before : List Job) : Bool :=
  let g := s.groupOf j.grp
  let w := j.words
  let same (k : Job) : Bool := k.grp == j.grp && jKind k.words != 2 && jAcc k.words == jAcc w && k.serial < j.serial
  !g.stopped && jobWaits g w &&
  (!(jReads w && jAsrc w == 1) || (g.hd (jAh w)).st == .full || (g.hd (jAh w)).st == .draining) &&
  (jKind w == 2 || (!before.any same && !((s.jobsOf j.grp).any same) && (s.setFor j).isSome))

/-- A job posted earlier reads a column group that an LDB would write (condition 3). -/
def State.ldbBlocked (s : State) (j : Job) (before : List Job) : Bool :=
  let w := j.words
  let clash (k : Job) : Bool := jMul k.words && jPage k.words == jPage w && (jGroups k.words).any fun c => (jGroups w).contains c
  before.any clash || [0, 1].any fun e => (jEngm w).testBit e && (match (s.engine j.die (2 * j.cluster + e)).run with
    | some r => clash r.job
    | none => false)

/-- An engine may start a job in the next cycle: it is free, and no self-test of its own is under way (R324). -/
def Engine.idle (e : Engine) (clock : Nat) : Bool :=
  e.run.isNone && (match e.idleAt with
    | some c => clock ≤ c || clock > c + 24
    | none => true)

/-- What the scheduler does with a job at an engine of a cluster. -/
inductive JobAct where
  | run (engines : List Nat)
  | reroute
  | fail (err : Nat)
  deriving DecidableEq, Repr

/-- An LDB of a cluster, queued or running, writes the job's tag to an engine that satisfies `on`. -/
def State.tagComing (s : State) (d c : Nat) (w : List W64) (on : Engine → Bool) : Bool :=
  let eng (k : Nat) : Engine := s.engine d (2 * c + k)
  let writes (v : List W64) : Bool := jKind v == 2 && jTag v == jTag w && jPage v == jPage w && (jGroups v).any (jGroups w).contains &&
    [0, 1].any fun k => (jEngm v).testBit k && on (eng k)
  ((s.cluster d c).queue.any fun k => writes k.words) || [0, 1].any fun k => match (eng k).run with
    | some r => writes r.job.words
    | none => false

/-- The action of engine `e` of cluster `c` on a ready job; none where it does not take it. -/
def State.jobAct (s : State) (d c e : Nat) (j : Job) (before : List Job) : Option JobAct :=
  let eng (k : Nat) : Engine := s.engine d (2 * c + k)
  let w := j.words
  let idle (k : Nat) : Bool := (eng k).idle s.clock
  if jMul w then
    let both := [0, 1]
    let free (x : Engine) : Bool := x.windowFree w
    if both.any fun k => (eng k).holdsTag w && free (eng k) then
      if idle e && (eng e).holdsTag w && free (eng e) then some (.run [e]) else none
    else if j.cluster != c then (if s.tagComing d c w free then none else some (.fail 4))
    else if !(both.any fun k => (eng k).holdsTag w) then
      if s.tagComing d c w fun _ => true then none else some (.fail 3)
    else if s.tagComing d c w free then none
    else if both.all fun k => !((eng k).holdsTag w && free (eng k)) then
      let o (k : Nat) : Engine := s.engine d (2 * (c ^^^ 1) + k)
      if (both.any fun k => (o k).holdsTag w && free (o k)) || s.tagComing d (c ^^^ 1) w free then some .reroute else some (.fail 4)
    else none
  else if jKind w == 2 then
    let es := [0, 1].filter fun k => (jEngm w).testBit k
    if es.headD 0 == e && es.all idle && !s.ldbBlocked j before then some (.run es) else none
  else if idle e then some (.run [e]) else none

/-- The oldest job of the queue that an engine takes or disposes of in this cycle: its place and the action. -/
def State.jobPick (s : State) (d c e : Nat) : Option (Nat × JobAct) :=
  let q := (s.cluster d c).queue
  (q.zipIdx.filterMap fun (j, i) =>
    if s.jobReady j (q.take i) then (s.jobAct d c e j (q.take i)).map fun a => (i, a) else none).head?

/-! ### Operands -/

/-- Where byte `off` of a job's operand stands (R308). -/
def State.opSite (s : State) (j : Job) (off size : Nat) : Site :=
  let w := j.words
  let g := s.groupOf j.grp
  match jAsrc w with
  | 0 => .mem ((slotBase j.slot + off) % 2 ^ 48)
  | 1 => scrSite g (((g.hd (jAh w)).base + slotBase j.slot % 2 ^ 32 + off) % 2 ^ 48) size .beyond
  | _ => .mem ((jPair w % 2 ^ 48 + off) % 2 ^ 48)

/-- The core whose translation buffer serves a job's accesses: that of the posting group (R235, R322). -/
def State.jobCore (s : State) (j : Job) : Nat := (s.groupOf j.grp).core

/-- Read a value of an operand: a failed check, or the value with whether an uncorrectable error made it zero (R322). -/
def State.engRead (s : State) (j : Job) (x : Site) (n : Nat) : Except (Nat × Nat) (Nat × Bool) × State :=
  match s.elemRead j.die (s.jobCore j) j.grp x n with
  | (.error c, s) => (.error c, s)
  | (.ok none, s) => (.ok (0, true), s)
  | (.ok (some bs), s) => (.ok (leVal bs, false), s)

/-- Read a list of sites in turn. -/
def State.engReads (s : State) (e : Nat) (j : Job) (n : Nat) : List Site → Except (Nat × Nat) (List Nat × Bool) × State
  | [] => (.ok ([], false), s)
  | x :: t =>
    match s.engRead j x n with
    | (.error c, s) => (.error c, s)
    | (.ok (v, b), s) =>
      match s.engReads e j n t with
      | (.error c, s) => (.error c, s)
      | (.ok (vs, b'), s) => (.ok (v :: vs, b || b'), s)

/-- The scale of K-block `q0` and row or column `q1` of a slot, as (mark, bits); mark 0 where there is none (R36). -/
def State.engScale (s : State) (_e : Nat) (j : Job) (q0 q1 : Nat) : Except (Nat × Nat) ((Nat × W16) × Bool) × State :=
  let r := j.slot
  let f := slotScFmt r
  if f = 0 then (.ok ((0, 0), false), s)
  else if 64 * q0 ≥ slotExtent r 0 || q1 ≥ slotExtent r 1 then (.ok ((3, 0), false), s)
  else
    let ix := q0 + slotExtent r 0 / 64 * q1
    let n := if f = 1 then 2 else 1
    match s.engRead j (.mem ((slotScBase r + ix * n) % 2 ^ 48)) n with
    | (.error c, s) => (.error c, s)
    | (.ok (v, b), s) => (.ok ((f, BitVec.ofNat 16 v), b), s)

/-- A recorded scale as a number; nan where it makes products NaN (R201). -/
def scaleFl (m : Nat × W16) : Fl :=
  match m.1 with
  | 1 => scaleOf 1 false m.2.toNat
  | 2 => scaleOf 2 false m.2.toNat
  | _ => .fin false 1 0

/-! ### Bit-plane arithmetic (R199, R314) -/

/-- The value of element `b` of a 64-element run, from its first `p` plane words of `n` (R199). -/
def planeVal (planes : List Nat) (n : Nat) (half : Bool) (b : Nat) : Int :=
  let p := planes.length
  let q := planes.foldl (fun acc w => 2 * acc + (w.testBit b).toNat) 0
  toSigned p q * (2 ^ (n - p) : Nat) + (if half && p < n then ((2 ^ (n - p - 1) : Nat) : Int) else 0)

def bKey (page k col : Nat) : Nat := page * 2 ^ 18 + k * 512 + col

/-- B(e, k, n): b8, or b16 with its low byte in the even column. -/
def Engine.bVal (x : Engine) (w : List W64) (k n : Nat) : Int :=
  let col := 64 * jBcol w
  let at_ (c : Nat) : Nat := (lookD x.rows (bKey (jPage w) k c) (0 : Byte)).toNat
  if jBw w = 0 then toSigned 8 (at_ (col + n)) else toSigned 16 (at_ (col + 2 * n) + 256 * at_ (col + 2 * n + 1))

def sKey (page block col : Nat) : Nat := (page * 8 + block) * 512 + col

def Engine.bScale (x : Engine) (w : List W64) (block n : Nat) : Nat × W16 :=
  let col := 64 * jBcol w + n * (1 + jBw w)
  match x.scales.find? (·.1 == sKey (jPage w) block col) with
  | some e => e.2
  | none => (0, 0)

/-- y of R314: the exact product rounded once to f32; a NaN-making scale before a zero one. -/
def blockVal (bi : Int) (sa sb : Fl) : Nat :=
  match sa, sb with
  | .nan, _ | _, .nan => f32F.nan
  | _, _ => if sa.isZero || sb.isZero then 0 else f32F.write 0 false (((Fl.ofInt bi).mul sa).mul sb)

def accKey (r c : Nat) : Nat := r * 512 + c

/-- Add one block's sums to a row of a set. -/
def accRow (x : AccSet) (eng : Engine) (w : List W64) (r blk : Nat) (av : List Int) (sa : Nat × W16) : AccSet :=
  (List.range (jN w)).foldl (fun x n =>
    let bi : Int := (av.zipIdx.map fun (a, k) => a * eng.bVal w (64 * blk + k) n).sum
    let key := accKey r (64 * jAcol w + n)
    if jAccm w ≥ 2 then
      let old := lookD x.i key (0 : BitVec 48)
      { x with i := putKey x.i key (old + BitVec.ofInt 48 bi) }
    else
      let y := blockVal bi (scaleFl sa) (scaleFl (eng.bScale w blk n))
      let old := (lookD x.f key (0 : W32)).toNat
      { x with f := putKey x.f key (BitVec.ofNat 32 (f32F.sum 0 false [f32F.read false old, f32F.read false y])) }) x

/-- Clear the region of a tile, rows `lo` and up. -/
def accClear (x : AccSet) (w : List W64) (f i : Bool) : AccSet :=
  let inside (k : Nat) : Bool := k / 512 < jM w && 64 * jAcol w ≤ k % 512 && k % 512 < 64 * jAcol w + jN w
  { x with f := if f then x.f.filter (fun e => !inside e.1) else x.f
           i := if i then x.i.filter (fun e => !inside e.1) else x.i }

/-- Change the set that a job's accumulator holds. -/
def State.modSet (s : State) (j : Job) (f : AccSet → AccSet) : State :=
  s.modCluster j.die j.cluster fun c => { c with sets := updIf c.sets (·.holder == some (j.grp, jAcc j.words)) f }

def State.accSet (s : State) (j : Job) : AccSet :=
  ((s.cluster j.die j.cluster).sets.find? (·.holder == some (j.grp, jAcc j.words))).getD ⟨none, [], []⟩

/-- Sites of the plane words of a K-block of a row of A; none outside the slot. -/
def State.aSites (s : State) (j : Job) (x blk : Nat) : List Site :=
  let w := j.words
  let r := j.slot
  let k0 := jO0 w + 64 * blk
  if k0 ≥ slotExtent r 0 || x ≥ slotExtent r 1 then []
  else
    let off := x * slotStride r 1 + k0 / 64 * (8 * slotNpl r)
    (List.range (jPlanes w)).map fun p => s.opSite j (off + 8 * p) 8

/-- Site of the scale of K-block `q0` of a row or column of a slot, where it has one (R36). -/
def scaleSite (r : List W64) (q0 q1 : Nat) : Option Site :=
  let f := slotScFmt r
  if f = 0 || 64 * q0 ≥ slotExtent r 0 || q1 ≥ slotExtent r 1 then none
  else some (.mem ((slotScBase r + (q0 + slotExtent r 0 / 64 * q1) * (if f = 1 then 2 else 1)) % 2 ^ 48))

/-- One K-block of a row of A: its 64 values and scale, with whether a data error occurred. -/
def State.aBlock (s : State) (e : Nat) (j : Job) (x blk : Nat) : Except (Nat × Nat) ((List Int × (Nat × W16)) × Bool) × State :=
  let r := j.slot
  match s.aSites j x blk with
  | [] => (.ok ((List.replicate 64 0, (0, 0)), false), s)
  | sites =>
    match s.engReads e j 8 sites with
    | (.error c, s) => (.error c, s)
    | (.ok (ps, b), s) =>
      let av := (List.range 64).map fun i => if b then 0 else planeVal ps (slotNpl r) (slotHalf r) i
      match s.engScale e j ((jO0 j.words + 64 * blk) / 64) x with
      | (.error c, s) => (.error c, s)
      | (.ok (sa, b'), s) => (.ok ((av, sa), b || b'), s)

def State.aBlocks (s : State) (e : Nat) (j : Job) (x : Nat) :
    List Nat → Except (Nat × Nat) (List (List Int × (Nat × W16)) × Bool) × State
  | [] => (.ok ([], false), s)
  | b :: t =>
    match s.aBlock e j x b with
    | (.error c, s) => (.error c, s)
    | (.ok (v, er), s) =>
      match s.aBlocks e j x t with
      | (.error c, s) => (.error c, s)
      | (.ok (vs, er'), s) => (.ok (v :: vs, er || er'), s)

/-- Site of the gather table's entry for a row (R314). -/
def gatherSite (w : List W64) (r : Nat) : Site := .mem ((jPair w % 2 ^ 48 + 4 * (jO1 w + r)) % 2 ^ 48)

/-- One row of an MMA or GMMA: a failed check, or whether a data error occurred. -/
def State.mmaRow (s : State) (e : Nat) (j : Job) (r : Nat) : Except (Nat × Nat) Bool × State :=
  let w := j.words
  let (x, s) : Except (Nat × Nat) (Nat × Bool) × State :=
    if jKind w = 1 then s.engRead j (gatherSite w r) 4 else (.ok ((jO1 w + r) % 2 ^ 32, false), s)
  match x with
  | .error c => (.error c, s)
  | .ok (x, er) =>
    match s.aBlocks e j x (List.range (jKb w)) with
    | (.error c, s) => (.error c, s)
    | (.ok (bs, er'), s) =>
      let eng := s.engine j.die e
      (.ok (er || er'), s.modSet j fun a => bs.zipIdx.foldl (fun a (b, k) => accRow a eng w r k b.1 b.2) a)

/-! ### LDB, RD, CLR (R305, R316) -/

/-- Write one byte of a B page, keeping only bytes that are not zero. -/
def Engine.putRow (x : Engine) (key : Nat) (b : Byte) : Engine :=
  { x with rows := if b = 0 then x.rows.filter (·.1 != key) else putKey x.rows key b }

def Engine.putScale (x : Engine) (key : Nat) (m : Nat × W16) : Engine :=
  { x with scales := (x.scales.filter (·.1 != key)) ++ [(key, m)] }

/-- Load one K-block of a tile into one engine: element bytes by (k, n), scales by n. -/
def Engine.loadBlock (x : Engine) (w : List W64) (blk : Nat) (el : Nat → Nat → Nat) (sc : Nat → Nat × W16) : Engine :=
  let bw := jBw w
  let col := 64 * jBcol w
  let last := (jGroups w).length * 64
  let x := (List.range 64).foldl (fun x k =>
    let row := 64 * blk + k
    let x := (List.range (jN w)).foldl (fun (x : Engine) n =>
      let v := el k n
      if bw = 0 then x.putRow (bKey (jPage w) row (col + n)) (BitVec.ofNat 8 v)
      else (x.putRow (bKey (jPage w) row (col + 2 * n)) (BitVec.ofNat 8 v)).putRow (bKey (jPage w) row (col + 2 * n + 1))
        (BitVec.ofNat 8 (v / 256))) x
    (List.range (last - jNp w)).foldl (fun (x : Engine) n => x.putRow (bKey (jPage w) row (col + jNp w + n)) 0) x) x
  let x := (List.range (jN w)).foldl (fun (x : Engine) n => x.putScale (sKey (jPage w) blk (col + n * (1 + bw))) (sc n)) x
  (List.range (last - jNp w)).foldl (fun (x : Engine) n => x.putScale (sKey (jPage w) blk (col + jNp w + n)) (3, 0)) x

/-- Site of an element of an LDB's tile. -/
def State.bSite (s : State) (j : Job) (blk k n : Nat) : Site :=
  let w := j.words
  let r := j.slot
  let c0 := jO0 w + 64 * blk + k
  let c1 := jO1 w + n
  if c0 < slotExtent r 0 && c1 < slotExtent r 1 then
    s.opSite j ((c0 * slotStride r 0 + c1 * slotStride r 1) % 2 ^ 48) (1 + jBw w)
  else .nowhere

/-- Sites of the elements of one K-block of an LDB's tile. -/
def State.bSites (s : State) (j : Job) (blk : Nat) : List Site :=
  (List.range 64).flatMap fun k => (List.range (jN j.words)).map fun n => s.bSite j blk k n

/-- Read one K-block of an LDB's tile: elements row by row, then scales. -/
def State.ldbBlock (s : State) (e : Nat) (j : Job) (engs : List Nat) (blk : Nat) : Except (Nat × Nat) Bool × State :=
  let w := j.words
  let ns := List.range (jN w)
  match s.engReads e j (1 + jBw w) (s.bSites j blk) with
  | (.error c, s) => (.error c, s)
  | (.ok (vs, er), s) =>
    let (sc, s) := ns.foldl (fun (a : Except (Nat × Nat) (List (Nat × W16) × Bool) × State) n =>
      match a with
      | (.error c, s) => (.error c, s)
      | (.ok (l, b), s) => match s.engScale e j (jO0 w / 64 + blk) (jO1 w + n) with
        | (.error c, s) => (.error c, s)
        | (.ok (m, b'), s) => (.ok (l ++ [m], b || b'), s)) (.ok ([], false), s)
    match sc with
    | .error c => (.error c, s)
    | .ok (l, er') =>
      let el (k n : Nat) : Nat := vs.getD (k * jN w + n) 0
      let s := engs.foldl (fun s k => s.modEngine j.die k fun x =>
        let x := x.loadBlock w blk el fun n => l.getD n (0, 0)
        (jGroups w).foldl (fun (x : Engine) c =>
          { x with groups := (x.groups.filter fun y => !(y.page == jPage w && y.cg == c)) ++
                     [⟨jPage w, c, BitVec.ofNat 16 (jTag w), j.grp.ctx⟩] }) x) s
      (.ok (er || er'), s)

/-- The bytes of one element of a tile as RD writes it (R316). -/
def rdElem (a : AccSet) (w r : List W64) (row n : Nat) : List Byte :=
  let key := accKey row (64 * jAcol w + n)
  let f := slotFmt r
  if jAccm w ≤ 1 then
    let v := (lookD a.f key (0 : W32)).toNat
    leBytes (fmtBytes f) (cvtVal .f32 (fmtTy f) 0 false false v)
  else
    let v := (lookD a.i key (0 : BitVec 48)).toInt
    if f = 4 then leBytes 8 (wrap 64 v) else leBytes 4 (wrap 32 (sat v (-(2 ^ 31)) (2 ^ 31 - 1)))

/-- Offset of an element of an RD in its slot, or in the buffer of its handle. -/
def rdOff (j : Job) (row n : Nat) : Nat :=
  let w := j.words
  let off := tensorOffset j.slot j.layout [jO0 w + n, jO1 w + row, 0, 0, 0]
  if jAsrc w == 1 then (slotBase j.slot % 2 ^ 32 + off) % 2 ^ 48 else off

/-- Destination of an element of an RD: nowhere beyond the extents; outside the handle's buffer, `over`. -/
def State.rdSite (s : State) (j : Job) (row n : Nat) : Site :=
  let w := j.words
  let size := fmtBytes (slotFmt j.slot)
  let off := rdOff j row n
  if !inBounds j.slot [jO0 w + n, jO1 w + row, 0, 0, 0] (fun _ => true) then .nowhere
  else if jAsrc w == 1 then
    let g := s.groupOf j.grp
    let h := g.hd (jAh w)
    if off + size ≤ h.len then scrSite g (h.base + off) size .over else .over
  else s.opSite j off size

/-- The order in which an RD writes the elements of its tile: into a handle by ascending buffer offset (R316); empty where that is their
own. -/
def rdOrder (j : Job) : List Nat :=
  let w := j.words
  if jKind w != 3 || jAsrc w != 1 then [] else
  let ks := (List.range (jM w * jN w)).map fun i => ((rdOff j (i / jN w) (i % jN w) + 2 ^ 47) % 2 ^ 48, i)
  if (ks.zip (ks.drop 1)).all fun p => p.1.1 ≤ p.2.1 then [] else (sortBy (fun (k : Nat × Nat) => k.1) ks).map (·.2)

/-- Elements that a step of an RD writes. -/
def RunJob.elems (r : RunJob) (i : Nat) : List Nat :=
  let w := r.job.words
  let per := 256 / fmtBytes (slotFmt r.job.slot)
  let n := min per (jM w * jN w - i * per)
  if r.order.isEmpty then (List.range n).map (i * per + ·) else (r.order.drop (i * per)).take n

/-- Write elements of an RD in turn, up to one whose check fails; by when the writes are performed, and what they touch. -/
def State.rdWrite (s : State) (j : Job) : List Nat → Nat → Touched → Except (Nat × Nat) Nat × State
  | [], lat, _ => (.ok lat, s)
  | i :: t, lat, m =>
    let w := j.words
    let site := s.rdSite j (i / jN w) (i % jN w)
    match s.elemWrite j.die (s.jobCore j) j.grp site (rdElem (s.accSet j) w j.slot (i / jN w) (i % jN w)) m with
    | (.error c, _, _, s) => (.error c, s)
    | (.ok ovr, l, m, s) =>
      let s := if ovr then s.modHandle j.grp (jAh w) fun h => if h.serial == j.hserial then { h with err := 2 } else h else s
      s.rdWrite j t (max lat l) m

/-! ### Running a job -/

/-- Steps of a job at which it may stop (Table 10-5): rows, K-blocks, 256-byte pieces. -/
def jobSteps (w r : List W64) : Nat :=
  match jKind w with
  | 0 | 1 | 4 => jM w
  | 2 => jKb w
  | _ => (rdBytes w r + 255) / 256

/-- Cycles of one step. -/
def stepCycles (w : List W64) : Nat :=
  match jKind w with
  | 0 | 1 => jPlanes w
  | 2 => 64
  | _ => 1

/-- What a step has come to: a failed check, or whether a data error occurred, and by how much later its writes are performed. -/
abbrev StepRes := Except (Nat × Nat) (Bool × Nat)

/-- Perform step `i` of a job (Table 10-5). The bytes that an RD has written into a handle count as they are delivered (R266, R316). -/
def State.jobStep (s : State) (e : Nat) (r : RunJob) (i : Nat) : StepRes × State :=
  let j := r.job
  let w := j.words
  let done (x : Except (Nat × Nat) Bool × State) : StepRes × State := (x.1.map fun b => (b, 0), x.2)
  match jKind w with
  | 0 | 1 => done (s.mmaRow e j i)
  | 2 => done (s.ldbBlock e j (r.engines.map fun k => e / 2 * 2 + k) i)
  | 3 =>
    let es := r.elems i
    match s.rdWrite j es 0 Touched.none with
    | (.error c, s) => (.error c, s)
    | (.ok lat, s) =>
      (.ok (false, lat), if jAsrc w == 1 then
        s.after 4 (.deliveryCount j.grp (jAh w) j.hserial.toNat (es.length * fmtBytes (slotFmt j.slot)) j.stamp) else s)
  | _ => (.ok (false, 0), s.modSet j fun a =>
      let inside (k : Nat) : Bool := k / 512 == i && 64 * jAcol w ≤ k % 512 && k % 512 < 64 * jAcol w + jN w
      { a with f := a.f.filter (fun x => !inside x.1), i := a.i.filter (fun x => !inside x.1) })

/-- The row index that a step of a GMMA finds in its table, as it stands. -/
def State.gatherRow (s : State) (j : Job) (r : Nat) : Nat := match (s.engRead j (gatherSite j.words r) 4).1 with
  | .ok (v, _) => v
  | .error _ => 0

/-- The data that a step reads besides a gather table, or writes. -/
def State.stepSites (s : State) (r : RunJob) (i : Nat) : List Site :=
  let j := r.job
  let w := j.words
  match jKind w with
  | 0 | 1 =>
    let x := if jKind w = 1 then s.gatherRow j i else (jO1 w + i) % 2 ^ 32
    (List.range (jKb w)).flatMap fun b => s.aSites j x b
  | 2 => s.bSites j i
  | 3 => (r.elems i).map fun k => s.rdSite j (k / jN w) (k % jN w)
  | _ => []

/-- The scales that a step reads. -/
def State.stepScales (s : State) (r : RunJob) (i : Nat) : List Site :=
  let j := r.job
  let w := j.words
  match jKind w with
  | 0 | 1 =>
    let x := if jKind w = 1 then s.gatherRow j i else (jO1 w + i) % 2 ^ 32
    (List.range (jKb w)).flatMap fun b => (scaleSite j.slot (jO0 w / 64 + b) x).toList
  | 2 => (List.range (jN w)).flatMap fun n => (scaleSite j.slot (jO0 w / 64 + i) (jO1 w + n)).toList
  | _ => []

/-- One site of each line. -/
def lineSites (xs : List Site) : List Site :=
  (xs.foldl (fun (acc : List (Nat × Nat) × List Site) x => match x.line with
    | none => acc
    | some l => if acc.1.contains l then acc else (l :: acc.1, x :: acc.2)) ([], [])).2.reverse

/-- Latency of some sites of a job that are read together: that of the slowest line. -/
def State.sitesTime (s : State) (j : Job) (xs : List Site) : Nat × State :=
  (lineSites xs).foldl (fun acc x =>
    let (l, s) := acc.2.siteLat j.die (s.jobCore j) j.grp 4 x
    (max acc.1 l, s)) (0, s)

/-- Latency of the data that a step reads: that of its slowest line, after that of a gather table's entry. Its scales are read too, and hold
nothing (log entry 95). -/
def State.stepLat (s : State) (r : RunJob) (i : Nat) : Nat × State :=
  let j := r.job
  let (t, s) := if jKind j.words = 1 then s.siteLat j.die (s.jobCore j) j.grp 4 (gatherSite j.words i) else (0, s)
  let (l, s) := if jReads j.words then s.sitesTime j (s.stepSites r i) else (0, s)
  (t + l, (s.sitesTime j (s.stepScales r i)).2)

/-- Everything that a step reads or writes. -/
def State.stepAll (s : State) (r : RunJob) (i : Nat) : List Site :=
  (if jKind r.job.words = 1 then [gatherSite r.job.words i] else []) ++ s.stepSites r i ++ s.stepScales r i

/-- What a step draws on, of the general part of its context's buckets (R326). -/
def State.stepDraws (s : State) (r : RunJob) (i : Nat) : List (Nat × Nat × Nat) :=
  let j := r.job
  let xs := s.stepAll r i
  s.siteDraws j.die (s.jobCore j) j.grp (if jKind j.words = 3 then 2 else 1) xs

/-- The first line of an ASRC 0 operand. -/
def State.firstSite (s : State) (j : Job) : Option Site :=
  let w := j.words
  if jReads w && jAsrc w == 0 then
    some (match jKind w with
      | 2 => s.bSite j 0 0 0
      | _ => (s.aSites j (if jKind w = 1 then s.gatherRow j 0 else jO1 w) 0).headD .nowhere)
  else none

/-- Latency of the location that serves an ASRC 0 operand's first line. -/
def State.firstLine (s : State) (j : Job) : Nat × State := match s.firstSite j with
  | some x => s.siteLat j.die (s.jobCore j) j.grp 4 x
  | none => (0, s)

def State.setRun (s : State) (d c : Nat) (es : List Nat) (r : Option RunJob) : State :=
  es.foldl (fun s k => s.modEngine d (2 * c + k) fun x => { x with run := r }) s

def State.setBusy (s : State) (d c : Nat) (es : List Nat) (n : Option Nat) : State :=
  es.foldl (fun s k => s.modEngine d (2 * c + k) fun x => { x with busyFrom := n }) s

/-- A control-store half loaded earlier becomes active at an engine's job start; CSGO falls once all have switched (R325). -/
def State.switchStore (s : State) (d ix : Nat) : State :=
  match (s.engine d ix).csnew with
  | none => s
  | some v =>
    let s := s.modEngine d ix fun x => { x with csver := v, csnew := none, half := 1 - x.half }
    if (List.range 64).any fun k => (s.engine d k).csnew.isSome then s else s.setFld d 0xB10 16 16 0

/-- Start a job on engines of a cluster in the next cycle, in which its source handle drains. -/
def State.startJob (s : State) (d c : Nat) (es : List Nat) (j : Job) : State :=
  let w := j.words
  let s := es.foldl (fun s k => s.switchStore d (2 * c + k)) s
  let (first, s) := s.firstLine j
  let re := j.cluster != c
  let up := max 40 first + (if re then 64 else 0)
  let s := if jKind w == 2 then s else match s.setFor j with
    | some i => s.modCluster j.die j.cluster fun x => { x with sets := updAt x.sets i fun y =>
        if y.holder.isSome then y else ⟨some (j.grp, jAcc w), [], []⟩ }
    | none => s
  let s := if jMul w then s.modSet j fun a => accClear a w (jAccm w == 1) (jAccm w == 3) else s
  let r : RunJob := { job := j, engines := es, start := s.clock + 1, step := 0, ends := s.clock + up, fetched := false, drawn := false,
                      wrote := 0, order := rdOrder j, stopped := none, err := 0,
                      reroute := re, begun := false, readEnd := false, ring := none }
  let me : Event := .jobComplete d c (es.headD 0)
  let s := s.noteSites j.die (s.jobCore j) j.grp (s.firstSite j).toList r.ends me
  (((s.setRun d c es (some r)).setBusy d c es (some (s.clock + 1))).after 1 me).at_ r.ends me

/-- Handle, ring and pipe effects once a job's reads have ended (R313, R318 to R320); a handle that has been armed or reset since the job
was posted does not change (R270). -/
def State.jobReadsEnd (s : State) (j : Job) (ring : Option Nat) (engine : Nat) : State :=
  let w := j.words
  if jReads w && jAsrc w == 1 then
    let s := if (s.handle j.grp (jAh w)).serial != j.hserial then s else s.setHandle j.grp (jAh w) fun h =>
      let h := { h.dropOut with rstamp := max h.rstamp j.stamp, ending := h.ending || jAend w }
      if h.ending && h.outs == 0 && (h.st == .draining || h.st == .full) then { h with st := .free, ending := false } else h
    match ring with
    | some b => s.after 0 (.engineArrival j.grp b engine j.stamp)
    | none => s
  else s

/-- Error words and timeline number of a job that has completed (R313, R317, R322), its writes performed at a cycle. -/
def State.jobEnd (s : State) (j : Job) (errs : List Nat) (wrote : Nat) : State :=
  let s := errs.foldl (fun s err => s.modGroup j.grp fun g => { g with mxErr := g.mxErr.add err j.serial }) s
  let s := j.tiles.foldl (fun s t => s.pipeDone t.1 t.2.1 t.2.2) s
  match j.num, jSig j.words with
  | some n, some tc => s.at_ wrote (.tlSigComplete j.grp tc n.toNat j.stamp none)
  | _, _ => s

/-- Jobs of a cluster that an engine cannot run leave its queue, rerouted or with an error (R313), until it takes one, where it does (R312). -/
def State.jobTurn (s : State) (d c e : Nat) : Nat → State
  | 0 => s
  | n + 1 =>
    match s.jobPick d c e with
    | none => s
    | some (i, act) =>
      match (s.cluster d c).queue[i]? with
      | none => s
      | some j =>
        let s := s.modCluster d c fun x => { x with queue := x.queue.take i ++ x.queue.drop (i + 1) }
        match act with
        | .run es => s.startJob d c es j
        | .reroute =>
          ((s.bump d 0xB18 31 0).modCluster d (c ^^^ 1) fun x => { x with queue := insertBy (·.posted) j x.queue }).jobTurn d c e n
        | .fail err =>
          let ring := (s.handle j.grp (jAh j.words)).ring
          ((s.jobEnd j [err] s.clock).jobReadsEnd j ring (2 * c + e)).jobTurn d c e n

/-- JOB_START (R312, R313): a free engine takes the oldest ready job it can run; those before it that neither cluster can run, or that its pair
runs, leave the queue. -/
def jobStart (d c e : Nat) (s : State) : State := s.jobTurn d c e ((s.cluster d c).queue.length + 1)

/-- An engine stops at a failed check and reports it (R322). -/
def State.stopJob (s : State) (d c : Nat) (r : RunJob) (check addr : Nat) : State :=
  let e := 2 * c + r.engines.headD 0
  (s.setRun d c r.engines (some { r with stopped := some 0 })).unitRec d 0x34 r.job.grp.ctx (BitVec.ofNat 32 check)
    (BitVec.ofNat 64 addr) (Config.engineDetail e r.job.serial) (.engine d e)

/-- MXBUSY counts what the engines of a job have run for until the end of this cycle, in which they stop (R328). -/
def State.countBusy (s : State) (d c : Nat) (r : RunJob) : State :=
  (r.engines.foldl (fun s k => match (s.engine d (2 * c + k)).busyFrom with
    | some n => s.bump d (0x3808 + 32 * (2 * c + k)) 31 0 (s.clock + 1 - n)
    | none => s) s).setBusy d c r.engines none

/-- A job's engine has done every step, or gives up with a further error: the job completes, once its last write is performed (R316, R317,
R322). A region that an RD has read whole is cleared then. -/
def State.finishJob (s : State) (d c : Nat) (r : RunJob) (more : List Nat := []) : State :=
  let j := r.job
  let w := j.words
  let s := if jKind w == 3 && (jAccm w == 1 || jAccm w == 3) && more.isEmpty then s.modSet j fun a => accClear a w (jAccm w == 1) (jAccm w == 3) else s
  let s := (s.countBusy d c r)
  let s := r.engines.foldl (fun s k =>
    let ix := 2 * c + k
    let s := s.modEngine d ix fun x => { x with run := none, tail := if k == r.engines.headD 0 then some r else x.tail
                                                idleAt := some s.clock, last := some (j.grp, j.serial) }
    s.bump d (0x3800 + 32 * ix) 31 0) s
  let errs := (if r.err = 0 then [] else [r.err]) ++ more
  let e := r.engines.headD 0
  (if r.wrote ≤ s.clock then s.jobEnd j errs s.clock
    else (s.modEngine d (2 * c + e) fun x => { x with ending := x.ending ++ [(r, errs)] }).at_ r.wrote (.jobComplete d c e)).after 1 (.jobLastRead d c e)

/-- Begin the next step of a running job: its accesses are drawn, and data that has not arrived holds the stream (R315, R326). A context
that is being saved stops its engines here (R323). -/
def State.stepBegin (s : State) (d c : Nat) (r : RunJob) : State :=
  let me : Event := .jobComplete d c (r.engines.headD 0)
  if s.halted r.job.grp.ctx then
    (s.countBusy d c r).setRun d c r.engines (some { r with drawn := false })
  else
    let (ok, s) := if r.drawn || !s.throttled then (true, s) else s.sluice r.job.grp false (.unit me) (s.stepDraws r r.step)
    if !ok then s.setRun d c r.engines (some { r with drawn := true })
    else
      let cyc := stepCycles r.job.words
      let (lat, s) := s.stepLat r r.step
      let at_ := max s.clock (r.start + r.step * cyc + lat - 1) + cyc
      let s := s.noteSites r.job.die (s.jobCore r.job) r.job.grp (if jReads r.job.words then s.stepAll r r.step else []) at_ me
      (s.setRun d c r.engines (some { r with fetched := true, drawn := false, ends := at_ })).at_ at_ me

/-- A job starts: a source handle that holds its operand drains, and a barrier bound to it now is the one that the job will ring (R318, R319). -/
def State.beginJob (s : State) (d c : Nat) (r : RunJob) : State :=
  let j := r.job
  let src := jReads j.words && jAsrc j.words == 1
  let h := s.handle j.grp (jAh j.words)
  let s := if src && h.st == .full then s.setHandle j.grp (jAh j.words) fun x => { x with st := .draining } else s
  s.setRun d c r.engines (some { r with begun := true, ring := if src then h.ring else none })

/-- Jobs that have left an engine complete as their last writes are performed (R317). -/
def State.endJobs (s : State) (d ix : Nat) : State :=
  let due (x : RunJob × List Nat) : Bool := x.1.wrote ≤ s.clock
  let xs := (s.engine d ix).ending.filter due
  xs.foldl (fun s x => s.jobEnd x.1.job x.2 s.clock) (s.modEngine d ix fun y => { y with ending := y.ending.filter fun x => !due x })

/-- JOB_COMPLETE (R314 to R317): a job starts; a step of it ends, and the next begins; the last completes it. A walk that a migration holds is
made again in the next cycle (R241). -/
def jobComplete (d c e : Nat) (s : State) : State :=
  let s := s.endJobs d (2 * c + e)
  match (s.engine d (2 * c + e)).run with
  | none => s
  | some r =>
    if !r.begun && r.start ≤ s.clock && s.clock < r.ends then s.beginJob d c r
    else if r.stopped.isSome || s.clock < r.ends || s.unitHeld (.jobComplete d c e) then s
    else if !r.fetched then s.stepBegin d c r
    else match s.jobStep (2 * c + e) r r.step with
      | (.error (9, _), s) => (s.setRun d c r.engines (some { r with ends := s.clock + 1 })).after 1 (.jobComplete d c e)
      | (.error (check, addr), s) => s.stopJob d c r check addr
      | (.ok (er, lat), s) =>
        let s := if jKind r.job.words = 3 then
            s.noteSites r.job.die (s.jobCore r.job) r.job.grp (s.stepSites r r.step) (max r.wrote (s.clock + lat)) (.jobComplete d c e)
          else s
        let r := { r with step := r.step + 1, fetched := false, err := if er && r.err = 0 then 1 else r.err,
                          wrote := max r.wrote (s.clock + lat) }
        if r.step == jobSteps r.job.words r.job.slot then s.finishJob d c { r with readEnd := true }
        else s.stepBegin d c r

/-- A job goes on at its next step, whose data is read again. -/
def State.resumeRun (s : State) (d c : Nat) (r : RunJob) : State :=
  let r := { r with start := s.clock + 1 - stepCycles r.job.words * r.step, ends := s.clock, fetched := false, drawn := false, stopped := none }
  let s := r.engines.foldl (fun s k => s.modEngine d (2 * c + k) fun x => { x with busyFrom := some (x.busyFrom.getD (s.clock + 1)) }) s
  (s.setRun d c r.engines (some r)).after 1 (.jobComplete d c (r.engines.headD 0))

/-- JOB_LAST_READ (R318 to R320): the cycle after the last read; the handle first, then the arrival. -/
def jobLastRead (d c e : Nat) (s : State) : State :=
  match (s.engine d (2 * c + e)).tail with
  | none => s
  | some r =>
    (s.modEngine d (2 * c + e) fun x => { x with tail := none }).jobReadsEnd r.job r.ring (2 * c + e)

/-- ENGINE_ARRIVAL (R319, R350): arrivals of engines follow those of teams, in engine order. -/
def engineArrival (g : GroupRef) (b engine stamp : Nat) (s : State) : State :=
  s.atBar (s.barOf (s.groupOf g) b) fun y => { y with arrs := y.arrs ++ [(2 ^ 90 + engine, stamp)] }

/-- The reply to a stopped engine (R322): retry the step, or complete with the aborted error. -/
def State.engineReply (s : State) (d ix : Nat) (retry : Bool) : State :=
  match (s.engine d ix).run with
  | none => s
  | some r =>
    if r.stopped.isNone then s else
    let c := ix / 2
    if retry then s.resumeRun d c r else s.finishJob d c { r with stopped := none, readEnd := true } [2]

/-- The valid configuration record of a kind with the highest SEQ (R456). -/
def State.configRecord (s : State) (kind : Nat) : Option Config :=
  (s.svc.records.filter fun r => r.kind == kind && r.signed).foldl (fun m r => match m with
    | some x => if x.seq.toNat < r.seq.toNat then some r else some x
    | none => some r) none

/-- SELF_TEST (R324): failing sub-arrays are fenced. -/
def selfTest (d ix : Nat) (failed : BitVec 64) (s : State) : State :=
  if failed = 0 then s else
  let s := s.modEngine d ix fun x => { x with fence := x.fence ||| failed }
  let s := s.bump d (0x3800 + 32 * ix + 0x18) 47 32
  let s := match (s.engine d ix).last with
    | some (g, ser) => s.modGroup g fun x => { x with mxErr := x.mxErr.add 5 ser }
    | none => s
  let s := (s.raiseEvent d 2).modDie d fun x => { x with events := setBits x.events 3 3 1 }
  let rec0 : Config := (s.configRecord 1).getD ⟨1, 0, [], [], true, []⟩
  let rec1 : Config := { rec0 with seq := rec0.seq + 1, subs := rec0.subs ++ [(d, ix, failed)] }
  { s with svc := { s.svc with events := s.svc.events ++ [SvcEvent.fence d ix s.clock], records := s.svc.records ++ [rec1] } }

/-- The bytes of a control-store image, by sectors; those that cannot be read are free values (log entry 97). -/
def State.storeImage (s : State) (addr n : Nat) : List Byte × State :=
  (List.range ((n + 31) / 32)).foldl (fun acc i =>
    let m := min 32 (n - 32 * i)
    match acc.2.physGet (addr + 32 * i) m with
    | (.ok bs, s) => (acc.1 ++ bs, s)
    | (.error _, s) => (acc.1 ++ leBytes m (Config.freeNat s.fresh), { s with fresh := s.fresh + 1 })) ([], s)

/-- CONTROL_STORE_LOAD (R325): the image goes into the half that is not active of each engine named. -/
def controlStoreLoad (d : Nat) (s : State) : State :=
  let go := s.fld d 0xB10 16 16
  let addr := s.fld d 0xB00 47 0
  let n := s.fld d 0xB10 14 0
  if go = 1 then s
  else if n > 16384 || addr % 64 != 0 then s.setFld d 0xB10 17 17 1
  else
    let v := BitVec.ofNat 16 (s.fld d 0xB00 63 48)
    let es := (List.range 64).filter fun e => (s.reg d 0xB08).toNat.testBit e
    let s := (s.setFld d 0xB10 17 17 0).setFld d 0xB10 16 16 (if es.isEmpty then 0 else 1)
    let (bs, s) := s.storeImage addr n
    let put (x : Engine) : Engine :=
      let lo := 16384 * (1 - x.half)
      let new := (bs.zipIdx.filter fun b => b.1 != 0).map fun b => (lo + b.2, b.1)
      { x with csnew := some v, store := (x.store.filter fun y => y.1 < lo) ++ new ++ x.store.filter fun y => lo + n ≤ y.1 }
    es.foldl (fun s e => s.modEngine d e put) s

def execJobStart (s : State) : Host.Outcome State Fault Refusal :=
  match s.ev with
  | some (.jobStart d c e) => if d < 4 && c < 32 && e < 2 then .next (jobStart d c e { s with ev := none }) else .fault .noUnit
  | _ => .fault .noEvent

def execJobComplete (s : State) : Host.Outcome State Fault Refusal :=
  match s.ev with
  | some (.jobComplete d c e) => if d < 4 && c < 32 && e < 2 then .next (jobComplete d c e { s with ev := none }) else .fault .noUnit
  | _ => .fault .noEvent

def execJobLastRead (s : State) : Host.Outcome State Fault Refusal :=
  match s.ev with
  | some (.jobLastRead d c e) => if d < 4 && c < 32 && e < 2 then .next (jobLastRead d c e { s with ev := none }) else .fault .noUnit
  | _ => .fault .noEvent

def execEngineArrival (s : State) : Host.Outcome State Fault Refusal :=
  match s.ev with
  | some (.engineArrival g b e st) => .next (engineArrival g b e st { s with ev := none })
  | _ => .fault .noEvent

def execSelfTest (s : State) : Host.Outcome State Fault Refusal :=
  match s.ev with
  | some (.selfTest d e f) => if d < 4 && e < 64 then .next (selfTest d e f { s with ev := none }) else .fault .noUnit
  | _ => .fault .noEvent

def execControlStoreLoad (s : State) : Host.Outcome State Fault Refusal :=
  match s.ev with
  | some (.controlStoreLoad d) => if d < 4 then .next (controlStoreLoad d { s with ev := none }) else .fault .noUnit
  | _ => .fault .noEvent

end Sys2Proof.Machine
end

