-- ==== Sys2Proof/Machine/Task.lean ====
section
/-! DEFINITION. Class 13, operations 24 to 26: tasks, the ready queue and shadow task slots (R42 to R44, R80 to R82, R378 to R381,
R387, R388, R468, R469, R480). -/

namespace Sys2Proof.Machine

/-! ### Task entries (Table 1-12) -/

def taskIdle : Nat := 0
def taskDone : Nat := 4
def taskCont : Nat := 5

/-- An entry as it stands in memory: its STATE code, and the fields of a live copy. -/
def Task.ofWords (n : Nat) (w : List W64) : Nat × Task :=
  let w0 := (w.getD 0 0).toNat
  (bits w0 52 50,
   { n := n, st := .idle, count := bits w0 63 56, prio := bits w0 55 53, nsucc := bits w0 49 47, chain := w0.testBit 46,
     succ := (List.range 4).map fun i => bits (w.getD 1 0).toNat (12 * i + 11) (12 * i), arg := w.getD 2 0, ltime := w.getD 3 0,
     poster := 0, plan := 0, runner := none, missing := false, stamp := 0, since := 0 })

/-- R43; R13 with R7 for the bits that Table 1-12 reserves. -/
def taskMalformed (w : List W64) : Bool :=
  let (st, t) := Task.ofWords 0 w
  t.nsucc ≥ 5 || (t.nsucc == 4 && t.chain) || st ≥ 6 || bits (w.getD 0 0).toNat 45 0 != 0 || bits (w.getD 1 0).toNat 63 48 != 0

/-- An entry as memory holds it, or none where it cannot be read (R479). -/
def State.taskWords (s : State) (d ctx n : Nat) : Option (List W64) × State :=
  let base := match s.ctx? ctx with
    | some c => c.tkbase
    | none => 0
  match s.ctxWords d ctx (base + 32 * n) 4 with
  | (.error _, s) => (none, s)
  | (.ok w, s) => (some w, s)

/-- An entry in memory that is well formed; one that cannot be read is malformed. -/
def State.taskEntry (s : State) (d ctx n : Nat) : Option (Nat × Task) × State :=
  match s.taskWords d ctx n with
  | (none, s) => (none, s)
  | (some w, s) => (if taskMalformed w then none else some (Task.ofWords n w), s)

def State.task? (s : State) (ctx n : Nat) : Option Task :=
  match s.ctx? ctx with
  | some c => c.tasks.find? (·.n == n)
  | none => none

def State.modTask (s : State) (ctx n : Nat) (f : Task → Task) : State :=
  s.modCtx ctx fun c => { c with tasks := updIf c.tasks (·.n == n) f }

/-- The direct successors of an entry. -/
def Task.direct (t : Task) : List Nat := t.succ.take (min t.nsucc (if t.chain then 3 else 4))

/-- A successor index names an entry in the continuation state (R43), or one that cannot be read. -/
def State.namesCont (s : State) (d ctx : Nat) (ms : List Nat) : Bool × State :=
  ms.foldl (fun (a : Bool × State) m =>
    match a.2.task? ctx m with
    | some u => (a.1 || u.st == .continuation, a.2)
    | none => match a.2.taskWords d ctx m with
      | (some w, s) => (a.1 || (Task.ofWords m w).1 == taskCont, s)
      | (none, s) => (true, s)) (false, s)

/-- The continuation entry that a SUCC3 link names: its live copy, or the copy that the device takes here (R44), or none where the entry
is malformed or in another state (R43). -/
def State.contEntry (s : State) (d ctx n : Nat) : Option Task × State :=
  match s.task? ctx n with
  | some u => (if u.st = .continuation then some u else none, s)
  | none => match s.taskEntry d ctx n with
    | (some (5, u), s) =>
      let u := { u with st := .continuation }
      (some u, s.modCtx ctx fun c => { c with tasks := c.tasks ++ [u] })
    | (_, s) => (none, s)

/-- The chain walk (R43): every successor, or none where the walk faults. -/
def chainWalk (d ctx : Nat) : Nat → Task → List Nat → State → Option (List Nat) × State
  | 0, _, _, s => (none, s)
  | fuel + 1, t, acc, s =>
    let (bad, s) := s.namesCont d ctx t.direct
    if bad then (none, s)
    else if !t.chain then (some (acc ++ t.direct), s)
    else match s.contEntry d ctx (t.succ.getD 3 0) with
      | (none, s) => (none, s)
      | (some u, s) => chainWalk d ctx fuel u (acc ++ t.direct) s

/-- The codes of Table 1-12. -/
def TaskSt.code : TaskSt → Nat
  | .idle => 0 | .armed => 1 | .ready => 2 | .running => 3 | .done => 4 | .continuation => 5

/-- COUNT, STATE and LTIME go back to memory (R44). -/
def State.writeBack (s : State) (d ctx : Nat) (t : Task) (st : TaskSt) : State :=
  match s.ctx? ctx with
  | none => s
  | some c =>
    let a := c.tkbase + 32 * t.n
    match s.recWords d c.walkfmt c.ptroot a 1 with
    | (.error _, s) => s
    | (.ok w, s) =>
      let w0 := setBits (setBits (w.getD 0 0).toNat 63 56 t.count) 52 50 st.code
      (s.recWrite d c.walkfmt c.ptroot a 8 w0).recWrite d c.walkfmt c.ptroot (a + 24) 8 t.ltime.toNat

/-! ### The ready queue (R380) -/

/-- Cycles each way between a die and the queue's node (R480). -/
def State.taskWay (s : State) (d coord : Nat) : Nat := if d == coord then 12 else 180 + s.reroute d coord

/-- Head of the queue for a floor. -/
def queueHead (ready : List (List Nat)) (floor : Nat) : Option Nat :=
  ((List.range 8).reverse.filter fun p => p ≥ floor).findSome? fun p => (ready.getD p []).head?

/-- A task that becomes ready enters its FIFO. -/
def State.enqueueTask (s : State) (ctx n : Nat) : State :=
  match s.task? ctx n with
  | none => s
  | some t => (s.modTask ctx n fun u => { u with since := s.clock }).modCtx ctx fun c => { c with ready := updAt c.ready t.prio (· ++ [n]) }

/-- Two tasks of a FIFO stand in the order in which they became ready, those of one cycle by index (R380). -/
def State.readyBefore (s : State) (ctx a b : Nat) : Bool :=
  match s.task? ctx a, s.task? ctx b with
  | some t, some u => t.since < u.since || (t.since == u.since && a < b)
  | _, _ => false

/-- A task goes back to its FIFO, ahead of every task that became ready after it (R81), and the node looks for takers again. -/
def State.returnTask (s : State) (ctx n : Nat) : State :=
  match s.task? ctx n with
  | none => s
  | some t =>
    let put (l : List Nat) : List Nat := l.filter (fun m => s.readyBefore ctx m n) ++ n :: l.filter fun m => !s.readyBefore ctx m n
    ((s.modTask ctx n fun u => { u with missing := false }).modCtx ctx fun c => { c with ready := updAt c.ready t.prio put }).after 0
      (.taskRequestArrival ctx)

/-- Send a request to the node (R480). -/
def State.sendTask (s : State) (m : TaskMsg) : State :=
  let ctx := m.grp.ctx
  match s.ctx? ctx with
  | none => s
  | some c =>
    let n := s.taskWay m.die c.coord
    (s.modCtx ctx fun c => { c with msgs := c.msgs ++ [{ m with due := s.clock + n }] }).after n (.taskRequestArrival ctx)

/-- Answer a request: it travels back. -/
def State.answerTask (s : State) (m : TaskMsg) (fault : Option (Nat × Nat × Nat)) (quad : Option Nat) (ltime : W64) (stamp : Nat)
    (slot : Option (Nat × Nat × Nat)) : State :=
  match s.ctx? m.grp.ctx with
  | none => s
  | some c => s.after (s.taskWay m.die c.coord) (.taskVerdictReturn
      { team := m.team, lanes := m.lanes, issued := m.issued, key := m.key, dst := m.dst, fault := fault, quad := quad, ltime := ltime,
        stamp := stamp, slot := slot, ctx := m.grp.ctx })

/-- The verdict on a `tk.post` or `tk.done`: an answer to waiting lanes; an implied completion has only the record of a fault
(R381). -/
def State.verdict (s : State) (m : TaskMsg) (fault : Option (Nat × Nat × Nat)) : State :=
  match m.implied with
  | none => s.answerTask m fault none 0 0 none
  | some r =>
    match fault with
    | none => s
    | some (k, d0, d1) =>
      let s := if k == 0x19 || k == 0x1B then s.bump m.die 0xD10 47 32 else s
      s.pushRec { r with kind := k, d0 := BitVec.ofNat 32 d0, d1 := BitVec.ofNat 64 d1, time := s.clock }

/-- Cycle from which the count change of a request may form, its accesses having been performed (R468). -/
def State.formedBy (s : State) (m : TaskMsg) : Nat := max m.formed (s.performedBy m.team m.lanes m.issued)

/-- `tk.post` at the node (R378): an LTIME of NONE holds no time (R363, log entry 110), and others need a capability (R369). Tasks made ready are added to
`ready`. -/
def State.postTask (s : State) (m : TaskMsg) (n : Nat) (ready : List Nat) : List Nat × State :=
  let ctx := m.grp.ctx
  let g := s.groupOf m.grp
  let (e, s) := if (s.task? ctx n).isSome then (none, s) else s.taskEntry m.die ctx n
  match e with
  | none => (ready, s.verdict m (some (0x1A, 0, n)))
  | some (st, t) =>
    if st != taskIdle && st != taskDone then (ready, s.verdict m (some (0x1A, 0, n)))
    else if t.ltime == noTime then (ready, s.verdict m (some (0x19, 3, t.ltime.toNat)))
    else if !s.covered g t.ltime then (ready, s.verdict m (some (0x19, 1, t.ltime.toNat)))
    else
      let t := { t with st := if t.count = 0 then .ready else .armed, poster := g.stage, plan := g.rcb, stamp := m.stamp }
      let s := s.modCtx ctx fun c => { c with tasks := c.tasks ++ [t] }
      let s := s.formBatchAt (s.formedBy m) m.die g.plan [(.stage g.stage, t.ltime)] [] m.stamp m.key
      (if t.count = 0 then ready ++ [n] else ready, s.verdict m none)

/-- The first fault among the successors of a completing task, with their counts after its decrements (R379). -/
def State.successorFault (s : State) (ctx : Nat) : List Nat → List (Nat × Nat) → Option (Nat × Nat) × List (Nat × Nat)
  | [], left => (none, left)
  | n :: t, left =>
    match s.task? ctx n with
    | none => (some (2, n), left)
    | some e =>
      if e.st != .armed then (some (2, n), left)
      else
        let c := lookD left n e.count
        if c = 0 then (some (1, n), left) else s.successorFault ctx t (putKey left n (c - 1))

/-- A completing task is done: it leaves its group and the live copies, and its count goes. -/
def State.finishTask (s : State) (m : TaskMsg) (t : Task) : State :=
  let ctx := m.grp.ctx
  let s := s.writeBack m.die ctx t .done
  let s := s.modCtx ctx fun c => { c with tasks := c.tasks.filter (·.n != t.n) }
  let s := s.modGroup m.grp fun g => { g with running := g.running.filter (· != t.n) }
  s.formBatchAt (s.formedBy m) m.die ⟨ctx, t.plan⟩ [] [(.stage t.poster, t.ltime)] m.stamp m.key

/-- `tk.done` at the node (R379): every check before anything is applied. -/
def State.doneTask (s : State) (m : TaskMsg) (n : Nat) (ready : List Nat) : List Nat × State :=
  let ctx := m.grp.ctx
  match s.task? ctx n with
  | none => (ready, s.verdict m (some (0x1B, 3, n)))
  | some t =>
    if t.st != .running || t.runner != some m.grp then (ready, s.verdict m (some (0x1B, 3, n)))
    else
      let fail (f : Nat × Nat × Nat) (s : State) : List Nat × State :=
        let s := s.verdict m (some f)
        (ready, if m.implied.isSome then s.finishTask m t else s)
      match chainWalk m.die ctx 4096 t [] s with
      | (none, s) => fail (0x1A, 0, n) s
      | (some succ, s) =>
        match s.successorFault ctx succ [] with
        | (some (d, x), _) => fail (0x1B, d, x) s
        | (none, left) =>
          let s := left.foldl (fun s c => s.modTask ctx c.1 fun u =>
            { u with count := c.2, st := if c.2 = 0 then .ready else u.st, stamp := max u.stamp m.stamp }) s
          (ready ++ (left.filter (·.2 == 0)).map (·.1), (s.finishTask m t).verdict m none)

/-- The task's index, input-missing bit, handle and ARG as the quad of R388. -/
def taskQuad (t : Task) (handle : Option Nat) : Nat :=
  t.n + t.missing.toNat * 2 ^ 12 + (handle.getD (2 ^ 32 - 1)) * 2 ^ 32 + t.arg.toNat * 2 ^ 64

/-- A take still has its taker: lanes that wait for it, or its empty shadow slot. -/
def State.takerStands (s : State) (m : TaskMsg) : Bool :=
  match m.slot with
  | some (core, ix) => (s.core m.die core).shadow.any fun x => x.ix == ix && x.grp == m.grp && x.st == .empty && x.asked == some m.issued
  | none => (lanesOf m.lanes).any fun l => (s.lane m.team l).wait == .task m.issued

/-- A group becomes a task's runner (R381). -/
def State.runTask (s : State) (g : GroupRef) (n : Nat) : State :=
  (s.modTask g.ctx n fun t => { t with st := .running, runner := some g }).modGroup g fun x => { x with running := x.running ++ [n] }

/-- Serve one take where the queue has a head for its floor. -/
def State.serveTask (s : State) (m : TaskMsg) : State :=
  let ctx := m.grp.ctx
  let keep (s : State) : State := s.modCtx ctx fun c => { c with takes := c.takes ++ [m] }
  match m.req, s.ctx? ctx with
  | .take floor, some c =>
    if !s.takerStands m then s else
    match queueHead c.ready floor with
    | none => keep s
    | some n =>
      match s.task? ctx n with
      | none => keep s
      | some t =>
        let s := s.modCtx ctx fun c => { c with ready := c.ready.map fun l => l.filter (· != n) }
        match m.slot with
        | some (core, ix) => s.answerTask m none none t.ltime t.stamp (some (core, ix, n))
        | none => (s.runTask m.grp n).answerTask m none (some (taskQuad t none)) t.ltime t.stamp none
  | _, _ => s

/-- Order of takes: arrival, die, core, quad, then shadow slots before direct takes (R380). -/
def takeKey (m : TaskMsg) : Nat :=
  let (quad, k) := match m.slot with
    | some (_, ix) => (ix / 2, ix % 2)
    | none => (m.team.slot / 8, 2)
  let core := match m.slot with
    | some (c, _) => c
    | none => m.team.core
  (((m.due * 4 + m.die) * 128 + core) * 4 + quad) * 4 + k

/-- The takes that wait or arrive, in the order of service: by arrival, but for those of one die that R82 (shadow slots) or, on the
node's die, R380 (all) puts in the order of (core, quad, k): these stand so in the places of their arrivals. -/
def orderTakes (coord : Nat) (l : List TaskMsg) : List TaskMsg :=
  let ranked (d : Nat) (m : TaskMsg) : Bool := m.die == d && (d == coord || m.slot.isSome)
  (List.range 4).foldl (fun l d =>
    let mine := sortBy (fun m => takeKey { m with due := 0 }) (l.filter (ranked d))
    (l.foldl (fun (a : List TaskMsg × List TaskMsg) m =>
      if ranked d m then (a.1 ++ [a.2.headD m], a.2.drop 1) else (a.1 ++ [m], a.2)) ([], mine)).1) (sortBy takeKey l)

/-- TASK_REQUEST_ARRIVAL (R380, R469, R480): the posts and completions of the cycle in turn, the tasks they make ready in index
order, then the takes, which wait where the context is being saved (R430). Requests wait behind a batch of their source that the node
holds. -/
def taskRequestArrival (ctx : Nat) (s : State) : State :=
  match s.ctx? ctx with
  | none => s
  | some c =>
    let held (m : TaskMsg) : Bool := (s.die c.coord).held.any (·.src == m.die)
    let now := c.msgs.filter fun m => m.due ≤ s.clock && !held m
    let s := if c.msgs.any fun m => m.due ≤ s.clock && held m then s.after 1 (.taskRequestArrival ctx) else s
    let s := s.modCtx ctx fun c => { c with msgs := c.msgs.filter fun m => !(m.due ≤ s.clock && !held m) }
    let isTake (m : TaskMsg) : Bool := match m.req with
      | .take _ => true
      | _ => false
    let acts := sortBy (fun (m : TaskMsg) => m.key) (now.filter fun m => !isTake m)
    let (ready, s) := acts.foldl (fun (a : List Nat × State) m => match m.req with
      | .post n => a.2.postTask m n a.1
      | .done n => a.2.doneTask m n a.1
      | .take _ => a) ([], s)
    let s := (sortBy id ready).foldl (fun s n => (s.enqueueTask ctx n).bump c.coord 0xD10 31 0) s
    let takes := (match s.ctx? ctx with
      | some c => c.takes
      | none => []) ++ now.filter isTake
    let takes := orderTakes c.coord takes
    if c.phase != .running then s.modCtx ctx fun c => { c with takes := takes }
    else takes.foldl State.serveTask (s.modCtx ctx fun c => { c with takes := [] })

/-! ### Shadow slots (R80 to R82) -/

/-- The elements of a prefetch: one tile of a slot, laid down in the tile's own order. -/
def prefetchElems (g : Group) (hn : Nat) (r l : List W64) (o : List Nat) : List Elem :=
  let h := g.hd hn
  let n := unitBytes r
  (List.range (tileUnits r l)).map fun i =>
    ⟨hn, memSite r l o i, scrSite g (h.base + n * i) n .over, slotFmt r, slotFmt r, n, n⟩

/-- A task has reached a shadow slot: the prefetcher copies a tile into its handle; a fault leaves the task without input. -/
def State.prefetch (s : State) (d core ix : Nat) (sh : Shadow) (t : Task) : State :=
  let s := s.modCore d core fun c => { c with shadow := updIf c.shadow (·.ix == ix) fun y =>
    { y with st := .loading, task := some t.n, asked := none, into := y.h } }
  let h := s.handle sh.grp sh.h
  let o := (List.range 4).map (fun i => bits t.arg.toNat (16 * i + 15) (16 * i)) ++ [0]
  let desc (es : List Elem) : CopyDesc := .make (.prefetch ix) sh.grp sh.h h.serial false es s.clock t.stamp none
  let g := s.groupOf sh.grp
  let n := tileUnits sh.slot sh.layout * unitBytes sh.slot
  if h.st != .filling || h.res + n > h.len then s.prefetchFault d core (desc []) ix
  else
    let s := s.setHandle sh.grp sh.h fun h => { h.reserve n with closed := true }
    s.enqueue d core (sh.h % 2) (desc (prefetchElems g sh.h sh.slot sh.layout o))

/-- The answer to a shadow slot's take: a slot that is gone, or has been armed again since, returns the task (R80, R81). -/
def State.slotAnswer (s : State) (d core ix n : Nat) (ctx issued : Nat) : State :=
  match (s.core d core).shadow.find? fun x => x.ix == ix && x.asked == some issued && x.st == .empty && x.grp.ctx == ctx with
  | none => s.returnTask ctx n
  | some sh =>
    match s.task? ctx n with
    | none => s
    | some t => s.prefetch d core ix sh t

/-- An answer stands behind a batch of the queue's node that the asking die's node holds (R374, R480). -/
def State.answerHeld (s : State) (r : TaskReply) : Bool :=
  (s.ctx? r.ctx).any fun c => (s.die r.team.die).held.any (·.src == c.coord)

/-- TASK_VERDICT_RETURN (R378, R379, R480); a take is an acquire at pod scope (R381). -/
def taskVerdictReturn (r : TaskReply) (s : State) : State :=
  if s.answerHeld r then s.after 1 (.taskVerdictReturn r) else
  match r.slot with
  | some (core, ix, n) => s.slotAnswer r.team.die core ix n r.ctx r.issued
  | none =>
    let m := pick r.lanes fun l => (s.lane r.team l).st == .op && (s.lane r.team l).wait == .task r.issued
    if m = 0 then s else
    match r.fault with
    | some (k, d0, d1) =>
      s.raise r.team (s.lane r.team (lowest m)).pc r.key ((lanesOf m).map fun l => (l, .simple k d0 d1))
    | none =>
      match r.quad with
      | none => s.passLanes r.team m 0
      | some q =>
        let s := s.modLanes r.team m fun _ y => { writeG r.dst 4 q y with ltnow := r.ltime }
        (s.lanesDrop r.team.die m 5).passLanes r.team m r.stamp

/-- An empty bound slot whose handle can take a tile. -/
def State.slotReady (s : State) (sh : Shadow) : Bool :=
  let h := s.handle sh.grp sh.h
  sh.st == .empty && sh.asked.isNone && h.st == .filling && h.res == 0 && !(s.groupOf sh.grp).stopped

/-- SHADOW_SLOT_TAKE (R80): a take for the slot leaves for the queue's node. -/
def shadowSlotTake (d core ix : Nat) (s : State) : State :=
  match (s.core d core).shadow.find? (·.ix == ix) with
  | none => s
  | some sh =>
    if !s.slotReady sh then s else
    let s := s.modCore d core fun c => { c with shadow := updIf c.shadow (·.ix == ix) fun y => { y with asked := some s.clock } }
    s.sendTask { due := 0, team := ⟨d, core, 8 * (ix / 2)⟩, lanes := 0, die := d, grp := sh.grp, req := .take sh.floor, dst := Opd.none0,
                 slot := some (core, ix), stamp := 0, key := 0, issued := s.clock, formed := s.clock, implied := none }

/-- Shadow slots that take in this cycle, in order (R82). -/
def State.slotCandidates (s : State) : List Event :=
  let l := s.cores.flatMap fun c => (c.shadow.filter fun sh => s.slotReady sh).map fun sh => (c.die, c.ix, sh.ix)
  (sortBy (fun (x : Nat × Nat × Nat) => (x.1 * 128 + x.2.1) * 8 + x.2.2) l).map fun x => .shadowSlotTake x.1 x.2.1 x.2.2

def execTaskRequestArrival (s : State) : Host.Outcome State Fault Refusal :=
  match s.ev with
  | some (.taskRequestArrival ctx) => .next (taskRequestArrival ctx { s with ev := none })
  | _ => .fault .noEvent

def execTaskVerdictReturn (s : State) : Host.Outcome State Fault Refusal :=
  match s.ev with
  | some (.taskVerdictReturn r) => .next (taskVerdictReturn r { s with ev := none })
  | _ => .fault .noEvent

def execShadowSlotTake (s : State) : Host.Outcome State Fault Refusal :=
  match s.ev with
  | some (.shadowSlotTake d core ix) =>
    if d < 4 && core < 128 then .next (shadowSlotTake d core ix { s with ev := none }) else .fault .noUnit
  | _ => .fault .noEvent

/-! ### Instructions -/

/-- A `tk.post` or `tk.done` leaves for the node; the lanes wait for the verdict (R468, R480). -/
def Env.taskRequest (x : Env) (mk : Nat → TaskReq) (s : State) : Res :=
  let n := x.a0 32
  if n > 4095 then x.trapAll 0x1A 0 n s
  else
    let (st, s) := s.releaseLanes x.t x.e
    let s := s.sendTask
      { due := 0, team := x.t, lanes := x.e, die := x.t.die, grp := x.tm.grp, req := mk n, dst := Opd.none0, slot := none, stamp := st,
        key := x.key, issued := s.clock, formed := s.clock + x.performed s, implied := none }
    x.waitAll (.task s.clock) s

def tkPostBody (x : Env) (s : State) : Res := x.taskRequest .post s
def tkDoneBody (x : Env) (s : State) : Res := x.taskRequest .done s

def execTkPost (h : Hdr) (o : RegForm) (s : State) : Host.Outcome State Fault Refusal :=
  issueWord (o.view 13 24 h) tkPostBody s
def execTkDone (h : Hdr) (o : RegForm) (s : State) : Host.Outcome State Fault Refusal :=
  issueWord (o.view 13 25 h) tkDoneBody s

/-- Index in the core of the slot that a `tk.arm` names. -/
def Env.slotIx (x : Env) : Nat := 2 * x.quad + bits x.v.opt 2 2

def Env.shadow (x : Env) (s : State) : Option Shadow := (s.core x.t.die x.t.core).shadow.find? (·.ix == x.slotIx)

/-- Go on unless the slot is bound to another group (R388). -/
def Env.ownSlot (x : Env) (s : State) (f : Option Shadow → Res) : Res :=
  match x.shadow s with
  | some sh => if sh.grp == x.tm.grp then f (some sh)
               else x.trapAll 0x19 7 (Config.regDetail 4 x.slotIx).toNat s
  | none => f none

/-- A slot lets go of the task it holds (R81). -/
def State.emptySlot (s : State) (sh : Shadow) : State :=
  match sh.task with
  | some n => s.returnTask sh.grp.ctx n
  | none => s

/-- Bind (R80, R388). A slot of the group's own that holds a task keeps it, with the handle that its prefetch fills; one whose take is under way
asks again with the new floor: DESIGN CHOICE (log entry 125). -/
def tkArmBindBody (x : Env) (s : State) : Res :=
  match s.readSlot x.t.die x.ctx x.v.a.tsNum with
  | (.error e, s) => x.trapAll 0x10 e x.v.a.tsNum s
  | (.ok (r, l), s) =>
    x.ownSlot s fun old =>
      let sh : Shadow := match old with
        | some o => { o with ts := x.v.a.tsNum, h := x.v.bOpd.idx, floor := bits x.v.opt 5 3, slot := r, layout := l, asked := none }
        | none => { ix := x.slotIx, grp := x.tm.grp, ts := x.v.a.tsNum, h := x.v.bOpd.idx, floor := bits x.v.opt 5 3, st := .empty,
                    task := none, asked := none, into := x.v.bOpd.idx, slot := r, layout := l }
      .ok (s.modCore x.t.die x.t.core fun c => { c with shadow := (c.shadow.filter (·.ix != sh.ix)) ++ [sh] }) 0

def execTkArmBind (h : Hdr) (o : RegForm) (s : State) : Host.Outcome State Fault Refusal :=
  issueWord (o.view 13 26 h) tkArmBindBody s

def tkArmUnbindBody (x : Env) (s : State) : Res :=
  x.ownSlot s fun old => match old with
    | none => .ok s 0
    | some sh =>
      let s := s.modCore x.t.die x.t.core fun c => { c with shadow := c.shadow.filter (·.ix != sh.ix) }
      .ok (s.emptySlot sh) 0

def execTkArmUnbind (h : Hdr) (o : RegForm) (s : State) : Host.Outcome State Fault Refusal :=
  issueWord (o.view 13 26 h) tkArmUnbindBody s

/-- Take from a slot (R388): it waits until the slot is LOADED; the group then runs the task, and the quad follows after the round
trip to the node. -/
def tkArmTakeBody (x : Env) (s : State) : Res :=
  x.ownSlot s fun old =>
    let hold : Res := x.waitAll (.slotTake x.slotIx) s
    match old with
    | none => hold
    | some sh =>
      match sh.st, sh.task.bind (s.task? x.ctx ·), s.ctx? x.ctx with
      | .loaded, some t, some c =>
        let s := s.modCore x.t.die x.t.core fun c => { c with shadow := updIf c.shadow (·.ix == sh.ix) fun y =>
          { y with st := .empty, task := none, asked := none } }
        let s := (s.modTask x.ctx t.n fun u => { u with missing := false }).runTask x.tm.grp t.n
        let s := s.after (2 * s.taskWay x.t.die c.coord) (.taskVerdictReturn
          { team := x.t, lanes := x.e, issued := s.clock, key := x.key, dst := x.v.d, fault := none, quad := some (taskQuad t (some sh.into)),
            ltime := t.ltime, stamp := t.stamp, slot := none, ctx := x.ctx })
        x.waitAll (.task s.clock) s
      | _, _, _ => hold

def execTkArmTake (h : Hdr) (o : RegForm) (s : State) : Host.Outcome State Fault Refusal :=
  issueWord (o.view 13 26 h) tkArmTakeBody s

def tkArmTakeDirectBody (x : Env) (s : State) : Res :=
  let s := s.sendTask
    { due := 0, team := x.t, lanes := x.e, die := x.t.die, grp := x.tm.grp, req := .take (bits x.v.opt 5 3), dst := x.v.d, slot := none,
      stamp := 0, key := x.key, issued := s.clock, formed := s.clock, implied := none }
  x.waitAll (.task s.clock) s

def execTkArmTakeDirect (h : Hdr) (o : RegForm) (s : State) : Host.Outcome State Fault Refusal :=
  issueWord (o.view 13 26 h) tkArmTakeDirectBody s

/-! ### A group's exit (R81, R381, R444) -/

/-- The tasks that a group runs complete, in ascending index, each with the record that its fault would make. -/
def State.exitTasks (s : State) (g : Group) (stamp formed : Nat) (r : Rec) : State :=
  (sortBy id g.running).foldl (fun s n => s.sendTask
    { due := 0, team := ⟨g.die, g.core, r.slot⟩, lanes := r.lanes, die := g.die, grp := g.ref, req := .done n, dst := Opd.none0,
      slot := none, stamp := stamp, key := r.key, issued := s.clock, formed := formed, implied := some r }) s

/-- The shadow slots of a group let go of their tasks and are unbound. -/
def State.exitShadows (s : State) (g : GroupRef) (d core : Nat) : State :=
  let mine := (s.core d core).shadow.filter (·.grp == g)
  let s := if mine.isEmpty then s else s.modCore d core fun c => { c with shadow := c.shadow.filter (·.grp != g) }
  mine.foldl State.emptySlot s

end Sys2Proof.Machine
end

