-- ==== Sys2Proof/Machine/Exit.lean ====
section
/-! DEFINITION. The exit of lanes and of groups (R161, R444 to R446). -/

namespace Sys2Proof.Machine

/-- Lanes of a team that an end of the group's work names: the record that a fault of that end makes (R32, R381). -/
def State.exitRec (s : State) (tm : Team) (lane : Nat) (pc : Addr) : Rec :=
  { die := tm.ref.die, serial := 0, kind := 0, ctx := tm.grp.ctx, core := tm.ref.core, slot := tm.ref.slot, teamix := tm.ix,
    fw := s.isFw tm.ref, time := s.clock, pc := pc, lanes := 1#32 <<< lane, d0 := 0, grank := tm.grp.rank, d1 := 0, d2 := 0, d3 := 0,
    d4 := 0, key := tm.key lane, unit := .none, raw := [] }

/-- The record of a group's end: that of the lowest lane of those that exited in this cycle (R32, R381). -/
def State.lastRec (s : State) (g : GroupRef) (tm : Team) (lane : Nat) (pc : Addr) : Rec :=
  let ls := (s.teams.filter fun t => t.grp == g && t.exits.1 == s.clock).flatMap fun t => (lanesOf t.exits.2).map fun l => (t, l)
  match leastBy (fun x => x.1.key x.2) ls with
  | some (t, l) => s.exitRec t l (t.lane l).pc
  | none => s.exitRec tm lane pc

/-- Every lane of every team of a group has exited. -/
def State.allExited (s : State) (g : GroupRef) : Bool :=
  let ts := s.teams.filter (·.grp == g)
  !ts.isEmpty && ts.all fun t => t.lanes.all fun l => l.st == .exited

/-- The group's part in its stage ends: the last group of a closed stage drops the root (Table 12-2). -/
def State.leaveStage (s : State) (g : Group) (stamp key : Nat) : State :=
  let s := s.modStage g.ref.ctx g.rcb g.stage fun x => { x with live := x.live - 1 }
  let st := s.stageOf g
  match st.root with
  | some old =>
    if st.live = 0 && !st.open_ && st.waiting.isEmpty then
      let s := s.modStage g.ref.ctx g.rcb g.stage fun x => { x with root := none }
      s.formBatch g.die g.plan [] [(.stage g.stage, old)] stamp key
    else s
  | none => s

/-- A group exits (R444): slots, tasks, holds and chunk, in this order, as if its last thread had issued each now. -/
def State.groupExit (s : State) (g : Group) (tm : Team) (lane : Nat) (pc : Addr) : State :=
  let key := tm.key lane
  let r := s.lastRec g.ref tm lane pc
  let hz := ((s.teams.filter (·.grp == g.ref)).flatMap (·.lanes)).foldl (fun m l => max m l.horizon) 0
  let busy := ((s.teams.filter (·.grp == g.ref)).flatMap (·.lanes)).foldl (fun m l => max m (l.settled s.clock)) 0
  let (stamp, s) := s.release g.die hz
  let s := (s.modGroup g.ref fun x => { x with exitAt := some s.clock }).modPlan g.ref.ctx g.rcb fun p => { p with stamp := max p.stamp stamp }
  let s := s.exitSlots g.ref g.die key
  let s := s.exitTasks g stamp (s.clock + busy) r
  let s := s.exitShadows g.ref g.die g.core
  let decs := g.holds.flatMap fun h => List.replicate h.2 (Loc.stage g.stage, h.1)
  let s := if decs.isEmpty then s else
    (s.modGroup g.ref fun x => { x with holds := [] }).formBatch g.die g.plan [] decs stamp key
  let s := s.exitFire g stamp (s.clock + busy) r
  ((s.leaveStage g stamp key).modCore g.die g.core fun c => { c with hold := false }).bump g.die 0x4108 31 0

/-- Lanes become Exited: arrivals that this completes are made, and the group exits if these were its last lanes. -/
def State.exitLanes (s : State) (t : TeamRef) (m : Lanes) (pc : Addr) : State :=
  let s := (s.modTeam t fun x => x.flushLanes m).modLanes t m fun _ l => { l with st := .exited, wait := .none, win := [], wakeAt := none, psv := false, pserial := 0, ra := none }
  let s := s.modTeam t fun x => { x with exits := (s.clock, if x.exits.1 == s.clock then x.exits.2 ||| m else m) }
  let s := s.tryArriveAll t
  match s.team? t with
  | none => s
  | some tm =>
    match s.group? tm.grp with
    | some g => if g.exitAt.isNone && s.allExited tm.grp then s.groupExit g tm (lowest m) pc else s
    | none => s

/-- Copies, jobs and sends of a group stand aside while its context is stopped or restored. -/
def State.setAside (s : State) (g : GroupRef) : Bool :=
  s.sections.any fun x => x.image ≥ 2 ^ 48 &&
    (x.jobs.any (·.grp == g) || (x.chans.any fun c => c.queue.any (·.grp == g)) || x.entries2.any (·.grp == g))

/-- A job uses a handle or a pipe slot of its group: as its operand, or for what it delivers (R311, R316). -/
def usesGroup (j : Job) : Bool := jKind j.words != 4 && jAsrc j.words != 0

/-- Copies of a group, and jobs that use its handles and slots, that have not ended (R445). -/
def State.groupBusy (s : State) (g : GroupRef) : Bool :=
  let mine (j : Job) : Bool := j.grp == g && usesGroup j
  (s.chans.any fun c => c.queue.any fun x => x.grp == g && !(x.ended && x.done ≤ s.clock)) ||
  (s.clusters.any fun c => c.queue.any mine) || s.setAside g ||
  s.engines.any fun e => match e.run with
    | some r => mine r.job && !r.readEnd
    | none => false

/-- Exited groups whose copies and jobs have ended are freed 8 cycles later (R445). -/
def State.freeGroups (s : State) : State :=
  (s.groups.filter fun g => g.exitAt.isSome && g.freeAt.isNone && !s.groupBusy g.ref).foldl (fun s g =>
    s.modGroup g.ref fun x => { x with freeAt := some (s.clock + 8) }) s

end Sys2Proof.Machine
end

