-- ==== Sys2Proof/Machine/Control.lean ====
section
/-! DEFINITION. Class 0: transfers, joins, exit, sleep and overlay frames (R136 to R140, R147, R148, R157 to R164), and the events
of issue. -/

namespace Sys2Proof.Machine

/-! ### Transfers (R157 to R159) -/

def execNop (h : Hdr) (o : RegForm) (s : State) : Host.Outcome State Fault Refusal :=
  issueWord (o.view 0 0 h) (fun _ s => .ok s 0) s

/-- Target of a relative transfer. -/
def Env.target (x : Env) : Addr := relPc x.pc (BitVec.ofNat 32 x.v.imm)

/-- Every lane of E moves to the target. -/
def Env.jumpAll (x : Env) (s : State) (lat : Nat) : Res := ⟨s, lat, [], x.lanes.map fun l => (l, .jump x.target), false⟩

def execBra (h : Hdr) (o : ImmForm) (s : State) : Host.Outcome State Fault Refusal :=
  issueWord (o.view 0 1 h) (fun x s => x.jumpAll s 0) s

/-- `brx` and `ret`: the target of each lane, and the link where D names one (R159). -/
def brxBody (x : Env) (s : State) : Res :=
  let tgt (l : Nat) : Nat := x.a l 64
  let ok := pick x.e fun l => validAddr (tgt l)
  let link := !x.v.d.isNone
  let s := if link then s.modLanes x.t ok fun _ y => writeG x.v.d 2 (nextPc x.pc).toNat y else s
  ⟨s, if link then 4 else 0, [], x.lanes.map fun l =>
    (l, if validAddr (tgt l) then .jump (BitVec.ofNat 48 (tgt l)) else .trap (.simple 0x06 0 (tgt l))), false⟩

def execBrx (h : Hdr) (o : RegForm) (s : State) : Host.Outcome State Fault Refusal :=
  issueWord (o.view 0 2 h) brxBody s
def execRet (h : Hdr) (o : RegForm) (s : State) : Host.Outcome State Fault Refusal :=
  issueWord (o.view 0 4 h) brxBody s

def callBody (x : Env) (s : State) : Res := x.jumpAll (x.put s 2 fun _ => (nextPc x.pc).toNat) 4

def execCall (h : Hdr) (o : ImmForm) (s : State) : Host.Outcome State Fault Refusal :=
  issueWord (o.view 0 3 h) callBody s

/-- `fjmp`: in overlay mode the target's segment must be LANDED (R108, R158). -/
def fjmpBody (x : Env) (s : State) : Res :=
  if s.overlay x.ctx && ((x.group s).landed x.target).isNone then .all s x (.trap (.simple 0x02 0 x.target.toNat)) else x.jumpAll s 0

def execFjmp (h : Hdr) (o : ImmForm) (s : State) : Host.Outcome State Fault Refusal :=
  issueWord (o.view 0 11 h) fjmpBody s

/-! ### Joins (R136, R137, R160, R460) -/

/-- `join`: the lanes of E wait at the join point. -/
def joinBody (x : Env) (s : State) : Res :=
  let j := x.v.a.idx
  let s := s.modLanes x.t x.e fun _ y =>
    { (y.pass s.clock ⟨x.pc, some s.clock, 0, [], [], false, false⟩) with st := .join j, wait := .none, ra := none }
  .all (s.modTeam x.t fun t => { t with wdzero := true }) x .stay

def execJoin (h : Hdr) (o : RegForm) (s : State) : Host.Outcome State Fault Refusal :=
  issueWord (o.view 0 5 h) joinBody s

/-- `jset`: MASK becomes the mask of E, or a k register. -/
def jsetBody (x : Env) (s : State) : Res :=
  let m : Lanes := if x.v.a.isNone then x.e else BitVec.ofNat 32 (x.a0 32)
  .ok (s.modTeam x.t fun t => { t with mask := updAt t.mask x.v.d.idx fun _ => m }) 4

def execJset (h : Hdr) (o : RegForm) (s : State) : Host.Outcome State Fault Refusal :=
  issueWord (o.view 0 6 h) jsetBody s

def jclrBody (x : Env) (s : State) : Res :=
  .ok (s.modTeam x.t fun t => { t with mask := updAt t.mask x.v.d.idx fun _ => 0 }) 4

def execJclr (h : Hdr) (o : RegForm) (s : State) : Host.Outcome State Fault Refusal :=
  issueWord (o.view 0 7 h) jclrBody s

/-- Waiters of a team at a join point. -/
def Team.waitersAt (t : Team) (j : Nat) (pc : Addr) : Lanes := t.lanesIn fun l => l.st == .join j && l.pc == pc

/-- The join points with a waiter. -/
def Team.joinPoints (t : Team) : List (Nat × Addr) :=
  (t.lanes.filterMap fun l => match l.st with
    | .join j => some (j, l.pc)
    | _ => none).dedup

/-- How a lane of MASK stands toward a join point: 1 to 4 for the cases of R137, 0 for none. -/
def joinCase (l : Lane) (j : Nat) (pc : Addr) : Nat :=
  match l.st with
  | .join k => if k == j && l.pc == pc then 1 else 4
  | .exited => 2
  | .parked => 3
  | _ => 0

/-- The cases of the lanes of a join point's MASK. -/
def Team.joinCases (t : Team) (p : Nat × Addr) : List Nat :=
  (lanesOf (t.mask.getD p.1 0)).map fun l => joinCase (t.lane l) p.1 p.2

/-- Test the join points of a team against one state, and release those that pass (R137, R138). -/
def State.joinTest (s : State) (t : Team) : State :=
  let pass := t.joinPoints.filter fun p => (t.joinCases p).all (· != 0)
  pass.foldl (fun s p =>
    let s := s.modLanes t.ref (t.waitersAt p.1 p.2) fun _ l =>
      { l with st := .runnable, pc := nextPc l.pc, hold := max l.hold (s.clock + 1) }
    let s := s.modTeam t.ref fun x => { x with wdzero := true }
    if (t.joinCases p).contains 4 then s.bump t.ref.die (issBase t.ref.core + 0x10) 15 0 else s) s

/-! ### The watchdog (R16, R147, R148) -/

/-- Effective WDLOG of a group's stage; the default of Table 1-2 for a team of the firmware, which no plan has. -/
def State.wdlog (s : State) (g : GroupRef) : Nat :=
  match s.group? g with
  | some x => (s.stageOf x).wdlog
  | none => 24

/-- The end of a cycle for a team's watchdog count; a count that reaches its limit expires in this cycle. -/
def State.watchdogTick (s : State) (t : Team) : State :=
  let n := if t.wdzero || !t.diverged then 0 else if t.wddiv then t.wdc + 1 else t.wdc
  let s := s.modTeam t.ref fun x => { x with wdc := n, wdzero := false, wddiv := false }
  if n ≥ 2 ^ s.wdlog t.grp then s.after 0 (.watchdogExpiry t.ref) else s

/-- WATCHDOG_EXPIRY (R148): the lanes runnable now park, each at its own address, and the trap has the MASKs as detail. Where none is runnable, since the last of
them began to wait in this cycle, the trap names none. -/
def watchdogExpiry (t : TeamRef) (s : State) : State :=
  match s.team? t with
  | none => s
  | some tm =>
    let m := tm.lanesIn fun l => l.st == .runnable
    let s := s.modTeam t fun x => { x with wdc := 0 }
    let pair (i : Nat) : W64 := BitVec.ofNat 64 ((tm.mask.getD i 0).toNat + (tm.mask.getD (i + 1) 0).toNat * 2 ^ 32)
    let s := s.bump t.die (issBase t.core + 0x10) 31 16
    s.trap t m (if m = 0 then 0 else (tm.lane (lowest m)).pc) ⟨0x25, 0, pair 0, pair 2, pair 4, pair 6⟩ (tm.key (lowest m))

/-! ### exit, yield, sleep (R157, R161, R162) -/

def exitBody (x : Env) (s : State) : Res := .all (s.exitLanes x.t x.e x.pc) x .stay

def execExit (h : Hdr) (o : RegForm) (s : State) : Host.Outcome State Fault Refusal :=
  issueWord (o.view 0 8 h) exitBody s

/-- `yield`: rotation passes the team over for 8 cycles (R130). -/
def yieldBody (x : Env) (s : State) : Res :=
  .ok (s.modTeam x.t fun t => { t with yldTo := max t.yldTo (s.clock + 8) }) 0

def execYield (h : Hdr) (o : RegForm) (s : State) : Host.Outcome State Fault Refusal :=
  issueWord (o.view 0 9 h) yieldBody s

/-- `sleep n`. -/
def sleepBody (x : Env) (s : State) : Res :=
  if x.v.imm = 0 then .ok s 0
  else x.waitAll (.sleep (s.clock + x.v.imm)) (s.after x.v.imm (.sleepExpiry x.t x.l0))

def execSleep (h : Hdr) (o : ImmForm) (s : State) : Host.Outcome State Fault Refusal :=
  issueWord (o.view 0 10 h) sleepBody s

/-- SLEEP_EXPIRY: sleeping lanes of the team whose cycle has come go on. -/
def sleepExpiry (t : TeamRef) (s : State) : State :=
  match s.team? t with
  | none => s
  | some tm => s.passLanes t (tm.lanesIn fun l => l.st == .op && (match l.wait with
      | .sleep c => c ≤ s.clock
      | _ => false)) 0

/-! ### Overlay frames and prefetch (R105, R106, R163, R164) -/

/-- `cfetch`: a frame becomes PENDING, and a channel copies the segment. -/
def cfetchBody (x : Env) (s : State) : Res :=
  let f := x.v.d.opt
  let g := x.group s
  let seg := x.a0 64 % 2 ^ 48 / 4096
  let woff := x.b0 32 * 4096 % 2 ^ 32
  if !s.overlay x.ctx then .all s x (.trap (.simple 0x04 7))
  else if woff + 4096 > g.winLim then .all s x (.trap (.simple 0x07 0 woff))
  else
    let serial := (g.frames.getD f default).serial + 1
    let s := s.modGroup g.ref fun y => { y with
      frames := updAt y.frames f fun _ => { seg := BitVec.ofNat 36 seg, woff := woff, st := .pending, serial := serial } }
    let (st, s) := x.release0 s
    let es := (List.range 32).map fun i =>
      (⟨1000 + f, .mem (seg * 4096 + 128 * i), scrSite g (woff + 128 * i) 128 .over, 0, 0, 128, 0⟩ : Elem)
    .ok (s.enqueue x.t.die x.t.core (f % 2) (.make (.frame f serial.toNat) g.ref (1000 + f) 0 false es s.clock st none)) 0

def execCfetch (h : Hdr) (o : RegForm) (s : State) : Host.Outcome State Fault Refusal :=
  issueWord (o.view 0 12 h) cfetchBody s

/-- CFETCH_LANDED (R106, R163): the copy whose tag is the frame's SERIAL sets it LANDED. -/
def cfetchLanded (g : GroupRef) (f serial : Nat) (s : State) : State := s.frameState g f serial .landed

/-- Lines that a lane's range holds. -/
def prefiLines (a n : Nat) : List Nat := (List.range ((a % 128 + 128 * n + 127) / 128)).map fun i => (a / 128 + i) * 128

/-- `prefi`: each line is fetched ahead once. -/
def prefiBody (x : Env) (s : State) : Res :=
  if s.overlay x.ctx then .ok s 0 else
  let ls := (x.lanes.flatMap fun l => prefiLines (x.a l 64) x.v.imm).dedup
  .ok (ls.foldl (fun s a => s.fetchAhead x.tm (BitVec.ofNat 48 a)) s) 0

def execPrefi (h : Hdr) (o : ImmForm) (s : State) : Host.Outcome State Fault Refusal :=
  issueWord (o.view 0 13 h) prefiBody s

/-! ### Events of issue -/

/-- LOOKAHEAD_RESULT (R143, R155): a k result is written at the end of its latency, and windows of its instruction that are passed
close. -/
def lookaheadResult (t : TeamRef) (m : Lanes) (pc : Addr) (s : State) : State :=
  let s := s.modTeam t fun x => x.flushK fun e => e.pc == pc && e.lanes == m && e.due ≤ s.clock
  s.modLanes t m fun _ l => { l with win := l.win.filter fun w => !(w.pc == pc) || w.live s.clock }

def execQuadIssue (s : State) : Host.Outcome State Fault Refusal :=
  match s.ev with
  | some (.quadIssue d c q) =>
    if d < 4 && c < 128 && q < 4 then .next (quadIssue d c q { s with ev := none }) else .fault .noUnit
  | _ => .fault .noEvent

def execWatchdogExpiry (s : State) : Host.Outcome State Fault Refusal :=
  match s.ev with
  | some (.watchdogExpiry t) => .next (watchdogExpiry t { s with ev := none })
  | _ => .fault .noEvent

def execSleepExpiry (s : State) : Host.Outcome State Fault Refusal :=
  match s.ev with
  | some (.sleepExpiry t _) => .next (sleepExpiry t { s with ev := none })
  | _ => .fault .noEvent

def execLookaheadResult (s : State) : Host.Outcome State Fault Refusal :=
  match s.ev with
  | some (.lookaheadResult t m pc) => .next (lookaheadResult t m pc { s with ev := none })
  | _ => .fault .noEvent

def execIcacheFill (s : State) : Host.Outcome State Fault Refusal :=
  match s.ev with
  | some (.icacheFill d c l _) => .next (icacheFill d c l { s with ev := none })
  | _ => .fault .noEvent

def execCfetchLanded (s : State) : Host.Outcome State Fault Refusal :=
  match s.ev with
  | some (.cfetchLanded g f n) => .next (cfetchLanded g f n { s with ev := none })
  | _ => .fault .noEvent

end Sys2Proof.Machine
end

