-- ==== Sys2Proof/Machine/TeamImage.lean ====
section
/-! DEFINITION. A team as its section body (Table 14-8), the window items of Table 14-6, and how lanes park and return. -/

namespace Sys2Proof.Machine

/-! ### Lane words -/

/-- STATE of Table 14-8. -/
def LaneSt.code : LaneSt → Nat
  | .runnable => 0 | .join _ => 1 | .op => 2 | .parked => 3 | .exited => 4

/-- JREG of Table 14-8. -/
def LaneSt.jreg : LaneSt → Nat
  | .join j => j
  | _ => 0

/-- The first word of a lane block, with the predicates `p`. -/
def Lane.word (l : Lane) (p : Nat) : Nat :=
  l.pc.toNat + l.st.code * 2 ^ 48 + l.st.jreg * 2 ^ 51 + p * 2 ^ 54 + l.ra.isSome.toNat * 2 ^ 61 + l.psv.toNat * 2 ^ 62

/-- RA: the resume address or position, or what the window wrote while it is not valid. -/
def Lane.raVal (l : Lane) : Nat := match l.ra with
  | some r => r.1
  | none => l.raOld

/-- The wait descriptor: WKIND, WBAR, WGEN and LEFT. -/
def Lane.desc (l : Lane) (clock : Nat) : Nat :=
  match l.wait with
  | .sleep n => 1 + (n - clock) % 2 ^ 32 * 2 ^ 32
  | .bar b g => 2 + b * 2 ^ 8 + g.toNat * 2 ^ 12
  | .sysc => 3
  | _ => 0

/-- LB: bytes of a lane block. -/
def laneBlock (regs : Nat) : Nat := (48 + 4 * regs + 15) / 16 * 16
/-- Bytes of a team section (R432). -/
def teamBodyBytes (regs : Nat) : Nat := 0x180 + 32 * laneBlock regs

def padTo (n : Nat) (bs : List Byte) : List Byte := bs ++ List.replicate (n - bs.length) 0

def Lane.image (l : Lane) (plive : BitVec 7) (regs clock : Nat) : List Byte :=
  padTo (laneBlock regs) (leBytes 8 (l.word (l.p &&& plive).toNat) ++ leBytes 8 (l.raVal % 2 ^ 48) ++
    leBytes 4 l.pserial.toNat ++ leBytes 4 l.tag.toNat ++ leBytes 8 l.ltnow.toNat ++ leBytes 8 l.horizon ++
    leBytes 8 (l.desc clock) ++ ((List.range regs).flatMap fun n => leBytes 4 (l.rg n).toNat))

/-- The section body of a team (Table 14-8). -/
def Team.image (t : Team) (regs clock : Nat) : List Byte :=
  leBytes 8 (t.ix + t.ref.slot * 2 ^ 3 + regs * 2 ^ 8 + t.plive.toNat * 2 ^ 16) ++ leBytes 8 t.grp.rank ++
  leBytes 16 (t.wdc % 2 ^ 32) ++ ((List.range 8).flatMap fun n => leBytes 4 (t.mask.getD n 0).toNat) ++
  ((List.range 16).flatMap fun b => leBytes 4 (t.arrOf b).1.toNat) ++
  ((List.range 64).flatMap fun m => leBytes 4 (t.k.getD m 0).toNat) ++
  (List.range 32).flatMap fun l => (t.lane l).image t.plive regs clock

/-- A 64-bit word of a body. -/
def bodyWord (bs : List Byte) (off : Nat) : Nat := leVal ((bs.drop off).take 8)
def bodyWord32 (bs : List Byte) (off : Nat) : Nat := leVal ((bs.drop off).take 4)

/-- The reserved bits of a lane block are zero, the bytes that fill it up among them, and STATE and WKIND hold listed values. -/
def laneBodyOk (bs : List Byte) (regs : Nat) : Bool :=
  let w := bodyWord bs 0
  let desc := bodyWord bs 0x28
  !w.testBit 63 && bits w 50 48 ≤ 4 && bodyWord bs 8 < 2 ^ 48 && desc % 256 ≤ 3 && bits desc 31 28 == 0 &&
  ((bs.take (laneBlock regs)).drop (0x30 + 4 * regs)).all (· == 0)

/-- The reserved bits of a team's body are zero (Table 14-8, R7). -/
def teamBodyOk (bs : List Byte) : Bool :=
  let regs := bits (bodyWord bs 0) 15 8
  bits (bodyWord bs 0) 63 23 == 0 && bits (bodyWord bs 0x10) 63 32 == 0 && bodyWord bs 0x18 == 0 &&
  (List.range 32).all fun l => laneBodyOk (bs.drop (0x180 + laneBlock regs * l)) regs

/-- The state and wait that a lane block records; a wait without a descriptor executes its instruction again. -/
def restState (code jreg desc clock : Nat) : LaneSt × Wait :=
  let w : Wait := match desc % 256 with
    | 1 => .sleep (clock + desc / 2 ^ 32)
    | 2 => .bar (bits desc 11 8) (BitVec.ofNat 16 (bits desc 27 12))
    | 3 => .sysc
    | _ => .none
  match code with
  | 0 => (.runnable, .none)
  | 1 => (.join jreg, .none)
  | 2 => if w == .none then (.runnable, .none) else (.op, w)
  | 4 => (.exited, .none)
  | _ => (.parked, w)

/-- A lane as its block records it; its resume position belongs to whichever fill of the handle stands (log entry 34). -/
def laneOfBody (bs : List Byte) (plive : BitVec 7) (regs clock : Nat) (old : Lane) : Lane :=
  let w := bodyWord bs 0
  let (st, wait) := restState (bits w 50 48) (bits w 53 51) (bodyWord bs 0x28) clock
  let ra := bodyWord bs 8 % 2 ^ 48
  { old with
    pc := BitVec.ofNat 48 w, st := st, wait := wait, p := BitVec.ofNat 7 (bits w 60 54) &&& plive
    ra := if w.testBit 61 then some (ra, 2 ^ 16) else none, raOld := ra, psv := w.testBit 62
    pserial := BitVec.ofNat 32 (bodyWord32 bs 0x10), tag := BitVec.ofNat 32 (bodyWord32 bs 0x14)
    ltnow := BitVec.ofNat 64 (bodyWord bs 0x18), horizon := bodyWord bs 0x20, win := [], wakeAt := none
    g := (List.range regs).map fun n => BitVec.ofNat 32 (bodyWord32 bs (0x30 + 4 * n)) }

/-- A team as its body records it, in place of `old`. -/
def teamOfBody (bs : List Byte) (clock : Nat) (old : Team) : Team :=
  let regs := bits (bodyWord bs 0) 15 8
  let plive := BitVec.ofNat 7 (bits (bodyWord bs 0) 22 16)
  let lb := laneBlock regs
  { old with
    plive := plive, wdc := bodyWord32 bs 0x10, kpend := []
    mask := (List.range 8).map fun n => BitVec.ofNat 32 (bodyWord32 bs (0x20 + 4 * n))
    arr := (List.range 16).map fun b => (BitVec.ofNat 32 (bodyWord32 bs (0x40 + 4 * b)), (old.arrOf b).2)
    k := (List.range 64).map fun m => BitVec.ofNat 32 (bodyWord32 bs (0x80 + 4 * m))
    lanes := old.lanes.zipIdx.map fun (l, i) => laneOfBody (bs.drop (0x180 + lb * i)) plive regs clock l }

/-! ### Parking and returning (R423, R426, R439) -/

/-- A lane parks under a serial, or with PSV 0; its wait stays as its descriptor. An exited or parked lane is left alone. -/
def Lane.park (l : Lane) (serial : Option W32) : Lane :=
  match l.st with
  | .exited | .parked => l
  | _ =>
    let w : Wait := match l.st with
      | .op => l.wait
      | _ => .none
    { l with st := .parked, wait := w, win := [], wakeAt := none, psv := serial.isSome, pserial := serial.getD 0 }

/-- Park lanes of a team; pending lookahead results are written first (R146). -/
def State.parkLanes (s : State) (t : TeamRef) (m : Lanes) (serial : Option W32) : State :=
  (s.modTeam t fun x => x.flushLanes m).modLanes t m fun _ l => l.park serial

/-- Waits of returned lanes that are satisfied already, or that must be timed again, go on. -/
def State.rewait (s : State) (t : TeamRef) (l : Nat) : State :=
  match (s.lane t l).wait with
  | .bar b _ => s.rewaitBar t b
  | .sleep n => s.at_ n (.sleepExpiry t l)
  | _ => s

/-- Parked lanes of `m` return to Runnable or to their wait, acquiring `stamp`. -/
def State.unparkLanes (s : State) (t : TeamRef) (m : Lanes) (stamp : Nat) : State :=
  match s.team? t with
  | none => s
  | some tm =>
    let m := m &&& tm.lanesIn fun l => l.st == .parked
    let s := s.modLanes t m fun _ l => (resumedLane s.clock l).acquire stamp
    (lanesOf m).foldl (fun s l => s.rewait t l) s

/-! ### The divergence window (R429, R438) -/

/-- The team that a TGT names on a die, if it stands. -/
def State.target (s : State) (d tgt : Nat) : Option Team :=
  if tgt / 2 ^ 24 % 256 != 0 then none
  else match s.team? ⟨d, tgt % 128, bits tgt 11 7⟩ with
    | some tm => if tm.grp.ctx % 4096 == bits tgt 23 12 then some tm else none
    | none => none

/-- A window item as it stands (Table 14-6); none for an index of no item. -/
def State.winItem (s : State) (tm : Team) (ix : Nat) : Option Nat :=
  if ix < 0x20 then let l := (tm.lane ix).shown s.clock; some (l.word l.p.toNat)
  else if ix < 0x28 then some (tm.mask.getD (ix - 0x20) 0).toNat
  else if ix = 0x28 then some (tm.lanesIn fun l => l.st == .parked).toNat
  else if ix = 0x29 then some (tm.lanesIn fun l => l.st == .exited).toNat
  else if ix = 0x2A then some tm.wdc
  else if ix = 0x2B then some tm.plive.toNat
  else if 0x40 ≤ ix && ix < 0x60 then some ((tm.lane (ix - 0x40)).raVal % 2 ^ 48)
  else if 0x60 ≤ ix && ix < 0x80 then
    let l := tm.lane (ix - 0x60)
    some (l.pserial.toNat + l.desc s.clock % 2 ^ 32 * 2 ^ 32)
  else if 0x80 ≤ ix && ix < 0xC0 then some (tm.k.getD (ix - 0x80) 0).toNat
  else if 0x1000 ≤ ix && ix < 0x3000 && ix % 256 < s.regsOf tm then some (((tm.lane ((ix - 0x1000) / 256)).shown s.clock).rg (ix % 256)).toNat
  else none

/-- Window-state detail of a write that Table 14-6 does not allow; 0 where it is allowed. -/
def State.winBad (s : State) (tm : Team) (ix v : Nat) : Nat :=
  let parked (l : Nat) : Bool := (tm.lane l).st == .parked
  if (s.winItem tm ix).isNone then 2
  else if ix < 0x20 then (if !parked ix then 3 else if !validAddr (v % 2 ^ 48) then 4 else 0)
  else if ix < 0x28 || ix = 0x2A then 0
  else if ix < 0x40 then 3
  else if ix < 0x60 then (if parked (ix - 0x40) then 0 else 3)
  else if ix < 0x80 then 3
  else if ix < 0xC0 then (if tm.lanes.any fun l => l.st == .runnable then 3 else 0)
  else if parked ((ix - 0x1000) / 256) then 0 else 3

/-- A write of a lane's state word: PC, PRED and RAV; a changed PC clears RAV. -/
def Lane.putWord (l : Lane) (v : Nat) : Lane :=
  let pc : Addr := BitVec.ofNat 48 v
  { l with pc := pc, p := BitVec.ofNat 7 (bits v 60 54), raOld := l.raVal
           ra := if pc != l.pc || !v.testBit 61 then none else match l.ra with
             | some r => some r
             | none => some (l.raOld, 0) }

/-- Write a window item. -/
def Team.winPut (tm : Team) (ix v : Nat) : Team :=
  if ix < 0x20 then { tm.modLane ix (fun l => l.putWord v) with plive := 127 }
  else if ix < 0x28 then { tm with mask := updAt tm.mask (ix - 0x20) fun _ => BitVec.ofNat 32 v }
  else if ix = 0x2A then { tm with wdc := v % 2 ^ 32 }
  else if ix < 0x60 then tm.modLane (ix - 0x40) fun l =>
    { l with raOld := v % 2 ^ 48, ra := l.ra.map fun r => (v % 2 ^ 48, r.2) }
  else if ix < 0xC0 then { tm with k := updAt tm.k (ix - 0x80) fun _ => BitVec.ofNat 32 v }
  else tm.modLane ((ix - 0x1000) / 256) fun l => l.wg (ix % 256) (BitVec.ofNat 32 v)

/-- Carry out what class 15 left to the end of the cycle, in order (R429, R439). -/
def State.endOp (s : State) (e : EndOp) : State :=
  match e with
  | .park t m => s.parkLanes t m none
  | .unpark t m stamp =>
    let n := match s.team? t with
      | some tm => m &&& tm.lanesIn fun l => l.st == .parked
      | none => 0
    (s.lanesDrop t.die n 6).unparkLanes t m stamp
  | .put t ix v => s.modTeam t fun x => x.winPut ix v

def State.endOps (s : State) : State := s.parks.foldl State.endOp { s with parks := [] }

end Sys2Proof.Machine
end

