-- ==== Sys2Proof/Machine/System.lean ====
section
/-! DEFINITION. Class 15, the fault queue and replies (R422 to R442), and their events. -/

namespace Sys2Proof.Machine

/-! ### The fault queue (R424, R425) -/

/-- Entries of the ring: 2^FQLOG, 6 to 14; other values read as 8. -/
def State.fqSize (s : State) (d : Nat) : Nat := 2 ^ s.fqLog d

/-- The words of a record from entry offset 0x10 on (Table 14-2). -/
def Rec.words (r : Rec) : List W64 :=
  if r.raw.isEmpty then
    [BitVec.ofNat 64 (r.kind + r.ctx % 4096 * 2 ^ 16 + r.core * 2 ^ 28 + r.slot * 2 ^ 35 + r.teamix * 2 ^ 40),
     r.pc.setWidth 64, BitVec.ofNat 64 (r.lanes.toNat + r.d0.toNat * 2 ^ 32), BitVec.ofNat 64 r.grank, r.d1, r.d2, r.d3, r.d4]
  else r.raw

/-- The 128 bytes of an entry, with VALID set. -/
def Rec.bytes (r : Rec) : List Byte :=
  padTo 128 (leBytes 8 (r.serial + 2 ^ 32 + r.die * 2 ^ 33 + r.fw.toNat * 2 ^ 35) ++ leBytes 8 r.time ++
    r.words.flatMap fun w => leBytes 8 w.toNat)

/-- Write one entry; writing VALID is a Release(die). -/
def State.writeEntry (s : State) (r : Rec) : State :=
  let d := r.die
  let head := s.fld d 0x4008 31 0
  let a := s.fld d 0x4000 47 0 + 128 * (head % s.fqSize d)
  let (st, s) := s.release d 0
  let s := (s.physPut d a r.bytes).writeRels (.mem a) 8 false [⟨st, 3, ⟨d, (s.die d).fwcore, default⟩⟩]
  s.setFld d 0x4008 31 0 (head + 1)

/-- Write records from the backlog while the ring has room, and let waiting ones into it. While FQBASE is 0, or the
firmware restarts, no entry is written. -/
def State.drainRecs (s : State) (d : Nat) : Nat → State
  | 0 => s
  | n + 1 =>
    let x := s.die d
    if x.backlog.length < 64 && !x.waitRecs.isEmpty then
      (s.modDie d fun x => { x with backlog := x.backlog ++ x.waitRecs.take 1, waitRecs := x.waitRecs.drop 1 }).drainRecs d n
    else match x.backlog with
      | [] => s
      | r :: rest =>
        let used := (s.fld d 0x4008 31 0 + 2 ^ 32 - s.fld d 0x4008 63 32) % 2 ^ 32
        if s.fld d 0x4000 47 0 = 0 || s.fld d 0x008 1 0 != 0 || used ≥ s.fqSize d then s
        else ((s.modDie d fun x => { x with backlog := rest }).writeEntry r).drainRecs d n

def State.drainFaults (s : State) (d : Nat) : State :=
  s.drainRecs d (2 * ((s.die d).backlog.length + (s.die d).waitRecs.length) + 1)

/-- A stopped unit's serial, once its record has one. -/
def takeSerial (n : Nat) (o : Option Nat) : Option Nat := if o == some 0 then some n else o

/-- A unit that waits for a record's reply takes its serial. -/
def Lane.serial (n : Nat) (l : Lane) : Lane := if l.psv && l.pserial == 0 then { l with pserial := BitVec.ofNat 32 n } else l
def Team.serial (m : Lanes) (n : Nat) (t : Team) : Team :=
  { t with lanes := t.lanes.mapIdx fun i l => if m.getLsbD i then l.serial n else l }
def Chan.serial (n : Nat) (c : Chan) : Chan := { c with queue := c.queue.map fun y => { y with stopped := takeSerial n y.stopped } }

/-- The same of a unit that stands aside since the force cycle: a trap that takes effect in it has its record in the image (R431). -/
def Section.serial (r : Rec) (x : Section) : Section := match r.unit with
  | .lanes t m => { x with teams := updIf x.teams (·.ref == t) (Team.serial m r.serial) }
  | .chan d c i => { x with chans := updIf x.chans (fun k => k.die == d && k.core == c && k.ix == i) (Chan.serial r.serial) }
  | .send id => { x with entries2 := updIf x.entries2 (·.id == id) fun y => { y with stopped := takeSerial r.serial y.stopped } }
  | _ => x

/-- The units that wait for a record's reply take its serial. -/
def State.serialUnit (s : State) (r : Rec) : State :=
  let n := r.serial
  let s := { s with sections := updIf s.sections (·.image == heldMark r.ctx) (Section.serial r) }
  match r.unit with
  | .none | .plan _ => s
  | .lanes t m => s.modLanes t m fun _ l => l.serial n
  | .chan d c i => s.modChan d c i (Chan.serial n)
  | .engine d e =>
    { s with engines := updIf s.engines (fun x => x.die == d && x.ix / 2 == e / 2) fun x =>
        { x with run := x.run.map fun y => { y with stopped := takeSerial n y.stopped } } }
  | .send id => s.modEntry id fun y => { y with stopped := takeSerial n y.stopped }

/-- Give a record the die's next serial and queue it. -/
def State.queueRec (s : State) (r : Rec) : State :=
  let d := r.die
  let c := s.fld d 0x4010 29 0 % (2 ^ 30 - 1) + 1
  let r := { r with serial := d * 2 ^ 30 + c }
  let s := (s.setFld d 0x4010 29 0 c).serialUnit r
  let s := { s with svc := { s.svc with events := s.svc.events ++ [SvcEvent.fault r.serial r.kind d s.clock] } }
  s.modDie d fun x => { x with open_ := x.open_ ++ [(r.serial, r.ctx, r.unit)]
                               waitRecs := x.waitRecs ++ [r] }

/-- FAULT_RECORD_WRITE (R425): the records of a cycle are queued in order, and written as the ring takes them. -/
def faultRecordWrite (d : Nat) (s : State) : State :=
  let rs := sortBy (fun (r : Rec) => r.key) (s.die d).newRecs
  let s := s.modDie d fun x => { x with newRecs := [] }
  (rs.foldl State.queueRec s).drainFaults d

/-- FQBASE_WRITE (R424): the backlog drains into the ring. An address that is not 4 KiB aligned loses its low bits: the spec says what
neither FQBASE nor the queues' registers do with one, DESIGN CHOICE (log entry 99). -/
def fqbaseWrite (d : Nat) (v : W64) (s : State) : State :=
  (s.setReg d 0x4000 (BitVec.ofNat 64 (bits v.toNat 47 12 * 4096 + bits v.toNat 51 48 * 2 ^ 48))).drainFaults d

/-- FQTAIL_WRITE. -/
def fqtailWrite (d : Nat) (v : W64) (s : State) : State :=
  (s.setFld d 0x4008 63 32 (bits v.toNat 63 32)).drainFaults d

/-- Cycles that units wait to write their records are counted (R425). -/
def State.countWaiting (s : State) : State :=
  (List.range 4).foldl (fun s d => if (s.die d).waitRecs.isEmpty then s else s.bump d 0x4018 31 0) s

def execFaultRecordWrite (s : State) : Host.Outcome State Fault Refusal :=
  match s.ev with
  | some (.faultRecordWrite d) => if d < 4 then .next (faultRecordWrite d { s with ev := none }) else .fault .noUnit
  | _ => .fault .noEvent
def execFqbaseWrite (s : State) : Host.Outcome State Fault Refusal :=
  match s.ev with
  | some (.fqbaseWrite d v) => if d < 4 then .next (fqbaseWrite d v { s with ev := none }) else .fault .noUnit
  | _ => .fault .noEvent
def execFqtailWrite (s : State) : Host.Outcome State Fault Refusal :=
  match s.ev with
  | some (.fqtailWrite d v) => if d < 4 then .next (fqtailWrite d v { s with ev := none }) else .fault .noUnit
  | _ => .fault .noEvent

/-! ### Replies (R426, R427) -/

/-- Lanes of a team whose park or system-call serial is the record's. -/
def Team.held (t : Team) (serial : W32) : Lanes := t.lanesIn fun l => l.psv && l.pserial == serial

/-- Teams of a context with such lanes. -/
def State.heldTeams (s : State) (ctx : Nat) (serial : W32) : List Team :=
  s.teams.filter fun t => t.grp.ctx % 4096 == ctx && t.held serial != 0

/-- D of the `sysc` at a lane's PC receives the reply's value. -/
def State.syscResult (s : State) (tm : Team) (l : Lane) (value : Nat) : Lane :=
  match splitWord (s.wordAt tm l.pc) with
  | some v => writeG v.d 1 value l
  | none => l

/-- A lane of a system call is Runnable past it, with the result. -/
def State.syscReturn (s : State) (tm : Team) (value : Nat) (serial : W32) (stamp : Nat) (l : Lane) : Lane :=
  { (s.syscResult tm l value).acquire stamp with
    pc := nextPc l.pc, st := .runnable, wait := .none, win := [], psv := false, pserial := 0, fserial := serial, wakeAt := none
    hold := max l.hold (s.clock + 1) }

/-- Lanes of a record: those parked, and those waiting in `sysc`. -/
def Team.parkedOf (t : Team) (serial : W32) : Lanes := pick (t.held serial) fun l => (t.lane l).st == .parked
def Team.syscOf (t : Team) (serial : W32) : Lanes := pick (t.held serial) fun l => (t.lane l).st == .op

/-- RESUME of a team's lanes. -/
def State.replyResume (s : State) (serial : W32) (value stamp : Nat) (t : Team) : State :=
  let s := s.lanesDrop t.ref.die (t.held serial) 6
  let s := s.modLanes t.ref (t.syscOf serial) fun _ l => s.syscReturn t value serial stamp l
  let m := t.parkedOf serial
  let s := s.modLanes t.ref m fun _ l => { l with fserial := serial }
  (s.unparkLanes t.ref m stamp).modGroup t.grp fun g => { g with stopped := false }

/-- KEEP: parked lanes stay so, with their recorded waits, and those of a `sysc` park there; neither has a serial. -/
def State.replyKeep (s : State) (serial : W32) (t : Team) : State :=
  let clear (l : Lane) : Lane := { l with st := .parked, psv := false, pserial := 0, wakeAt := none }
  (s.modLanes t.ref (t.syscOf serial) fun _ l => { clear l with wait := .none }).modLanes t.ref (t.parkedOf serial) fun _ l => clear l

/-- Every non-exited lane of a team parks under the serial. -/
def State.parkTeam (s : State) (serial : W32) (t : TeamRef) : State := s.parkLanes t (BitVec.allOnes 32) (some serial)

/-- Park the teams of the groups that satisfy `p`, and stop the groups. -/
def State.parkGroups (s : State) (serial : W32) (p : Group → Bool) : State :=
  let gs := s.groups.filter p
  let ts := s.teams.filter fun t => gs.any fun g => g.ref == t.grp
  gs.foldl (fun s g => s.modGroup g.ref fun x => { x with stopped := true }) (ts.foldl (fun s t => s.parkTeam serial t.ref) s)

/-- FDOM `f` covers a stage: equal, or domain 0, the whole context (R20). -/
def State.stopDomain (s : State) (serial : W32) (ctx f : Nat) : State :=
  let hit (st : Stage) : Bool := f == 0 || st.fdom == f
  let s := s.parkGroups serial fun g => g.ref.ctx % 4096 == ctx && hit (s.stageOf g)
  { s with plans := s.plans.map fun p => if p.ctx % 4096 == ctx then
      { p with stages := p.stages.map fun st => if hit st then { st with stopped := true } else st } else p }

/-- ESCALATION_STOP (R426): the STOP word of the fault-reply area, and the interrupt of the queue that resumed the context. -/
def State.stopWord (s : State) (ctx serial level : Nat) : State :=
  match s.ctxs.find? fun c => c.id % 4096 == ctx with
  | none => s
  | some c =>
    (s.recWrite c.coord c.walkfmt c.ptroot (c.frarea + 8) 8 (serial + level * 2 ^ 32)).interrupt ⟨c.coord, c.queue⟩

/-- The fault domains that a record's units belong to. -/
def State.domainsOf (s : State) (serial : W32) (ctx : Nat) (unit : Option RecUnit) : List Nat :=
  ((s.heldTeams ctx serial).map fun t => (s.stageOf (s.groupOf t.grp)).fdom) ++
  (match unit with
   | some (.plan rcb) => (s.plans.filter fun p => p.ctx % 4096 == ctx && p.rcb == rcb).flatMap fun p => p.stages.map (·.fdom)
   | _ => [])

/-- Units other than lanes that a serial stops: each is retried or abandoned. -/
def State.replyUnits (s : State) (ctx serial : Nat) (retry : Bool) : State :=
  let cs := s.chans.filter fun c => c.queue.any fun x => x.stopped == some serial && x.grp.ctx % 4096 == ctx
  let es := s.engines.filter fun e => match e.run with
    | some r => r.stopped == some serial && r.job.grp.ctx % 4096 == ctx && r.engines.headD 0 == e.ix % 2
    | none => false
  let xs := s.fab.entries.filter fun e => e.stopped == some serial && e.grp.ctx % 4096 == ctx
  let s := cs.foldl (fun s c => s.chanReply c.die c.core c.ix retry) s
  let s := es.foldl (fun s e => s.engineReply e.die e.ix retry) s
  xs.foldl (fun s e => s.sendReply e.id retry) s

/-- Some unit of the context holds the serial. -/
def State.holdsSerial (s : State) (ctx serial : Nat) : Bool :=
  !(s.heldTeams ctx (BitVec.ofNat 32 serial)).isEmpty ||
  (s.chans.any fun c => c.queue.any fun x => x.stopped == some serial && x.grp.ctx % 4096 == ctx) ||
  (s.engines.any fun e => match e.run with
    | some r => r.stopped == some serial && r.job.grp.ctx % 4096 == ctx
    | none => false) ||
  s.fab.entries.any fun e => e.stopped == some serial && e.grp.ctx % 4096 == ctx

/-- A serial's record leaves the list of those not answered. -/
def State.answered (s : State) (serial : Nat) : State :=
  { s with dies := s.dies.map fun x => { x with open_ := x.open_.filter (·.1 != serial) } }

/-- REPLY_APPLY (R426, R427, Table 14-4): `d` is the die that counts a stale reply, `stamp` the reply's release. -/
def State.applyReply (s : State) (d ctx serial action value stamp : Nat) : State :=
  let unit := (s.dies.findSome? fun x => x.open_.find? fun o => o.1 == serial && o.2.1 % 4096 == ctx).map (·.2.2)
  let ser := BitVec.ofNat 32 serial
  let plain := match unit with
    | some (.plan _) => true
    | _ => false
  if serial = 0 || !(s.holdsSerial ctx serial || plain) then s.bump d 0x4018 63 32
  else
    let ts := s.heldTeams ctx ser
    let doms := s.domainsOf ser ctx unit
    let s := (s.answered serial).replyUnits ctx serial (action == 0)
    let sysc (s : State) := ts.foldl (fun s t =>
      (s.lanesDrop t.ref.die (t.syscOf ser) 6).modLanes t.ref (t.syscOf ser) fun _ l => s.syscReturn t value ser stamp l) s
    let unitOnly := ts.isEmpty && !plain
    match action with
    | 0 => ts.foldl (fun s t => s.replyResume ser value stamp t) s
    | 1 => ts.foldl (fun s t =>
        ((s.lanesDrop t.ref.die (t.held ser) 6).modLanes t.ref (t.held ser) fun _ l => l.acquire stamp).exitLanes t.ref (t.held ser) (t.lane (lowest (t.held ser))).pc) s
    | 2 => ts.foldl (fun s t => s.replyKeep ser t) s
    | 3 => ts.foldl (fun s t => s.parkTeam ser t.ref) (sysc s)
    | 4 => (sysc s).parkGroups ser fun g => ts.any fun t => t.grp == g.ref
    | 5 => (if unitOnly then s else doms.dedup.foldl (fun s f => s.stopDomain ser ctx f) (sysc s)).stopWord ctx serial 5
    | 6 => (if unitOnly then s else (sysc s).stopDomain ser ctx 0).stopWord ctx serial 6
    | _ => s

/-! ### Replies to a context that has left (R428) -/

/-- CAP and COUNT of a departed context's fault-reply area; none where it does not translate. -/
def State.replyArea (s : State) (d : Nat) (x : Departed) : Option (Nat × Nat) × State :=
  match s.recWords d x.fmt x.root x.area 1 with
  | (.ok (w :: _), s) => (some (bits w.toNat 31 0, bits w.toNat 63 32), s)
  | (_, s) => (none, s)

/-- One reply of the context has been answered: its entries leave the departed tables at the last. -/
def State.departedAnswer (s : State) (ctx serial : Nat) : State :=
  let open_ := s.dies.any fun x => x.open_.any fun o => o.1 == serial && o.2.1 % 4096 == ctx
  if !open_ then s else
  let s := s.answered serial
  { s with dies := s.dies.map fun x => { x with
      departed := (updIf x.departed (fun e => e.ctx % 4096 == ctx) fun e => { e with left := e.left - 1 }).filter (·.left > 0) } }

/-- Append a reply to a departed context's area; none where the area is full or does not translate. -/
def State.appendReply (s : State) (d : Nat) (x : Departed) (q : List W32) : Option State :=
  match s.replyArea d x with
  | (some (cap, n), s) =>
    if n ≥ cap then none else
    let at_ := x.area + 0x40 + 16 * n
    match (s.recAddr d x.fmt x.root at_).1 with
    | .error _ => none
    | .ok _ =>
      let w (i : Nat) : Nat := (q.getD i 0).toNat
      let s := s.recWrite d x.fmt x.root at_ 8 (w 0 + w 1 * 2 ^ 32)
      let s := s.recWrite d x.fmt x.root (at_ + 8) 8 (w 2)
      some (s.recWrite d x.fmt x.root (x.area + 4) 4 (n + 1))
  | (none, _) => none

/-- Where a reply to a context goes: applied now, kept for its image or its restore, or written to its area; none where the
thread waits. -/
def State.sendReplyTo (s : State) (d : Nat) (q : List W32) (stamp : Nat) : Option State :=
  let w (i : Nat) : Nat := (q.getD i 0).toNat
  let serial := w 0
  let ctx := w 1 % 4096
  let action := bits (w 1) 15 12
  match s.ctxs.find? fun c => c.id % 4096 == ctx with
  | some c =>
    let held := match c.phase with
      | .running | .draining _ => false
      | .forcing f => f ≤ s.clock
      | .checked | .restoring _ | .stopped => true
    if held then some (s.modCtx c.id fun c => { c with replies := c.replies ++ [(q.take 3, stamp)] })
    else some (s.applyReply d ctx serial action (w 2) stamp)
  | none =>
    match s.dies.findSome? fun y => y.departed.find? fun e => e.ctx % 4096 == ctx with
    | some e => (s.appendReply d e q).map fun s => s.departedAnswer ctx serial
    | none => some (s.applyReply d ctx serial action (w 2) stamp)

/-- The registers of a reply quad. -/
def replyWords (v : Nat) : List W32 := (List.range 4).map fun i => BitVec.ofNat 32 (v / 2 ^ (32 * i))

/-- `rte` (R437). -/
def rteBody (x : Env) (s : State) : Res :=
  let v := x.a0 128
  let q := replyWords v
  if bits (q.getD 1 0).toNat 15 12 ≥ 7 then x.trapAll 0x24 4 (q.getD 1 0).toNat s
  else
    let (st, s) := x.release0 s
    match s.sendReplyTo x.t.die q st with
    | some s => .ok s 4
    | none => x.waitAll (.reply v st) s

def execRte (h : Hdr) (o : RegForm) (s : State) : Host.Outcome State Fault Refusal :=
  issueWord (o.view 15 56 h) rteBody s

/-- Teams with lanes in a wait that `f` knows, the lanes of one wait together. -/
def State.waiting {α : Type} [DecidableEq α] (s : State) (f : Wait → Option α) : List (TeamRef × α × Lanes) :=
  (s.lanesWhere fun _ l => l.st == .op && (f l.wait).isSome).flatMap fun x =>
    ((lanesOf x.2).filterMap fun l => f (s.lane x.1 l).wait).dedup.map fun a => (x.1, a, pick x.2 fun l => f (s.lane x.1 l).wait == some a)

/-- Replies that wait are sent where they can be now, and their `rte` complete (R423, R428, R437). -/
def State.retryReplies (s : State) : State :=
  (s.waiting fun w => match w with
    | .reply q st => some (q, st)
    | _ => none).foldl (fun s x =>
      match s.sendReplyTo x.1.die (replyWords x.2.1.1) x.2.1.2 with
      | some s => s.passLanes x.1 x.2.2 0
      | none => s) s

/-! ### trap, brk, sysc, wdkick (R435, R436) -/

/-- Release of every lane of E, then the trap. -/
def Env.relTrap (x : Env) (kind d1 : Nat) (s : State) : Res :=
  .all (s.releaseLanes x.t x.e).2 x (.trap (.simple kind x.v.imm d1))

def execTrap (h : Hdr) (o : ImmForm) (s : State) : Host.Outcome State Fault Refusal :=
  issueWord (o.view 15 0 h) (fun x s => x.relTrap 0x21 0 s) s
def execBrk (h : Hdr) (o : ImmForm) (s : State) : Host.Outcome State Fault Refusal :=
  issueWord (o.view 15 1 h) (fun x s => x.relTrap 0x22 0 s) s
def execSysc (h : Hdr) (o : ImmForm) (s : State) : Host.Outcome State Fault Refusal :=
  issueWord (o.view 15 2 h) (fun x s => x.relTrap 0x23 (x.a0 64) s) s

/-- `wdkick`: the watchdog count is 0 (R147). -/
def wdkickBody (x : Env) (s : State) : Res := .ok (s.modTeam x.t fun t => { t with wdc := 0, wdzero := true }) 0

def execWdkick (h : Hdr) (o : RegForm) (s : State) : Host.Outcome State Fault Refusal :=
  issueWord (o.view 15 3 h) wdkickBody s

/-! ### The window, park and unpark (R438, R439) -/

def Env.winTrap (x : Env) (detail d1 : Nat) (s : State) : Res := x.trapAll 0x24 detail d1 s

/-- With the team that TGT names, or window-state detail 1. -/
def Env.onTarget (x : Env) (s : State) (f : Team → Res) : Res :=
  let tgt := x.a0 32
  match s.target x.t.die tgt with
  | none => x.winTrap 1 tgt s
  | some tm => f tm

def rdwinBody (x : Env) (s : State) : Res :=
  x.onTarget s fun tm =>
    match s.winItem tm (x.b0 32) with
    | none => x.winTrap 2 (x.b0 32) s
    | some v => .ok (x.putOne s x.v.d 2 v 4) 4

def execRdwin (h : Hdr) (o : RegForm) (s : State) : Host.Outcome State Fault Refusal :=
  issueWord (o.view 15 57 h) rdwinBody s

def wrwinBody (x : Env) (s : State) : Res :=
  x.onTarget s fun tm =>
    let ix := x.b0 32
    let v := x.dsrc x.l0 64
    match s.winBad tm ix v with
    | 0 => .ok { s with parks := s.parks ++ [.put tm.ref ix v] } 0
    | d => x.winTrap d (if d = 4 then v else ix) s

def execWrwin (h : Hdr) (o : RegForm) (s : State) : Host.Outcome State Fault Refusal :=
  issueWord (o.view 15 58 h) wrwinBody s

def parkBody (x : Env) (s : State) : Res :=
  x.onTarget s fun tm => .ok { s with parks := s.parks ++ [.park tm.ref (BitVec.ofNat 32 (x.b0 32))] } 0

def execPark (h : Hdr) (o : RegForm) (s : State) : Host.Outcome State Fault Refusal :=
  issueWord (o.view 15 59 h) parkBody s

def unparkBody (x : Env) (s : State) : Res :=
  x.onTarget s fun tm =>
    let (st, s) := x.release0 s
    .ok { s with parks := s.parks ++ [.unpark tm.ref (BitVec.ofNat 32 (x.b0 32)) st] } 0

def execUnpark (h : Hdr) (o : RegForm) (s : State) : Host.Outcome State Fault Refusal :=
  issueWord (o.view 15 60 h) unparkBody s

/-! ### csave and crest (R440) -/

/-- Checks 2, 6 and, for a read, 8 on `n` bytes at a physical address: the failing check with its address. -/
def State.bodyCheck (s : State) (a n : Nat) (read : Bool) : Option (Nat × Nat) :=
  if a % 64 != 0 then some (2, a)
  else (List.range ((n + 31) / 32)).findSome? fun i =>
    match s.backing true 7 3 (a + 32 * i) (a + 32 * i) with
    | .error e => some e
    | .ok (.mem pa) => if read && s.sectorError pa == some true then some (8, pa) else none
    | .ok _ => none

/-- The sectors of a body, and of `bs` over them: addresses with what belongs there. -/
def bodySectors (a : Nat) (bs : List Byte) : List (Nat × List Byte) :=
  (List.range ((bs.length + 31) / 32)).map fun i => (a + 32 * i, (bs.drop (32 * i)).take 32)

/-- Write a body, each sector where it lies: memory, a peer's, or device registers 64 bits at a time (R224, R440). -/
def State.bodyPut (s : State) (d a : Nat) (bs : List Byte) : State :=
  (bodySectors a bs).foldl (fun s (pa, xs) => match s.backing true 7 0 pa pa with
    | .ok (.dev pa) => (List.range (xs.length / 8)).foldl (fun s k => s.devWrite (pa + 8 * k) 8 (bodyWord xs (8 * k))) s
    | _ => s.physPut d pa xs) s

/-- Read a body in the same way. -/
def State.bodyGet (s : State) (a n : Nat) : List Byte × State :=
  (bodySectors a (List.replicate n 0)).foldl (fun (bs, s) (pa, xs) => match s.backing true 7 0 pa pa with
    | .ok (.dev pa) => (List.range (xs.length / 8)).foldl (fun (bs, s) k =>
        let (v, s) := s.devRead (pa + 8 * k) 8; (bs ++ leBytes 8 v, s)) (bs, s)
    | .ok p => let (ys, s) := s.placeBytes p xs.length; (bs ++ ys, s)
    | .error _ => (bs ++ xs, s)) ([], s)

/-- Latency of the lines of a body, which go through the caches one by one. -/
def State.bodyLines (s : State) (d a n : Nat) (write : Bool) : Nat × State :=
  (List.range ((n + 127) / 128)).foldl (fun (x : Nat × State) i =>
    let (l, s) := if write then x.2.storeLine d (a + 128 * i) 0 0 else x.2.loadLine d (a + 128 * i) 0 0
    (max x.1 l, s)) (0, s)

def csaveBody (x : Env) (s : State) : Res :=
  x.onTarget s fun tm =>
    let a := x.b0 64 % 2 ^ 48
    let n := teamBodyBytes (s.regsOf tm)
    if tm.lanes.any fun l => l.st == .runnable then x.winTrap 3 a s
    else match s.bodyCheck a n false with
      | some (c, at_) => x.trapAll (checkKind c) 0 at_ s
      | none =>
        let (lat, s) := s.bodyLines x.t.die a n true
        .ok (s.bodyPut x.t.die a (tm.image (s.regsOf tm) s.clock)) lat

def execCsave (h : Hdr) (o : RegForm) (s : State) : Host.Outcome State Fault Refusal :=
  issueWord (o.view 15 61 h) csaveBody s

/-- A team read back: a lane recorded Runnable comes back Parked, and an exited lane stays exited. -/
def Team.crest (tm : Team) (bs : List Byte) (clock : Nat) : Team :=
  let y := teamOfBody bs clock tm
  { y with lanes := y.lanes.zipIdx.map fun (l, i) =>
      if (tm.lane i).st == .exited then tm.lane i
      else if l.st == .runnable && bits (bodyWord bs (0x180 + laneBlock (bits (bodyWord bs 0) 15 8) * i)) 50 48 == 0 then
        { l with st := .parked }
      else l }

/-- `crest`. A body whose reserved bits are not zero fails it as one of another REGS does (log entry 107). -/
def crestBody (x : Env) (s : State) : Res :=
  x.onTarget s fun tm =>
    let a := x.b0 64 % 2 ^ 48
    let regs := s.regsOf tm
    let n := teamBodyBytes regs
    if !(tm.lanes.all fun l => l.st == .parked || l.st == .exited) then x.winTrap 3 a s
    else match s.bodyCheck a n true with
      | some (c, at_) => x.trapAll (checkKind c) 0 at_ s
      | none =>
        let (lat, s) := s.bodyLines x.t.die a n false
        let (bs, s) := s.bodyGet a n
        if bits (bodyWord bs 0) 15 8 != regs || !teamBodyOk bs then x.winTrap 3 a s
        else
          let y := tm.crest bs s.clock
          let gone := pick (y.lanesIn fun l => l.st == .exited) fun l => (tm.lane l).st != .exited
          let s := s.modTeam tm.ref fun _ => y
          let s := if gone = 0 then s else s.exitLanes tm.ref gone (y.lane (lowest gone)).pc
          .ok ((List.range 32).foldl (fun s l => if (y.lane l).st == .op then s.rewait tm.ref l else s) s) lat

def execCrest (h : Hdr) (o : RegForm) (s : State) : Host.Outcome State Fault Refusal :=
  issueWord (o.view 15 62 h) crestBody s

/-! ### halt (R441) -/

/-- The events pending at a die's firmware core. -/
def State.pendingEvents (s : State) (d : Nat) : Nat :=
  (s.fld d 0x4008 31 0 != s.fld d 0x4008 63 32).toNat + 2 * (s.fld d 0x930 31 0 != s.fld d 0x930 63 32).toNat +
  4 * (!(s.die d).fifo.isEmpty).toNat + 8 * ((s.die d).events.testBit 3).toNat

/-- The stamp of the writes that raised some events, which a `halt` acquires: that of the newest fault-queue entry, and C(d) at the others. -/
def State.eventStamp (s : State) (d p : Nat) : Nat :=
  let a := s.fld d 0x4000 47 0 + 128 * ((s.fld d 0x4008 31 0 + 2 ^ 32 - 1) % 2 ^ 32 % s.fqSize d)
  let fq := if p.testBit 0 then (s.relsAt (.mem a) 8).foldl (fun m r => max m r.stamp) 0 else 0
  ([0, 1, 2].filter fun k => p.testBit (k + 1)).foldl (fun m k => max m ((s.die d).raised.getD k 0)) fq

/-- Events are taken by a `halt`: a fence event ends so. -/
def State.takeEvents (s : State) (d p : Nat) : State :=
  s.modDie d fun y => if p.testBit 3 then { y with events := setBits y.events 3 3 0 } else y

/-- `halt`: the pending events of the mask go to D; a fence event is then taken. -/
def haltBody (x : Env) (s : State) : Res :=
  let m := x.v.imm
  let p := s.pendingEvents x.t.die &&& m
  if p = 0 then x.waitAll (.halt m x.v.d) s
  else
    let st := s.eventStamp x.t.die p
    let s := (s.takeEvents x.t.die p).modLanes x.t x.e fun _ l => l.acquire st
    .ok (x.putOne s x.v.d 1 p 4) 4

def execHalt (h : Hdr) (o : ImmForm) (s : State) : Host.Outcome State Fault Refusal :=
  issueWord (o.view 15 63 h) haltBody s

/-- A `halt` whose lanes wait completes once an event of its mask is pending (R423). -/
def State.wakeHalts (s : State) : State :=
  (s.waiting fun w => match w with
    | .halt m d => some (m, d)
    | _ => none).foldl (fun s x =>
      let (t, (m, o), ls) := x
      let p := s.pendingEvents t.die &&& m
      if p = 0 then s else
      let s := match o with
        | .k _ _ n => s.writeK t ls (s.lane t (lowest ls)).pc n.toNat 1 p 0
        | _ => s.modLanes t ls fun _ l => writeG o 1 p l
      (s.takeEvents t.die p).passLanes t ls (s.eventStamp t.die p)) s

end Sys2Proof.Machine
end

