-- ==== Sys2Proof/Machine/Image.lean ====
section
/-! DEFINITION. The records of a context as Headwater reads and checks them: control blocks, plan and launch records, launch blocks,
collective records and images (R12 to R33, R45 to R47, R367, R404, R479). -/

namespace Sys2Proof.Machine

/-! ### CRC-32 of IEEE 802.3 -/

def crcBit (c : W32) : W32 := if c.getLsbD 0 then (c >>> 1) ^^^ 0xEDB88320#32 else c >>> 1
def crcByte (c : W32) (b : Byte) : W32 :=
  let x := c ^^^ b.setWidth 32
  crcBit (crcBit (crcBit (crcBit (crcBit (crcBit (crcBit (crcBit x)))))))
def crc32 (bs : List Byte) : W32 := ~~~(bs.foldl crcByte 0xFFFFFFFF#32)

/-! ### Reading -/

/-- `e` unless the condition holds. -/
def need (b : Bool) (e : Nat) : Except Nat Unit := if b then .ok () else .error e

/-- Words of a record of the context; `e` where they cannot be read (R479). The reads leave the caches out (log entry 10). -/
def State.words (s : State) (c : Ctx) (va n e : Nat) : Except Nat (List W64) :=
  match (s.recWords c.coord c.walkfmt c.ptroot (va % 2 ^ 48) n).1 with
  | .ok w => .ok w
  | .error _ => .error e

def State.rbytes (s : State) (c : Ctx) (va n e : Nat) : Except Nat (List Byte) :=
  match (s.recBytes c.coord c.walkfmt c.ptroot (va % 2 ^ 48) n).1 with
  | .ok w => .ok w
  | .error _ => .error e

/-- Bytes by physical address, as Headwater reads streams and images (R51): none where unbacked or in error. They come sector by sector,
so that a range may run from one kind of memory into another. -/
def State.physBytes (s : State) (pa n : Nat) : Option (List Byte) :=
  let starts := (List.range ((n + pa % 32 + 31) / 32)).map fun i => if i = 0 then pa else pa / 32 * 32 + 32 * i
  if pa + n ≤ hbmBytes then (if starts.all fun a => s.sectorError a != some true then some (s.memBytes pa n) else none)
  else (starts.mapM fun a => match (s.physGet a (min (32 - a % 32) (pa + n - a))).1 with
    | .ok bs => some bs
    | .error _ => none).map List.flatten

/-- Reserved bits of a record are zero: word `i` has bits only in its mask. -/
def within (w : List W64) (masks : List Nat) : Bool := masks.zipIdx.all fun (m, i) => wd w i &&& (m64 ^^^ m) == 0

def f47 : Nat := 2 ^ 48 - 1

/-! ### Region control blocks (R14 to R17, Table 1-1) -/

def rcbType (w : List W64) : Nat := bits (wd w 0) 63 56
def rcbKind (w : List W64) : Nat := bits (wd w 0) 55 54
def rcbOvr (w : List W64) (n : Nat) : Bool := (wd w 0).testBit (19 + n)
def rcbParent (w : List W64) : Nat := bits (wd w 1) 47 0
def rcbBody (w : List W64) : Nat := bits (wd w 2) 47 0

/-- The thirteen fields with an OVR bit, in its order. -/
def rcbFields (w : List W64) : List Nat :=
  [bits (wd w 0) 53 51, bits (wd w 0) 50 35, min 508 (bits (wd w 3) 63 54), bits (wd w 3) 53 36, bits (wd w 3) 35 20,
   min 256 (bits (wd w 3) 19 11), bits (wd w 4) 63 48, bits (wd w 4) 47 32, bits (wd w 4) 31 16, bits (wd w 4) 15 0,
   bits (wd w 5) 63 56, bits (wd w 5) 55 51, bits (wd w 5) 50 35]

/-- Table 1-2. -/
def effDefault : List Nat := [3, 0, 508, 194056, 16256, 256, 0xFFFF, 0xFFFF, 0xFFFF, 0xFFFF, 32, 24, 300]

/-- Ranges of fields in use (R14). -/
def rcbRanges (w : List W64) : Bool :=
  (!rcbOvr w 2 || bits (wd w 3) 63 54 ≤ 508) && (!rcbOvr w 5 || bits (wd w 3) 19 11 ≤ 256) &&
  (!rcbOvr w 11 || 10 ≤ bits (wd w 5) 55 51) && (!rcbOvr w 12 || 1 ≤ bits (wd w 5) 50 35)

/-- A block of the kind (0 context, 1 plan, 2 stage) at an address is well formed, its parent's kind apart. -/
def rcbOk (w : List W64) (kind va : Nat) : Bool :=
  let ctx := kind == 0
  rcbType w == 1 && rcbKind w == kind && va % 128 == 0 && rcbRanges w &&
  within w [m64 - fieldMask 18 0, f47, f47, fieldMask 63 11, m64, fieldMask 63 35, fieldMask 12 0 + fieldMask 16 16, 0,
    if ctx then fieldMask 53 0 else 0, if ctx then fieldMask 59 0 else 0, if ctx then f47 else 0, if ctx then f47 else 0, 0, 0, 0, 0] &&
  (!ctx || (rcbParent w == 0 && rcbBody w == 0 && bits (wd w 0) 34 32 == 0 && bits (wd w 8) 51 48 ≤ 1))

/-- Effective values of a node under its parent's, with the fields clamped (R16, R17). -/
def effUnder (parent : List Nat) (w : List W64) : List Nat × Nat :=
  (((rcbFields w).zip parent).zipIdx.map fun ((own, up), i) =>
      if !rcbOvr w i then up else if i = 0 || (2 ≤ i && i ≤ 9) then min own up else own,
   (((rcbFields w).zip parent).zipIdx.map fun ((own, up), i) =>
      if rcbOvr w i && 2 ≤ i && i ≤ 9 && own > up then 2 ^ i else 0).sum)

/-- Effective values of a context. -/
def effRoot (w : List W64) : List Nat :=
  ((rcbFields w).zip effDefault).zipIdx.map fun ((own, d), i) => if rcbOvr w i then own else d

def effPrio (e : List Nat) : Nat := e.getD 0 0
def effFdom (e : List Nat) : Nat := e.getD 1 0
def effCores (e : List Nat) : Nat := e.getD 2 0
def effScratch (e : List Nat) : Nat := e.getD 3 0
def effRegs (e : List Nat) : Nat := e.getD 4 0
def effMxeng (e : List Nat) : Nat := e.getD 5 0

/-! ### Stage launch blocks (R25, R26, Table 1-7) -/

def roleOf (w : List W64) (r : Nat) : Role :=
  let a := wd w (4 + 4 * r)
  let b := wd w (5 + 4 * r)
  { entry := BitVec.ofNat 48 a, roleId := bits a 55 48, regs := bits b 63 56, teams := bits b 55 52, groups := bits b 51 48,
    scratch := bits b 47 39 }

/-- Sums of a gang: teams, g registers, scratchpad KiB. -/
def gangNeed (rs : List Role) : Nat × Nat × Nat :=
  ((rs.map fun r => r.groups * r.teams).sum, (rs.map fun r => r.regs * 32 * r.teams * r.groups).sum,
   (rs.map fun r => r.groups * r.scratch).sum)

def slbOk (w : List W64) (va : Nat) : Bool :=
  let n := bits (wd w 0) 55 53
  let rs := (List.range n).map (roleOf w)
  let (t, g, k) := gangNeed rs
  bits (wd w 0) 63 56 == 3 && va % 32 == 0 && 1 ≤ n && n ≤ 4 && bits (wd w 1) 52 48 ≤ 16 &&
  within w [fieldMask 63 53, fieldMask 52 0, 0, 0] &&
  ((List.range n).all fun r => within (w.drop (4 + 4 * r)) [fieldMask 55 0, fieldMask 63 39, 0, 0]) &&
  (rs.all fun r => r.regs ≥ 1 && 1 ≤ r.teams && r.teams ≤ 8 && 1 ≤ r.groups && r.groups ≤ 8 && r.scratch ≤ 384 &&
    validAddr r.entry.toNat) &&
  t ≤ 32 && g ≤ 131072 && k ≤ 384

/-- A launch block with its arguments, or queue error 14. -/
def State.readSlb (s : State) (c : Ctx) (va : Nat) : Except Nat (List Role × List W64) := do
  let h ← s.words c va 4 14
  let rs ← (List.range (bits (wd h 0) 55 53)).mapM fun r => s.words c (va + 32 + 32 * r) 4 14
  let w := h ++ rs.flatten
  need (slbOk w va) 14
  let n := bits (wd w 1) 52 48
  let tab := bits (wd w 1) 47 0
  need (n == 0 || tab % 8 == 0) 14
  let args ← if n == 0 then .ok [] else s.words c tab n 14
  .ok ((List.range (bits (wd w 0) 55 53)).map (roleOf w), args)

/-! ### Plan records (R21 to R24, Tables 1-3 to 1-6) -/

/-- A stage at its entry state. -/
def stageInit (srcb init mn mx dies : Nat) (eff : List Nat) (roles : List Role) (args : List W64) : Stage :=
  { srcb := srcb, init := init, min := mn, max := mx, dies := dies, share := init, owned := [], roles := roles, args := args,
    waiting := [], serial := 0, open_ := true, root := some 0, stopped := false, fdom := effFdom eff, wdlog := eff.getD 11 24, rates := [],
    gotCore := false, live := 0 }

/-- Stage `i` of a plan record, its effective cores checked. A stage RCB whose PARENT is another plan's is malformed here: the spec does
not say how a stage that two plan records list is treated, DESIGN CHOICE (log entry 100). -/
def State.readStage (s : State) (c : Ctx) (planRcb : Nat) (eff : List Nat) (body i : Nat) : Except Nat Stage := do
  let w ← s.words c (body + 0x40 + 32 * i) 4 14
  let a := wd w 0
  let b := wd w 1
  need (within w [f47, fieldMask 63 30, 0, 0]) 14
  let srcb := bits a 47 0
  let r ← s.words c srcb 16 14
  need (rcbOk r 2 srcb && rcbParent r == planRcb) 14
  let e := (effUnder eff r).1
  let (init, mn, mx) := (bits b 63 54, bits b 53 44, bits b 43 34)
  need (1 ≤ mn && mn ≤ init && init ≤ mx && mx ≤ effCores e) 14
  let (roles, args) ← s.readSlb c (rcbBody r)
  .ok (stageInit srcb init mn mx (bits b 33 30) e roles args)

/-- Pipe `i` of a plan record. On the producer's device a pipe with CREM is its staging queue, whose home is that of the
producer stage's first claimed core (R300). -/
def State.readPipe (s : State) (c : Ctx) (planRcb ns blks body i : Nat) : Except Nat Pipe := do
  let w ← s.words c (body + 0x240 + 32 * i) 4 14
  let a := wd w 0
  let b := wd w 1
  need (within w [fieldMask 63 14, fieldMask 63 23, 0, 0]) 14
  let (depth, prod, cons, home) := (bits a 53 45, bits a 44 41, bits a 40 37, bits a 36 34)
  let (prem, crem) := (a.testBit 23, a.testBit 22)
  let path := bits b 63 48
  let (off, cap) := (bits b 47 32, bits b 31 23)
  need ((prem || prod < ns) && (crem || cons < ns) && !(prem && crem) && (prem || crem || prod != cons) &&
    1 ≤ depth && depth ≤ 256 && !(4 ≤ home && home ≤ 6) && cap ≤ 256) 14
  need (if path / 2 ^ 14 == 1 then path % 2 ^ 12 != 0 else path % 2 ^ 12 == 0) 14
  match (s.readSlot c.coord c.id (bits a 63 54)).1 with
  | .error _ => .error 14
  | .ok (r, l) =>
    let size := (tileBytes r l + 31) / 32 * 32
    need (65536 * off + cap * size ≤ 65536 * blks) 14
    let staging := if bits a 21 14 == 0 then min depth 255 else bits a 21 14
    .ok <| Pipe.start
        { ref := ⟨c.id, planRcb, i⟩, depth := depth, home := if home == 7 || crem then none else some home, slotSize := size,
          tslot := bits a 63 54, prod := prod, cons := cons, path := BitVec.ofNat 16 path, peer := bits a 33 24, prem := prem,
          crem := crem, staging := staging, spillOff := off, spillCap := cap,
          slots := [], ticket := 0, closed := false, spilled := [], queue := [], deferred := [], changes := [], m := 0, sent := 0, releases := 0,
          toSpill := 0, spillNext := 0, data := [], race := [] }

/-- A plan of the stages, at its entry state. -/
def planInit (ctx rcb body : Nat) (launch : Option Launch) (stages : List Stage) : Plan :=
  { ctx := ctx, rcb := rcb, body := body, launch := launch, stages := stages, npipes := 0, spill := 0, spillBlk := 0, wint := 16,
    whyst := 0, wdlk := 20, wfreeze := false, started := 0, samples := [], quiet := 0, declared := false, draining := false,
    spilling := false, retired := false, stamp := 0 }

/-- A plan record, checked under R22 and R367. A SPILLBASE that is not a multiple of 64 KiB is used as it stands: DESIGN CHOICE (log entry
118). -/
def State.readPlanRecord (s : State) (c : Ctx) (rcb : Nat) (eff : List Nat) (body : Nat) : Except Nat (Plan × List Pipe) := do
  need (body % 64 == 0) 14
  let w ← s.words c body 8 14
  let (ns, np) := (bits (wd w 0) 55 51, bits (wd w 0) 50 45)
  need (bits (wd w 0) 63 56 == 2 && within w [fieldMask 63 45, f47, fieldMask 31 0, fieldMask 63 49, 0, 0, 0, 0]) 14
  need (1 ≤ ns && ns ≤ 16 && np ≤ 32) 14
  let (wint, wdlk) := (bits (wd w 3) 63 59, bits (wd w 3) 54 50)
  need ((wint == 0 || (10 ≤ wint && wint ≤ 24)) && (wdlk == 0 || (16 ≤ wdlk && wdlk ≤ 24))) 14
  let stages ← (List.range ns).mapM fun i => s.readStage c rcb eff body i
  need ((stages.map (·.init)).sum ≤ effCores eff) 14
  let blks := bits (wd w 2) 31 0
  let pipes ← (List.range np).mapM fun i => s.readPipe c rcb ns blks body i
  need (graphOk ns pipes) 14
  .ok ({ planInit c.id rcb body none stages with
         npipes := np, spill := bits (wd w 1) 47 0, spillBlk := blks, wint := if wint == 0 then 16 else wint, whyst := bits (wd w 3) 58 55
         wdlk := if wdlk == 0 then 20 else wdlk, wfreeze := (wd w 3).testBit 49 }, pipes)

/-! ### Launch records and collectives (R29, R30, R404) -/

/-- Whether every rank reaches the one root of a tree. -/
def treeOk (t : List Nat) : Bool :=
  let n := t.length
  let up (r : Nat) : Nat := t.getD r 0xFFFF
  (t.filter (· == 0xFFFF)).length == 1 && t.all (fun p => p == 0xFFFF || p < n) &&
  (List.range n).all fun r => (List.range n).foldl (fun x _ => if up x == 0xFFFF then x else up x) r == rootOf t

def halves (bs : List Byte) : List Nat := (List.range (bs.length / 2)).map fun i => leVal ((bs.drop (2 * i)).take 2)

/-- The collective record of a launch (Table 13-3), or queue error 14. -/
def State.readColl (s : State) (c : Ctx) (id alt : Nat) : Except Nat Coll := do
  let phys (pa n : Nat) : Except Nat (List Byte) := match s.physBytes pa n with
    | some bs => .ok bs
    | none => .error 14
  let p ← phys (s.fld 0 0xE18 47 0 + 8 * id) 8
  let bs ← phys (leVal p) 64
  let w := (List.range 8).map fun i => BitVec.ofNat 64 (leVal ((bs.drop (8 * i)).take 8))
  let (op, n, rank, clog) := (bits (wd w 0) 55 53, bits (wd w 0) 52 43 + 1, bits (wd w 0) 42 33, bits (wd w 0) 32 28)
  need (bits (wd w 0) 63 56 == 7 && within w [fieldMask 63 24, f47, f47, fieldMask 31 0, 0, 0, 0, 0]) 14
  need (op ≤ 2 && n ≥ 2 && rank < n && 8 ≤ clog && clog ≤ 22) 14
  let ms ← phys (bits (wd w 1) 47 0) (2 * n)
  let tr ← phys (bits (wd w 2) 47 0) (2 * n)
  let al ← s.rbytes c alt (2 * n) 14
  need (treeOk (halves tr) && treeOk (halves al) && (halves ms).getD rank 0 == s.fab.devid) 14
  .ok { id := id, op := op, nmem := n, rank := rank, clog := clog, rwin := bits (wd w 0) 27 24, members := halves ms, tree := halves tr,
        alttree := halves al, tmous := bits (wd w 3) 31 0 }

/-- Chunk counters at RESUME (R405). -/
def chunksInit (ctx rcb : Nat) (k : Coll) (n : Nat) (map : List Nat) : List Chunk :=
  (List.range n).map fun c =>
    let l := (map.filter (· == c)).length
    { ctx := ctx, rcb := rcb, coll := k.id, c := c, counter := l + (childrenOf k.tree k.rank).length, fires := l, st := .gathering,
      failed := false, alt := false, held := false, zeroAt := none, busy := false, commit := false, redone := false, value := [],
      early := [], owed := [], stamp := 0, passed := [] }

/-- A launch record, with its one stage and its chunks. -/
def State.readLaunch (s : State) (c : Ctx) (rcb : Nat) (eff : List Nat) (body : Nat) : Except Nat (Plan × List Chunk) := do
  need (body % 128 == 0) 14
  let w ← s.words c body 16 14
  let coll := (wd w 0).testBit 55
  let nord := bits (wd w 0) 54 52
  let (gx, gy, gz) := (bits (wd w 2) 31 0, bits (wd w 2) 47 32, bits (wd w 2) 63 48)
  let (parg, ptlog, pnone) := (bits (wd w 3) 63 60, bits (wd w 3) 59 55, (wd w 3).testBit 54)
  let nchunk := bits (wd w 5) 63 48
  need (bits (wd w 0) 63 56 == 4 && within w [fieldMask 63 52, f47, m64, fieldMask 63 54, m64, m64, if coll then f47 else m64, 0]) 14
  need (gx ≥ 1 && gy ≥ 1 && gz ≥ 1 && gx * gy * gz ≤ 2 ^ 32 && nord ≤ 4 && (!coll || (c.collen && nchunk ≥ 1))) 14
  need ((List.range nord).all fun n => within (w.drop (8 + 2 * n)) [f47, fieldMask 39 0] &&
    wd w (8 + 2 * n) % 8 == 0 && wd w (9 + 2 * n) % 4 == 0) 14
  let (roles, args) ← s.readSlb c (bits (wd w 1) 47 0)
  need (pnone || (parg < args.length && 12 ≤ ptlog && ptlog ≤ 30)) 14
  let k ← if coll then (s.readColl c (bits (wd w 4) 63 48) (bits (wd w 6) 47 0)).map some else .ok none
  let map ← if coll then (s.rbytes c (bits (wd w 5) 47 0) (2 * (gx * gy * gz)) 14).map halves else .ok []
  let l : Launch :=
    { grid := (gx, gy, gz), parg := parg, ptlog := ptlog, pnone := pnone,
      targets := (List.range nord).map fun n => (wd w (8 + 2 * n), wd w (9 + 2 * n)), coll := k, resbase := bits (wd w 4) 47 0,
      nchunk := if coll then nchunk else 0, chunkmap := bits (wd w 5) 47 0, retired := [], placed := [], lost := none, over_ := false }
  let n := effCores eff
  .ok (planInit c.id rcb body (some l) [stageInit rcb n n n 0 eff roles args],
       match k with
       | some k => chunksInit c.id rcb k nchunk map
       | none => [])

/-- One plan of PLANLIST: its RCB names the context (else 9), and its records are well formed (else 14). -/
def State.readPlan (s : State) (c : Ctx) (rcb : Nat) : Except Nat (Plan × List Pipe × List Chunk) := do
  let w ← s.words c rcb 16 9
  let root ← s.words c c.rcb 16 9
  need (rcbType w == 1 && rcbKind w == 1 && rcbParent w == c.rcb) 9
  need (rcbOk w 1 rcb) 14
  let eff := (effUnder (effRoot root) w).1
  let b ← s.words c (rcbBody w) 1 14
  if bits (wd b 0) 63 56 == 4 then
    let (p, ks) ← s.readLaunch c rcb eff (rcbBody w)
    .ok (p, [], ks)
  else
    let (p, ps) ← s.readPlanRecord c rcb eff (rcbBody w)
    .ok (p, ps, [])

/-! ### Oagen images (R45 to R47, Tables 1-13 and 1-14) -/

structure Image where
  addr     : Nat
  ctxRcb   : Nat
  fresh    : Bool
  planlist : Nat
  nplans   : Nat
  sects    : List Sect
  /-- NSECT is in its range, and the reserved bits of header and table are zero -/
  sound    : Bool
  deriving DecidableEq, Repr, Inhabited

def sectOf (bs : List Byte) (i : Nat) : Sect :=
  let w (k : Nat) : Nat := leVal ((bs.drop (0x40 + 32 * i + 8 * k)).take 8)
  { stype := bits (w 0) 15 0, unit := bits (w 0) 31 16, off := bits (w 1) 47 0, len := bits (w 2) 47 0, crc := bits (w 3) 31 0 }

/-- Reserved bits of the header and of the section table. -/
def imageReserved (bs : List Byte) (n : Nat) : Bool :=
  let w (o : Nat) : Nat := leVal ((bs.drop o).take 8)
  bits (w 8) 63 48 == 0 && bits (w 0x10) 63 1 == 0 && bits (w 0x18) 63 32 == 0 && bits (w 0x20) 63 48 == 0 && bits (w 0x28) 63 16 == 0 &&
  w 0x30 == 0 && w 0x38 == 0 &&
  (List.range n).all fun i => bits (w (0x40 + 32 * i)) 63 32 == 0 && bits (w (0x48 + 32 * i)) 63 48 == 0 &&
    bits (w (0x50 + 32 * i)) 63 48 == 0 && bits (w (0x58 + 32 * i)) 63 32 == 0

/-- Read an image's header and section table, with the checks of step 1 of R67 on them: MAGIC, VERSION and HCRC. An address that is not a
multiple of 4 KiB fails them with 9: DESIGN CHOICE (log entry 120). -/
def State.readImage (s : State) (a : Nat) : Except Nat Image := do
  let phys (n : Nat) : Except Nat (List Byte) := match s.physBytes a n with
    | some bs => .ok bs
    | none => .error 9
  need (a % 4096 == 0) 9
  let h ← phys 0x40
  let n := bits (bodyWord h 0) 63 48
  need (bodyWord32 h 0 == 0x4E47414F && bits (bodyWord h 0) 47 32 == 1) 9
  let bs ← phys (0x40 + 32 * n)
  need ((crc32 (bs.take 0x18 ++ bs.drop 0x1C)).toNat == bodyWord32 bs 0x18) 9
  .ok { addr := a, ctxRcb := bits (bodyWord bs 8) 47 0, fresh := (bodyWord bs 0x10).testBit 0, planlist := bits (bodyWord bs 0x20) 47 0,
        nplans := bits (bodyWord bs 0x28) 15 0, sects := (List.range n).map (sectOf bs), sound := 1 ≤ n && n ≤ 4096 && imageReserved bs n }

/-- What a section of an image records: what the save that wrote its bytes recorded, the last such save where there are several, or
what the bytes mean that no save of this device wrote (log entry 13). -/
def State.meaning (s : State) (x : Sect) (bs : List Byte) : Section :=
  match s.sections.find? fun y => y.image < 2 ^ 48 && y.stype == x.stype && y.unit == x.unit && y.bytes == bs with
  | some y => y
  | none => { Config.sectionMeaning x.stype bs with stype := x.stype, unit := x.unit }

/-- A section's bytes as they stand. -/
def State.sectBytes (s : State) (a : Nat) (x : Sect) : List Byte := (s.physBytes (a + x.off) x.len).getD []

/-- What the sections of one type of an image record. -/
def State.sectsOf (s : State) (a : Nat) (l : List Sect) (t : Nat) : List Section :=
  (l.filter (·.stype == t)).map fun x => s.meaning x (s.sectBytes a x)

/-- Bytes of a saved context's section: the snapshot, and the items of Table 14-9 after it, whose number of bytes is free (log entry 13). -/
def ctxItems (plans : Nat) : Nat := 129 + Config.sectionLength 1 (1 + plans)

/-- SCRC holds. -/
def State.sectOk (s : State) (a : Nat) (x : Sect) : Bool :=
  match s.physBytes (a + x.off) x.len with
  | some bs => (crc32 bs).toNat == x.crc
  | none => false

def sectTypes : List Nat := [0x01, 0x10, 0x11, 0x12, 0x13, 0x20, 0x21, 0x30, 0x31, 0x14]

/-- Table 1-14: which sections an image of its kind may and must hold. -/
def sectCounts (i : Image) : Bool :=
  let of (t : Nat) : List Sect := i.sects.filter (·.stype == t)
  let once (t : Nat) : Bool := (of t).length == 1
  let most (t : Nat) : Bool := (of t).length ≤ 1
  let perDie (t : Nat) : Bool := ((of t).map fun x => x.unit / 2 ^ 14).Nodup
  let perUnit (t : Nat) : Bool := ((of t).map fun x => x.unit).Nodup
  if i.fresh then once 0x01 && [0x10, 0x11, 0x12, 0x13].all most && [0x20, 0x21, 0x30, 0x31, 0x14].all fun t => (of t).isEmpty
  else once 0x01 && once 0x10 && once 0x13 && !(of 0x11).isEmpty && perDie 0x11 && perDie 0x12 && perUnit 0x30 && perUnit 0x31 && most 0x14

/-- Sections stand apart from each other, and from the header and table. -/
def sectsApart (i : Image) : Bool :=
  let head := 0x40 + 32 * i.sects.length
  i.sects.zipIdx.all fun (x, n) =>
    x.off % 64 == 0 && x.off ≥ head && (i.sects.drop (n + 1)).all fun y => x.off + x.len ≤ y.off || y.off + y.len ≤ x.off

/-- The snapshot of the context RCB, with the checks of step 1 of R67 on its section: presence, length and SCRC. A second section of the type
is for step 2. -/
def State.snapshot (s : State) (i : Image) : Except Nat (List W64) := do
  match i.sects.find? (·.stype == 1) with
  | some x =>
    let plans := (s.meaning x (s.sectBytes i.addr x)).plans.length
    need ((if i.fresh then x.len == 128 else x.len ≥ ctxItems plans) && s.sectOk i.addr x) 9
    match s.physBytes (i.addr + x.off) 128 with
    | some bs => .ok ((List.range 16).map fun k => BitVec.ofNat 64 (bodyWord bs (8 * k)))
    | none => .error 9
  | _ => .error 9

/-- A context as its RCB gives it, at the check of a RESUME. COLLSHARE, which R19 lists in neither of its groups, is read here alone:
DESIGN CHOICE (log entry 102). A TSBASE or TKBASE that is not a multiple of 4 KiB is used as it stands: DESIGN CHOICE (log entry 118). -/
def ctxInit (id rcb : Nat) (i : Image) (coord queue : Nat) (w : List W64) : Ctx :=
  let e := effRoot w
  { id := id, rcb := rcb, image := i.addr, sects := i.sects, fresh := i.fresh, coord := coord, queue := queue, phase := .checked,
    ptroot := bits (wd w 8) 47 0, walkfmt := bits (wd w 8) 51 48, overlay := (wd w 8).testBit 52, collen := (wd w 8).testBit 53,
    tsbase := bits (wd w 9) 47 0, tkbase := bits (wd w 10) 47 0, frarea := bits (wd w 11) 47 0,
    drainus := e.getD 12 300, rates := [6, 7, 8, 9].map fun n => e.getD n 0xFFFF, collShare := e.getD 10 32, plans := [], tasks := [],
    ready := List.replicate 8 [], takes := [], msgs := [], replies := [], planlist := (i.planlist, i.nplans),
    resumed := 0, saveArea := (0, 0), saver := none }

/-- The group and team sections of an image: one for each group, and one for each team of those groups, without reserved bits. Groups of
two plans may have one rank, and each then has its teams. -/
def State.unitsOk (s : State) (i : Image) : Bool :=
  let gs := (s.sectsOf i.addr i.sects 0x20).flatMap (·.groups)
  let ts := (i.sects.filter (·.stype == 0x21)).map (s.sectBytes i.addr)
  let key (bs : List Byte) : Nat × Nat := (bodyWord bs 8, bits (bodyWord bs 0) 2 0)
  (gs.map fun g => (g.ref.rcb, g.ref.rank)).Nodup && (ts.all teamBodyOk) &&
  (ts.map key).all fun k => (ts.filter fun t => key t == k).length ≤ (gs.filter fun g => g.ref.rank == k.1 && k.2 < g.teams).length

/-- R47, past the checks of step 1: the context, its RCB read at CTXRCB, and PLANLIST. -/
def State.imageOk (s : State) (i : Image) (snap : List W64) (c : Ctx) : Except Nat (List Nat) := do
  need (i.sound && sectCounts i && sectsApart i && i.sects.all (fun x => sectTypes.contains x.stype && s.sectOk i.addr x)) 9
  need (i.fresh || (s.unitsOk i && i.sects.all fun x => (s.die (x.unit / 2 ^ 14)).up)) 9
  need (i.nplans ≤ 256) 9
  let w ← s.words c c.rcb 16 9
  need (bits (wd snap 8) 51 0 == bits (wd w 8) 51 0) 9
  let ps ← if i.nplans == 0 then .ok [] else s.words c i.planlist i.nplans 9
  .ok (ps.map fun p => p.toNat % 2 ^ 48)

/-- Step 2 of R67 for a context that stands in the state: its plans with their pipes and chunks. R67 orders none of the checks within the step:
the context's RCB (14) comes before the plans' (9 and 14), which go plan by plan, and the records of a plan that the save recorded as
retired are checked too. DESIGN CHOICE (log entry 120). -/
def State.readContext (s : State) (i : Image) (snap : List W64) (c : Ctx) : Except Nat (List (Plan × List Pipe × List Chunk)) := do
  let rcbs ← s.imageOk i snap c
  let w ← s.words c c.rcb 16 9
  need (rcbOk w 0 c.rcb) 14
  rcbs.mapM fun r => s.readPlan c r

end Sys2Proof.Machine
end

