-- ==== Sys2Proof/Machine/Headwater.lean ====
section
/-! DEFINITION. Command queues and Headwater: registers, submission, the command stream and its commands (R51 to R69, R430 step 1). -/

namespace Sys2Proof.Machine

/-! ### Queue registers (Table 2-2) -/

def qReg (q : QRef) : Nat := 0x1000 + 64 * q.q
def State.queue (s : State) (q : QRef) : Queue := (s.die q.die).queues.getD q.q Queue.init
def State.modQueue (s : State) (q : QRef) (f : Queue → Queue) : State :=
  s.modDie q.die fun x => { x with queues := updAt x.queues q.q f }

def State.qEn (s : State) (q : QRef) : Bool := s.fld q.die (qReg q + 8) 0 0 == 1
def State.qStopped (s : State) (q : QRef) : Bool := s.fld q.die (qReg q + 0x20) 11 11 == 1
def State.qHead (s : State) (q : QRef) : Nat := s.fld q.die (qReg q + 0x18) 31 0
def State.qTail (s : State) (q : QRef) : Nat := s.fld q.die (qReg q + 0x10) 31 0
def State.qSize (s : State) (q : QRef) : Nat :=
  let n := s.fld q.die (qReg q) 52 48
  2 ^ (if 10 ≤ n && n ≤ 24 then n else 10)
/-- The firmware of a die runs (R54). -/
def State.fwRuns (s : State) (d : Nat) : Bool := s.fld d 0x008 1 0 == 0

/-! ### Submission (R56, R57) -/

/-- TAIL_SUBMISSION: the write enters the FIFO, or waits while it is full. -/
def tailSubmission (q : QRef) (v : W32) (s : State) : State :=
  (s.raiseEvent q.die 1).modDie q.die fun x =>
    if x.fifo.length < 256 && x.backed.isEmpty then { x with fifo := x.fifo ++ [(q.q, v)] }
    else { x with backed := x.backed ++ [(q.q, v)] }

/-- FIFO_ENTRY_EVALUATION (R57). -/
def fifoEntryEvaluation (d : Nat) (s : State) : State :=
  match (s.die d).fifo with
  | [] => s
  | (n, t) :: rest =>
    let q : QRef := ⟨d, n⟩
    let s := s.modDie d fun x => { x with fifo := rest ++ x.backed.take 1, backed := x.backed.drop 1 }
    let dist := (t.toNat + 2 ^ 32 - s.qTail q) % 2 ^ 32
    if dist = 0 || dist ≥ 2 ^ 31 then s
    else if (t.toNat + 2 ^ 32 - s.qHead q) % 2 ^ 32 > s.qSize q then
      (s.setFld d (qReg q + 0x20) 12 12 1).interrupt q
    else s.setFld d (qReg q + 0x10) 31 0 t.toNat

/-- TAILERR_CLEAR: W1C. -/
def tailerrClear (q : QRef) (v : W64) (s : State) : State :=
  if v.getLsbD 12 then s.setFld q.die (qReg q + 0x20) 12 12 0 else s

/-- QUEUE_ENABLE (R65): a change of EN from 0 to 1 clears STOPPED, ERR and LEVEL and discards the open levels. The spec does not say what
clearing EN does to a command that blocks. DESIGN CHOICE (log entry 104): a WAIT_TIME or FENCE stays while EN is 0; a RESUME or PREEMPT,
whose work goes on, still commits; and EN set again drops the block that stands. -/
def queueEnable (q : QRef) (v : W64) (s : State) : State :=
  let was := s.qEn q
  let s := s.setReg q.die (qReg q + 8) (v &&& BitVec.ofNat 64 (1 + fieldMask 10 8 + fieldMask 63 32))
  if v.getLsbD 0 && !was then
    (s.setFld q.die (qReg q + 0x20) 11 0 0).modQueue q fun x => { x with levels := [], block := .none }
  else s

/-- QHEAD_WRITE: takes effect while STOPPED = 1 or EN = 0. -/
def qheadWrite (q : QRef) (v : W64) (s : State) : State :=
  if s.qStopped q || !s.qEn q then s.setFld q.die (qReg q + 0x18) 31 0 (v.toNat % 2 ^ 32) else s

def execTailSubmission (s : State) : Host.Outcome State Fault Refusal :=
  match s.ev with
  | some (.tailSubmission q v) => if q.die < 4 && q.q < 32 then .next (tailSubmission q v { s with ev := none }) else .fault .noUnit
  | _ => .fault .noEvent
def execFifoEntryEvaluation (s : State) : Host.Outcome State Fault Refusal :=
  match s.ev with
  | some (.fifoEntryEvaluation d) => if d < 4 then .next (fifoEntryEvaluation d { s with ev := none }) else .fault .noUnit
  | _ => .fault .noEvent
def execTailerrClear (s : State) : Host.Outcome State Fault Refusal :=
  match s.ev with
  | some (.tailerrClear q v) => if q.die < 4 && q.q < 32 then .next (tailerrClear q v { s with ev := none }) else .fault .noUnit
  | _ => .fault .noEvent
def execQueueEnable (s : State) : Host.Outcome State Fault Refusal :=
  match s.ev with
  | some (.queueEnable q v) => if q.die < 4 && q.q < 32 then .next (queueEnable q v { s with ev := none }) else .fault .noUnit
  | _ => .fault .noEvent
def execQheadWrite (s : State) : Host.Outcome State Fault Refusal :=
  match s.ev with
  | some (.qheadWrite q v) => if q.die < 4 && q.q < 32 then .next (qheadWrite q v { s with ev := none }) else .fault .noUnit
  | _ => .fault .noEvent

/-! ### Plain register accesses (R7, R8, R51) -/

/-- COUNTER_READ_CLEAR: a read of a register, which clears its RC fields. -/
def counterReadClear (d off : Nat) (s : State) : State :=
  if off % 8 == 0 && off < 0x10000 then (s.readReg d off).2 else { s.badAccess d with lastRead := 0 }

/-- REGISTER_WRITE: the RW fields are stored; QBASE and QCIDX only while EN = 0. What the registers do with an address that is not aligned
as Table 2-2 has it is open: QBASE, QCIDX and QIRQADDR keep and use it as written, DESIGN CHOICE (log entry 99). -/
def registerWrite (d off : Nat) (v : W64) (s : State) : State :=
  if off % 8 != 0 || off ≥ 0x10000 then s.badAccess d else
  let q : QRef := ⟨d, (off - 0x1000) / 64⟩
  let on := 0x1000 ≤ off && off < 0x1800 && s.qEn q
  let m := if on && off % 64 == 0 then fieldMask 52 48 else if on && off % 64 == 0x30 then 0 else rwMask off
  if m == 0 || (off == 0x4100 && s.fld d off 16 16 == 1) then s
  else s.setReg d off (BitVec.ofNat 64 (((s.reg d off).toNat &&& (m64 ^^^ m)) ||| (v.toNat &&& m)))

def execCounterReadClear (s : State) : Host.Outcome State Fault Refusal :=
  match s.ev with
  | some (.counterReadClear d off) => if d < 4 then .next (counterReadClear d off { s with ev := none }) else .fault .noUnit
  | _ => .fault .noEvent
def execRegisterWrite (s : State) : Host.Outcome State Fault Refusal :=
  match s.ev with
  | some (.registerWrite d off v) => if d < 4 then .next (registerWrite d off v { s with ev := none }) else .fault .noUnit
  | _ => .fault .noEvent

/-! ### The stream (R55, R61, R62) -/

/-- Address of word `k` of a queue's next command. -/
def State.streamAddr (s : State) (q : QRef) (k : Nat) : Nat :=
  match (s.queue q).levels.getLast? with
  | some (a, _) => a + 4 * k
  | none => s.fld q.die (qReg q) 47 0 + 4 * ((s.qHead q + k) % s.qSize q)

/-- Words that are left in the queue's innermost level. -/
def State.streamLeft (s : State) (q : QRef) : Nat :=
  match (s.queue q).levels.getLast? with
  | some (_, n) => n
  | none => (s.qTail q + 2 ^ 32 - s.qHead q) % 2 ^ 32

/-- A stream word: none where it cannot be read. -/
def State.streamWord (s : State) (q : QRef) (k : Nat) : Option W32 :=
  (s.physBytes (s.streamAddr q k) 4).map fun bs => BitVec.ofNat 32 (leVal bs)

def cmdType (w : W32) : Nat := w.toNat / 2 ^ 24
def cmdFlags (w : W32) : Nat := bits w.toNat 23 16
def cmdCount (w : W32) : Nat := w.toNat % 2 ^ 16

/-- COUNT and the FLAGS defined, by TYPE (Table 2-4); none for a reserved TYPE. -/
def cmdShape (t : Nat) : Option (Option Nat × Nat) :=
  match t with
  | 0x00 => some (none, 0) | 0x01 => some (some 2, 0) | 0x02 => some (some 5, 0) | 0x03 => some (some 2, 0)
  | 0x10 => some (some 3, 0) | 0x11 => some (some 0, 0) | 0x20 => some (some 4, 1) | 0x21 => some (some 4, 1)
  | 0x22 => some (some 0, 0) | _ => none

/-- Codes 1 to 3 of Table 2-5; 0 for none. -/
def headerError (w : W32) : Nat :=
  match cmdShape (cmdType w) with
  | none => 1
  | some (n, fl) => if n.isSome && n != some (cmdCount w) then 2 else if cmdFlags w &&& (255 - fl) != 0 then 3 else 0

/-- Codes 1 to 3, 7 and 8 of a queue's next command; 0 for none. R64 orders no codes: where several causes hold, the lowest of 1, 2, 3, 7 and 8
is given, and one of the command's own after these, 4 before 5. DESIGN CHOICE (log entry 119). -/
def State.streamError (s : State) (q : QRef) : Nat :=
  match s.streamWord q 0 with
  | none => 8
  | some w =>
    if headerError w != 0 then headerError w
    else if 1 + cmdCount w > s.streamLeft q then 7
    else if cmdType w != 0 && (List.range (cmdCount w)).any fun k => (s.streamWord q (k + 1)).isNone then 8
    else 0

/-- The queue stops at its next command (R64). -/
def State.stopQueue (s : State) (q : QRef) (err : Nat) : State :=
  let s := s.setFld q.die (qReg q + 0x20) 11 0 (err + 2 ^ 8 * (s.queue q).levels.length + 2 ^ 11)
  let s := s.setFld q.die (qReg q + 0x28) 47 0 (s.streamAddr q 0)
  (s.modQueue q fun x => { x with block := .none }).interrupt q

/-- Levels whose length is used up close, the innermost first. -/
def closeLevels : List (Nat × Nat) → List (Nat × Nat)
  | [] => []
  | x :: t => match closeLevels t with
    | [] => if x.2 = 0 then [] else [x]
    | u => x :: u

/-- Pass `n` words of the innermost level. -/
def State.passWords (s : State) (q : QRef) (n : Nat) : State :=
  match (s.queue q).levels.getLast? with
  | some _ => s.modQueue q fun x => { x with levels := updAt x.levels (x.levels.length - 1) fun l => (l.1 + 4 * n, l.2 - n) }
  | none => s.setFld q.die (qReg q + 0x18) 31 0 ((s.qHead q + n) % 2 ^ 32)

/-- PROGRESS_RECORD_WRITE (R59). -/
def State.progress (s : State) (q : QRef) : State :=
  let lv := (s.queue q).levels
  let next (n : Nat) : Nat := (lv.getD n (0, 0)).1 % 2 ^ 48
  let left (n : Nat) : Nat := (lv.getD n (0, 0)).2
  let ws := [s.qHead q + 2 ^ 32 * lv.length, next 0, next 1, next 2, next 3, left 0 + 2 ^ 32 * left 1, left 2 + 2 ^ 32 * left 3, 0]
  s.physPut q.die (s.fld q.die (qReg q + 0x30) 47 0) (ws.flatMap (leBytes 8))

/-- A command of `n` payload words commits; `f` changes the levels (INDIRECT, RETURN). -/
def State.commit (s : State) (q : QRef) (n : Nat) (f : List (Nat × Nat) → List (Nat × Nat) := id) : State :=
  ((s.passWords q (n + 1)).modQueue q fun x => { x with levels := closeLevels (f x.levels), block := .none }).progress q

/-- A command: malformed, it stops the queue (R64); else `f` acts, or names the error that stops it. -/
def State.command (s : State) (q : QRef) (w : W32) (f : State → Except Nat State) : State :=
  match s.streamError q with
  | 0 => if s.streamWord q 0 != some w then s else match f s with
    | .ok s => s
    | .error e => s.stopQueue q e
  | e => s.stopQueue q e

/-! ### Commands without a restore (R61 to R63) -/

def pair64 (pl : List W32) (i : Nat) : Nat := (pl.getD i 0).toNat + 2 ^ 32 * (pl.getD (i + 1) 0).toNat

def cmdNop (q : QRef) (w : W32) (s : State) : State := s.command q w fun s => .ok (s.commit q (cmdCount w))

/-- A plan whose RCB stands at a physical address (R51). -/
def State.planAt (s : State) (pa : Nat) : Option Plan :=
  s.plans.find? fun p => !p.retired && (match s.ctx? p.ctx with
    | some c => match (s.recAddr c.coord c.walkfmt c.ptroot p.rcb).1 with
      | .ok a => a == pa
      | .error _ => false
    | none => false)

/-- Every pipe of a plan closes (R298). -/
def State.drainPlan (s : State) (d : Nat) (p : Plan) : State :=
  (planPipes s p.ctx p.rcb).foldl (fun s x => s.after (s.pipeLat d x.ref) (.pipeCounterChange x.ref (.close 0)))
    (s.modPlan p.ctx p.rcb fun x => { x with draining := true })

/-- DRAIN_PLAN (R298). -/
def cmdDrainPlan (q : QRef) (w : W32) (pl : List W32) (s : State) : State :=
  s.command q w fun s =>
    let s : State := match s.planAt (pair64 pl 0 % 2 ^ 48) with
      | some p => if p.draining then s else s.drainPlan q.die p
      | none => s
    .ok (s.commit q 2)

/-- INDIRECT (codes 4 and 5). -/
def cmdIndirect (q : QRef) (w : W32) (pl : List W32) (s : State) : State :=
  s.command q w fun s =>
    let a := pair64 pl 0
    let n := (pl.getD 2 0).toNat
    if (s.queue q).levels.length ≥ 4 then .error 4
    else if n = 0 || n > 2 ^ 20 || a % 4 != 0 then .error 5
    else .ok (s.commit q 3 fun l => l ++ [(a % 2 ^ 48, n)])

/-- RETURN (code 6). -/
def cmdReturn (q : QRef) (w : W32) (s : State) : State :=
  s.command q w fun s => if (s.queue q).levels.isEmpty then .error 6 else .ok (s.commit q 0 fun l => l.dropLast)

/-- Where the firmware of a die stands, for the scope test. -/
def State.firmware (s : State) (d : Nat) : Who := ⟨d, (s.die d).fwcore, default⟩

/-- Every queue waiting on a value in memory looks at it now. -/
def State.pollAll (s : State) : State :=
  (List.range 4).foldl (fun s d => (List.range 32).foldl (fun s n => match (s.queue ⟨d, n⟩).block with
    | .time _ _ => s.after 0 (.waitTimePoll ⟨d, n⟩)
    | _ => s) s) s

/-- SIGNAL: a store with Release(system), the queue's interrupt, and a look by every WAIT_TIME of the package. At an unbacked address, for
which Table 2-5 has no code, nothing is stored and the command commits all the same: DESIGN CHOICE (log entry 103). -/
def cmdSignal (q : QRef) (w : W32) (pl : List W32) (s : State) : State :=
  s.command q w fun s =>
    let a := pair64 pl 0 % 2 ^ 48
    if pair64 pl 0 % 8 != 0 then .error 11
    else
      let (st, s) := s.release q.die (s.queue q).horizon
      let s := match s.backing true 7 0 a a with
        | .ok (.dev pa) => s.devWrite pa 8 (pair64 pl 2)
        | .ok p => (((s.touchStore q.die p 4 0).2.placePut q.die p (leBytes 8 (pair64 pl 2))).2).writeRels p 8 false [⟨st, 6, s.firmware q.die⟩]
        | .error _ => s
      let s := s.commit q 4
      let s := if cmdFlags w % 2 == 1 then s.interrupt q else s
      .ok s.pollAll

/-- Whether the condition of a WAIT_TIME on an address holds: one read, of a device register as the firmware reaches it (R224). A value
that cannot be read, for which Table 2-5 has no code, never satisfies it: DESIGN CHOICE (log entry 103). -/
def State.timeMet (s : State) (a thr : Nat) : Bool × State :=
  match s.backing true 7 0 a a with
  | .ok (.dev pa) => let (v, s) := s.devRead pa 8; (v ≥ thr, s)
  | _ => match s.physGet a 8 with
    | (.ok bs, s) => (leVal bs ≥ thr, s)
    | (.error _, s) => (false, s)

/-- A queue's commands acquire a stamp, which their later releases pass on. -/
def State.queueAcquire (s : State) (q : QRef) (stamp : Nat) : State := s.modQueue q fun x => { x with horizon := max x.horizon stamp }

/-- The read that satisfies a WAIT_TIME is an Acquire(system) (R63). -/
def State.timeAcquire (s : State) (q : QRef) (a : Nat) : State :=
  s.queueAcquire q (((s.relsAt (.mem a) 8).filter fun r => r.sees 6 (s.firmware q.die)).foldl (fun m r => max m r.stamp) 0)

/-- WAIT_TIME. -/
def cmdWaitTime (q : QRef) (w : W32) (pl : List W32) (s : State) : State :=
  s.command q w fun s =>
    let a := pair64 pl 0
    let thr := pair64 pl 2
    if cmdFlags w % 2 == 1 then
      if a != 0 then .error 11
      else if s.clock ≥ thr then .ok (s.commit q 4)
      else .ok ((s.modQueue q fun x => { x with block := .clock thr }).at_ thr (.waitTimeClockReached q))
    else if a % 8 != 0 then .error 11
    else match s.timeMet (a % 2 ^ 48) thr with
      | (true, s) => .ok ((s.timeAcquire q (a % 2 ^ 48)).commit q 4)
      | (false, s) => .ok ((s.modQueue q fun x => { x with block := .time (a % 2 ^ 48) thr }).after 4096 (.waitTimePoll q))

/-- WAIT_TIME_POLL: on entry, every 4096 cycles and after every SIGNAL store. -/
def waitTimePoll (q : QRef) (s : State) : State :=
  match (s.queue q).block with
  | .time a thr =>
    if !s.qEn q then s else
    match s.timeMet a thr with
    | (true, s) => (s.timeAcquire q a).commit q 4
    | (false, s) => if s.isDue (· == .waitTimePoll q) then s else s.after 4096 (.waitTimePoll q)
  | _ => s

/-- WAIT_TIME_CLOCK_REACHED. -/
def waitTimeClockReached (q : QRef) (s : State) : State :=
  match (s.queue q).block with
  | .clock thr => if s.qEn q && s.clock ≥ thr then s.commit q 4 else s
  | _ => s

/-- FENCE: it commits in the cycle after the last plan it waits for retires (R449). -/
def cmdFence (q : QRef) (w : W32) (s : State) : State :=
  s.command q w fun s =>
    let s := s.modQueue q fun x => { x with block := .fence }
    .ok (if (s.queue q).plans.isEmpty then s.after 0 (.fenceCommit q) else s)

/-- FENCE_COMMIT: with Release(system) of the retired work, which the queue's later commands follow. -/
def fenceCommit (q : QRef) (s : State) : State :=
  if (s.queue q).block == .fence && (s.queue q).plans.isEmpty && s.qEn q then
    let (st, s) := s.release q.die (s.queue q).horizon
    (s.queueAcquire q st).commit q 0
  else s

/-! ### RESUME (R67) and PREEMPT (R63) -/

/-- Set the RESIDENT bit of a context's RCB. -/
def State.setResident (s : State) (c : Ctx) (v : Nat) : State :=
  match (s.recWords c.coord c.walkfmt c.ptroot (c.rcb + 0x30) 1).1 with
  | .ok (w :: _) => s.recWrite c.coord c.walkfmt c.ptroot (c.rcb + 0x30) 8 (setBits w.toNat 16 16 v)
  | _ => s

/-- Set CLAMP bits of a node's RCB (R17). -/
def State.setClamp (s : State) (c : Ctx) (rcb m : Nat) : State :=
  if m = 0 then s else
  match (s.recWords c.coord c.walkfmt c.ptroot (rcb + 0x30) 1).1 with
  | .ok (w :: _) => s.recWrite c.coord c.walkfmt c.ptroot (rcb + 0x30) 8 (w.toNat ||| m)
  | _ => s

/-- Effective values of a plan and of a stage of it as their RCBs stand, with the CLAMP bits set (R17, R19). A block that
cannot be read leaves its parent's values. -/
def State.effNode (s : State) (c : Ctx) (up : List Nat) (rcb : Nat) : List Nat × State :=
  match (s.recWords c.coord c.walkfmt c.ptroot rcb 16).1 with
  | .ok w => let (e, m) := effUnder up w; (e, s.setClamp c rcb m)
  | .error _ => (up, s)

/-- Effective values of a context's RCB as it stands. A block that cannot be read gives the values that Table 1-2 has for reset: DESIGN CHOICE
(log entry 117). -/
def State.effCtx (s : State) (c : Ctx) : List Nat :=
  match (s.recWords c.coord c.walkfmt c.ptroot c.rcb 16).1 with
  | .ok w => effRoot w
  | .error _ => effDefault

/-- Read the effective values of every node of a plan. -/
def State.clampPlan (s : State) (c : Ctx) (p : Plan) : State :=
  let (e, s) := s.effNode c (s.effCtx c) p.rcb
  (p.stages.filter fun st => st.srcb != p.rcb).foldl (fun s st => (s.effNode c e st.srcb).2) s

/-- A number for a context that has no id yet. -/
def State.spareCtx (s : State) : Nat := s.ctxs.foldl (fun m c => max m (c.id + 1)) 4096

/-- A context RCB, by the physical address behind its virtual one, of the resident contexts. -/
def State.ctxAt (s : State) (pa : Nat) : Option Ctx :=
  s.ctxs.find? fun c => match (s.recAddr c.coord c.walkfmt c.ptroot c.rcb).1 with
    | .ok a => a == pa
    | .error _ => false

/-- A context stands with its plans, pipes and chunks. -/
def State.addContext (s : State) (c : Ctx) (ps : List (Plan × List Pipe × List Chunk)) : State :=
  { s with ctxs := s.ctxs ++ [{ c with plans := ps.map fun p => p.1.rcb }]
           plans := s.plans ++ ps.map fun p => p.1
           pipes := s.pipes ++ ps.flatMap fun p => p.2.1
           chunks := s.chunks ++ ps.flatMap fun p => p.2.2 }

/-- Steps 1 and 2 of R67: the context stands checked with RESIDENT set, or the error that stops the queue. -/
def State.resumeCheck (s : State) (q : QRef) (a : Nat) : Except Nat State := do
  let i ← s.readImage a
  let snap ← s.snapshot i
  let tmp := ctxInit s.spareCtx i.ctxRcb i q.die q.q snap
  let w ← s.words tmp tmp.rcb 16 9
  need (!(wd w 6).testBit 16) 10
  let c := ctxInit s.spareCtx i.ctxRcb i q.die q.q w
  let s1 := { s with ctxs := s.ctxs ++ [{ tmp with tsbase := c.tsbase }] }
  let ps ← s1.readContext i snap { tmp with collen := c.collen, tsbase := c.tsbase }
  let s2 := s.addContext c ps
  .ok (ps.foldl (fun s p => s.clampPlan c p.1) (s2.setResident c 1))

/-- RESUME: the command blocks until a context id is written. Bits [63:48] of a two-word address, here and in the other commands, are
ignored: R51 makes addresses n48 and no table refuses the rest, DESIGN CHOICE (log entry 105). -/
def cmdResume (q : QRef) (w : W32) (pl : List W32) (s : State) : State :=
  s.command q w fun s =>
    let n := s.spareCtx
    (s.resumeCheck q (pair64 pl 0 % 2 ^ 48)).map fun s =>
      (s.modQueue q fun x => { x with block := .resume n }).after 0 (.ctxidWrite q)

/-- Context ids that are free: of no context, and of no departed-table entry (R428). -/
def State.freeIds (s : State) : List Nat :=
  (List.range 4096).filter fun n => !(s.ctxs.any (·.id == n)) && !(s.dies.any fun d => d.departed.any (·.ctx == n))

/-- A context takes its id, with its plans, pipes and chunks. -/
def State.nameCtx (s : State) (old new : Nat) : State :=
  { s with
    ctxs := updIf s.ctxs (·.id == old) fun c => { c with id := new, phase := .restoring 1 }
    plans := updIf s.plans (·.ctx == old) fun p => { p with ctx := new }
    pipes := updIf s.pipes (·.ref.ctx == old) fun p => { p with ref := { p.ref with ctx := new } }
    chunks := updIf s.chunks (·.ctx == old) fun k => { k with ctx := new } }

/-- CTXID_WRITE: a free id, which one is open (log entry 3), is written, and the RESUME commits. -/
def ctxidWrite (q : QRef) (s : State) : State :=
  match (s.queue q).block with
  | .resume n =>
    match s.freeIds, s.ctx? n with
    | f :: fs, some c =>
      let id := (f :: fs).getD (Config.freeNat s.fresh % (f :: fs).length) f
      let s := { s with fresh := s.fresh + 1 }
      let s := match (s.recWords c.coord c.walkfmt c.ptroot (c.rcb + 0x48) 1).1 with
        | .ok (w :: _) => s.recWrite c.coord c.walkfmt c.ptroot (c.rcb + 0x48) 8 (setBits w.toNat 59 48 id)
        | _ => s
      let pa := s.rcbPa c
      let s := (s.nameCtx n id).modQueue q fun x => { x with plans := (x.plans ++ c.plans.map fun r => (⟨pa, r⟩ : PlanRef)).dedup }
      (s.commit q 2).after 1 (.restorePhase id 1)
    | _, _ => s
  | _ => s

/-- Shadow slots of a context return their tasks (R81). -/
def State.returnSlots (s : State) (ctx : Nat) : State :=
  s.cores.foldl (fun s c => (c.shadow.filter fun x => x.grp.ctx == ctx).foldl (fun s x =>
    let s := match x.task with
      | some n => s.returnTask ctx n
      | none => s
    s.modCore c.die c.ix fun y => { y with shadow := updIf y.shadow (·.ix == x.ix) fun z => { z with st := .empty, task := none, asked := none } }) s) s

/-- PREEMPT (step 1 of R430): dispatch stops and the drain begins; the queue blocks until the save commits. -/
def cmdPreempt (q : QRef) (w : W32) (pl : List W32) (s : State) : State :=
  s.command q w fun s =>
    match s.ctxAt (pair64 pl 0 % 2 ^ 48) with
    | none => .error 12
    | some c =>
      let s := s.modQueue q fun x => { x with block := .preempt }
      if c.saver == some q then .ok s
      else
        let ends := s.clock + c.drainus * 1500
        let s := s.modCtx c.id fun x => { x with phase := .draining ends, saver := some q
                                                 saveArea := (pair64 pl 2 % 2 ^ 48, (pl.getD 4 0).toNat) }
        .ok ((s.returnSlots c.id).at_ ends (.drainEnd c.id))

/-! ### What a die parses next (R66) -/

/-- A PREEMPT waits while its context's restore, or another save of it, runs (R69). -/
def State.preemptWaits (s : State) (q : QRef) : Bool :=
  match s.ctxAt ((((s.streamWord q 1).getD 0).toNat + 2 ^ 32 * ((s.streamWord q 2).getD 0).toNat) % 2 ^ 48) with
  | some c => c.phase != .running && c.saver != some q
  | none => false

/-- The queue has a command to parse: its words stand below the accepted tail. -/
def State.parseable (s : State) (q : QRef) : Bool :=
  let x := s.queue q
  s.qEn q && !s.qStopped q && x.block == .none &&
  (!x.levels.isEmpty || (s.streamLeft q != 0 && (match s.streamWord q 0 with
    | none => true
    | some w => headerError w != 0 || 1 + cmdCount w ≤ s.streamLeft q))) &&
  !((s.streamWord q 0).map cmdType == some 2 && s.streamError q == 0 && s.preemptWaits q)

/-- The queue that a die serves next: highest QPRIO, then in rotation. -/
def State.nextQueue (s : State) (d : Nat) : Option QRef :=
  if !s.fwRuns d || !(s.die d).up then none else
  let qs := ((List.range 32).map fun i => (⟨d, ((s.die d).served + 1 + i) % 32⟩ : QRef)).filter s.parseable
  let top := qs.foldl (fun m q => max m (s.fld d (qReg q + 8) 10 8)) 0
  qs.find? fun q => s.fld d (qReg q + 8) 10 8 == top

/-- The event of a queue's next command. -/
def State.cmdEvent (s : State) (q : QRef) : Event :=
  let w := (s.streamWord q 0).getD 0
  let pl := if cmdType w = 0 then [] else (List.range (cmdCount w)).map fun k => (s.streamWord q (k + 1)).getD 0
  match cmdType w with
  | 0x01 => .cmdResume q w pl
  | 0x02 => .cmdPreempt q w pl
  | 0x03 => .cmdDrainPlan q w pl
  | 0x10 => .cmdIndirect q w pl
  | 0x11 => .cmdReturn q w pl
  | 0x20 => .cmdSignal q w pl
  | 0x21 => .cmdWaitTime q w pl
  | 0x22 => .cmdFence q w pl
  | _ => .cmdNop q w pl

/-- The queue has been served. -/
def State.serve (s : State) (q : QRef) : State := s.modDie q.die fun x => { x with served := q.q }

/-- A command event: `f` on the state with the event gone, and the queue served. -/
def onCommand (s : State) (q : QRef) (f : State → State) : Host.Outcome State Fault Refusal :=
  if q.die < 4 && q.q < 32 then .next (f (({ s with ev := none } : State).serve q)) else .fault .noUnit

def execCmdNop (s : State) : Host.Outcome State Fault Refusal :=
  match s.ev with
  | some (.cmdNop q w _) => onCommand s q (cmdNop q w)
  | _ => .fault .noEvent
def execCmdResume (s : State) : Host.Outcome State Fault Refusal :=
  match s.ev with
  | some (.cmdResume q w pl) => onCommand s q (cmdResume q w pl)
  | _ => .fault .noEvent
def execCmdPreempt (s : State) : Host.Outcome State Fault Refusal :=
  match s.ev with
  | some (.cmdPreempt q w pl) => onCommand s q (cmdPreempt q w pl)
  | _ => .fault .noEvent
def execCmdDrainPlan (s : State) : Host.Outcome State Fault Refusal :=
  match s.ev with
  | some (.cmdDrainPlan q w pl) => onCommand s q (cmdDrainPlan q w pl)
  | _ => .fault .noEvent
def execCmdIndirect (s : State) : Host.Outcome State Fault Refusal :=
  match s.ev with
  | some (.cmdIndirect q w pl) => onCommand s q (cmdIndirect q w pl)
  | _ => .fault .noEvent
def execCmdReturn (s : State) : Host.Outcome State Fault Refusal :=
  match s.ev with
  | some (.cmdReturn q w _) => onCommand s q (cmdReturn q w)
  | _ => .fault .noEvent
def execCmdSignal (s : State) : Host.Outcome State Fault Refusal :=
  match s.ev with
  | some (.cmdSignal q w pl) => onCommand s q (cmdSignal q w pl)
  | _ => .fault .noEvent
def execCmdWaitTime (s : State) : Host.Outcome State Fault Refusal :=
  match s.ev with
  | some (.cmdWaitTime q w pl) => onCommand s q (cmdWaitTime q w pl)
  | _ => .fault .noEvent
def execCmdFence (s : State) : Host.Outcome State Fault Refusal :=
  match s.ev with
  | some (.cmdFence q w _) => onCommand s q (cmdFence q w)
  | _ => .fault .noEvent
def execWaitTimePoll (s : State) : Host.Outcome State Fault Refusal :=
  match s.ev with
  | some (.waitTimePoll q) => if q.die < 4 && q.q < 32 then .next (waitTimePoll q { s with ev := none }) else .fault .noUnit
  | _ => .fault .noEvent
def execWaitTimeClockReached (s : State) : Host.Outcome State Fault Refusal :=
  match s.ev with
  | some (.waitTimeClockReached q) =>
    if q.die < 4 && q.q < 32 then .next (waitTimeClockReached q { s with ev := none }) else .fault .noUnit
  | _ => .fault .noEvent
def execFenceCommit (s : State) : Host.Outcome State Fault Refusal :=
  match s.ev with
  | some (.fenceCommit q) => if q.die < 4 && q.q < 32 then .next (fenceCommit q { s with ev := none }) else .fault .noUnit
  | _ => .fault .noEvent
def execCtxidWrite (s : State) : Host.Outcome State Fault Refusal :=
  match s.ev with
  | some (.ctxidWrite q) => if q.die < 4 && q.q < 32 then .next (ctxidWrite q { s with ev := none }) else .fault .noUnit
  | _ => .fault .noEvent

/-! ### Firmware restart (R54, R60) -/

/-- A queue's position from its progress record, which is free where it cannot be read; a command not committed is executed again. -/
def State.reload (s : State) (q : QRef) : State :=
  let (bs, s) : List Byte × State := match s.physBytes (s.fld q.die (qReg q + 0x30) 47 0) 64 with
    | some bs => (bs, s)
    | none => (leBytes 64 (Config.freeNat s.fresh), { s with fresh := s.fresh + 1 })
  let w (k : Nat) : Nat := bodyWord bs (8 * k)
  let n := bits (w 0) 34 32
  let left (k : Nat) : Nat := if k % 2 = 0 then bits (w (5 + k / 2)) 20 0 else bits (w (5 + k / 2)) 52 32
  let s := match (s.queue q).block with
    | .resume c => match s.ctx? c with
      | some x => { (s.setResident x 0) with ctxs := s.ctxs.filter (·.id != c), plans := s.plans.filter (·.ctx != c)
                                             pipes := s.pipes.filter (·.ref.ctx != c), chunks := s.chunks.filter (·.ctx != c) }
      | none => s
    | _ => s
  (s.setFld q.die (qReg q + 0x18) 31 0 (bits (w 0) 31 0)).modQueue q fun x =>
    { x with block := .none, levels := (List.range (min n 4)).map fun k => (bits (w (k + 1)) 47 0, left k) }

/-- FIRMWARE_RESTART: the firmware core alone is reset, and its queues take their positions again. -/
def firmwareRestart (d : Nat) (s : State) : State :=
  let fw := (s.die d).fwcore
  let gone (t : TeamRef) : Bool := t.die == d && t.core == fw
  let s := { s with teams := s.teams.filter fun t => !gone t.ref
                    issues := s.issues.filter fun i => !gone i.team, chosen := s.chosen.filter fun i => !gone i.team }
  let s := s.setFld d 0x008 1 0 1
  ((List.range 32).map fun n => (⟨d, n⟩ : QRef)).foldl (fun s q => if s.qEn q then s.reload q else s) s

/-- FIRMWARE_RESTART_END: commands are parsed again, and waiting records are written. -/
def firmwareRestartEnd (d : Nat) (s : State) : State := (s.setFld d 0x008 1 0 0).drainFaults d

def execFirmwareRestart (s : State) : Host.Outcome State Fault Refusal :=
  match s.ev with
  | some (.firmwareRestart d) => if d < 4 then .next (firmwareRestart d { s with ev := none }) else .fault .noUnit
  | _ => .fault .noEvent
def execFirmwareRestartEnd (s : State) : Host.Outcome State Fault Refusal :=
  match s.ev with
  | some (.firmwareRestartEnd d) => if d < 4 then .next (firmwareRestartEnd d { s with ev := none }) else .fault .noUnit
  | _ => .fault .noEvent

end Sys2Proof.Machine
end

