-- ==== Sys2Proof/Machine/Logic.lean ====
section
/-! DEFINITION. Class 2: logic and bit instructions (R171 to R175). -/

namespace Sys2Proof.Machine

/-- `w` bits, bit j given by `f`. -/
def bitsOf (w : Nat) (f : Nat → Bool) : Nat := (List.range w).foldl (fun n j => if f j then n + 2 ^ j else n) 0

def execAnd (h : Hdr) (o : RegForm) (s : State) : Host.Outcome State Fault Refusal :=
  laneOp (o.view 2 0 h) (fun x l => x.a l x.ty.width &&& x.b l x.ty.width) s

def execOr (h : Hdr) (o : RegForm) (s : State) : Host.Outcome State Fault Refusal :=
  laneOp (o.view 2 1 h) (fun x l => x.a l x.ty.width ||| x.b l x.ty.width) s

def execXor (h : Hdr) (o : RegForm) (s : State) : Host.Outcome State Fault Refusal :=
  laneOp (o.view 2 2 h) (fun x l => x.a l x.ty.width ^^^ x.b l x.ty.width) s

def execNot (h : Hdr) (o : RegForm) (s : State) : Host.Outcome State Fault Refusal :=
  laneOp (o.view 2 3 h) (fun x l => 2 ^ x.ty.width - 1 - x.a l x.ty.width) s

/-- Each result bit is the truth-table bit of the three input bits (R171). -/
def lop3Val (w tt a b c : Nat) : Nat := bitsOf w fun j => ttBit tt (a.testBit j) (b.testBit j) (c.testBit j)

def execLop3 (h : Hdr) (o : ImmForm) (s : State) : Host.Outcome State Fault Refusal :=
  laneOp (o.view 2 4 h) (fun x l =>
    let im := x.v.imm
    let y := x.tm.lane l
    lop3Val x.ty.width (bits im 31 24) (x.a l x.ty.width) (y.rgs (bits im 23 16) x.ty.regs)
      (y.rgs (bits im 15 8) x.ty.regs)) s

def shlVal (w a n : Nat) : Nat := if n ≥ w then 0 else a * 2 ^ n % 2 ^ w
def shrVal (w a n : Nat) : Nat := if n ≥ w then 0 else a % 2 ^ w / 2 ^ n
def sarVal (w a n : Nat) : Nat := wrap w (toSigned w a / (2 ^ min n w : Nat))
def rotVal (w a n : Nat) : Nat := let k := n % w; (a * 2 ^ k + a / 2 ^ (w - k)) % 2 ^ w
def shfVal (hi lo n : Nat) : Nat := (hi * 2 ^ 32 + lo) / 2 ^ (n % 64) % 2 ^ 32

def execShl (h : Hdr) (o : RegForm) (s : State) : Host.Outcome State Fault Refusal :=
  laneOp (o.view 2 5 h) (fun x l => shlVal x.ty.width (x.a l x.ty.width) (x.b l 32)) s

def execShr (h : Hdr) (o : RegForm) (s : State) : Host.Outcome State Fault Refusal :=
  laneOp (o.view 2 6 h) (fun x l => shrVal x.ty.width (x.a l x.ty.width) (x.b l 32)) s

def execSar (h : Hdr) (o : RegForm) (s : State) : Host.Outcome State Fault Refusal :=
  laneOp (o.view 2 7 h) (fun x l => sarVal x.ty.width (x.a l x.ty.width) (x.b l 32)) s

def execRot (h : Hdr) (o : RegForm) (s : State) : Host.Outcome State Fault Refusal :=
  laneOp (o.view 2 8 h) (fun x l => rotVal x.ty.width (x.a l x.ty.width) (x.b l 32)) s

def execShf (h : Hdr) (o : RegForm) (s : State) : Host.Outcome State Fault Refusal :=
  laneOp (o.view 2 9 h) (fun x l => shfVal (x.a l 32) (x.b l 32) (x.c l 32)) s

def popcVal (w a : Nat) : Nat := ((List.range w).filter fun j => a.testBit j).length
def clzVal (w a : Nat) : Nat := w - (if a % 2 ^ w = 0 then 0 else Nat.log2 (a % 2 ^ w) + 1)
def ctzVal (w a : Nat) : Nat := ((List.range w).find? fun j => a.testBit j).getD w
def brevVal (w a : Nat) : Nat := bitsOf w fun j => a.testBit (w - 1 - j)

/-- An instruction whose source has the type and whose result is one register (R173). -/
def countOp (v : View) (f : Env → Nat → Nat) (s : State) : Host.Outcome State Fault Refusal :=
  issueWord v (fun x s => .ok (x.put s 1 (f x)) v.latency) s

def execPopc (h : Hdr) (o : RegForm) (s : State) : Host.Outcome State Fault Refusal :=
  countOp (o.view 2 10 h) (fun x l => popcVal x.ty.width (x.a l x.ty.width)) s

def execClz (h : Hdr) (o : RegForm) (s : State) : Host.Outcome State Fault Refusal :=
  countOp (o.view 2 11 h) (fun x l => clzVal x.ty.width (x.a l x.ty.width)) s

def execCtz (h : Hdr) (o : RegForm) (s : State) : Host.Outcome State Fault Refusal :=
  countOp (o.view 2 12 h) (fun x l => ctzVal x.ty.width (x.a l x.ty.width)) s

def execBrev (h : Hdr) (o : RegForm) (s : State) : Host.Outcome State Fault Refusal :=
  laneOp (o.view 2 13 h) (fun x l => brevVal x.ty.width (x.a l x.ty.width)) s

/-- R174. -/
def bfeVal (t : Ty) (a ctl : Nat) : Nat :=
  let pos := ctl % 256
  let len := bits ctl 15 8
  if len = 0 || pos ≥ t.width then 0
  else
    let n := min len (t.width - pos)
    let f := a / 2 ^ pos % 2 ^ n
    if t.signed then wrap t.width (toSigned n f) else f

def bfiVal (w ins base ctl : Nat) : Nat :=
  let pos := ctl % 256
  let len := bits ctl 15 8
  if len = 0 || pos ≥ w then base else setBits base (pos + min len (w - pos) - 1) pos ins

def sextVal (w a n : Nat) : Nat := if n = 0 then 0 else if n ≥ w then a else wrap w (toSigned n a)

def execBfe (h : Hdr) (o : RegForm) (s : State) : Host.Outcome State Fault Refusal :=
  laneOp (o.view 2 14 h) (fun x l => bfeVal x.ty (x.a l x.ty.width) (x.b l 32)) s

/-- A is the inserted value, B the base and C the control (Table 6-4). -/
def execBfi (h : Hdr) (o : RegForm) (s : State) : Host.Outcome State Fault Refusal :=
  laneOp (o.view 2 15 h) (fun x l => bfiVal x.ty.width (x.a l x.ty.width) (x.b l x.ty.width) (x.c l 32)) s

/-- Byte `i` of the result (R175). -/
def prmtByte (a b c : Nat) : Nat :=
  let src := (b * 2 ^ 32 + a) / 2 ^ (8 * (c % 8)) % 256
  if c.testBit 4 then 0 else if c.testBit 3 then (if src ≥ 128 then 255 else 0) else src

def prmtVal (a b sel : Nat) : Nat :=
  ((List.range 4).map fun i => prmtByte a b (sel / 2 ^ (8 * i) % 256) * 2 ^ (8 * i)).sum

def execPrmt (h : Hdr) (o : RegForm) (s : State) : Host.Outcome State Fault Refusal :=
  laneOp (o.view 2 16 h) (fun x l => prmtVal (x.a l 32) (x.b l 32) (x.c l 32)) s

def execSext (h : Hdr) (o : RegForm) (s : State) : Host.Outcome State Fault Refusal :=
  laneOp (o.view 2 17 h) (fun x l => sextVal x.ty.width (x.a l x.ty.width) (x.b l 32)) s

end Sys2Proof.Machine
end

