-- ==== Sys2Proof/Machine/MemEvents.lean ====
section
/-! DEFINITION. Events of memory: probes, refresh, invalidation, migration, hotness and the ordered-list area (R230, R232, R238 to
R241, R258). -/

namespace Sys2Proof.Machine

/-! ### Copies in the remote-data caches (R230) -/

/-- RDC_PROBE: a die drops its copy and acknowledges. -/
def rdcProbe (d home line : Nat) (s : State) : State :=
  (s.modDie d fun x => { x with rdc := x.rdc.filter (·.line != line) }).after 120 (.probeAck home d line)

/-- PROBE_ACK: the home has one acknowledgement fewer to wait for. -/
def probeAck (home d line : Nat) (s : State) : State :=
  s.modDie home fun x => { x with probes := x.probes.erase (line, d) }

/-- DROP_NOTICE: the home clears the die's sharer bit (rule 5). -/
def dropNotice (home d line : Nat) (s : State) : State :=
  s.modDie home fun x => x.unshare d line

/-- HBM_REFRESH (R232): a bank is out for 1 to 330 cycles. -/
def hbmRefresh (d bank : Nat) (s : State) : State :=
  s.modDie d fun x => { x with refresh := putKey x.refresh bank (s.clock + 1 + Config.refreshLength d bank % 330) }

/-! ### Invalidation (R239) -/

/-- Drop the translations that satisfy `p` from every buffer; copies in flight keep theirs. -/
def State.dropTb (s : State) (p : Tb → Bool) : State :=
  let keep (x : CopyDesc) (c : Chan) : CopyDesc :=
    if x.started.isSome && !x.ended then
      { x with old := x.old ++ (s.core c.die c.core).tb.filter fun e => e.ctx == x.grp.ctx && p e && !x.old.contains e }
    else x
  { s with chans := s.chans.map fun c => { c with queue := c.queue.map fun x => keep x c }
           cores := s.cores.map fun c => { c with tb := c.tb.filter fun e => !p e } }

/-- What is to be waited for when the translations of a context that satisfy `p` are dropped. -/
def State.awaiting (s : State) (ctx : Nat) (p : Tb → Bool) : Invalidation :=
  let runs := s.engines.filterMap fun e => e.run.bind fun r => if r.job.grp.ctx % 4096 == ctx then some (max (if r.fetched then 0 else r.ends) r.wrote) else none
  ⟨ctx, s.clock, (((s.cores.flatMap (·.tb)).filter p).map fun e => (e.va, e.size)).dedup, runs.foldl max 0⟩

/-- A copy of a context still goes through a translation that has been dropped. -/
def State.oldCopies (s : State) (ctx : Nat) : Bool :=
  s.chans.any fun c => c.queue.any fun x => !x.ended && x.old.any fun e => e.ctx % 4096 == ctx

/-- Lanes whose walk was held walk again where it is held no longer. -/
def State.wakeWalks (s : State) (d : Nat) : State :=
  s.wakeWhere fun t l => t.ref.die == d && (match l.wait with
    | .walk va _ => !s.walkHeld t.grp.ctx va
    | _ => false)

/-- Prefetches of a die whose walk is held no longer are made. -/
def State.goPrefs (s : State) (d : Nat) : State :=
  let go (p : Nat × GroupRef × Nat × Nat) : Bool := !s.walkHeld p.2.1.ctx p.2.2.1
  let now := (s.die d).prefs.filter go
  now.foldl (fun s (core, g, va, evict) =>
    let (r, w, s) := s.locate d core g false va 1 1
    s.prefPlace d g evict w r) (s.modDie d fun x => { x with prefs := x.prefs.filter fun p => !go p })

/-- TRANSLATION_WALK: the walker engine of a die serves the walks that were held. -/
def translationWalk (d : Nat) (s : State) : State := (s.wakeWalks d).goPrefs d

/-- INVALIDATION_START: writes of INVGO while it is 1 are ignored. -/
def invalidationStart (d : Nat) (s : State) : State :=
  if s.fld d 0x908 32 32 == 1 then s else
  let ctx := s.fld d 0x900 59 48
  let va := s.fld d 0x900 47 12 * 4096
  let n := s.fld d 0x908 31 0
  let hit (e : Tb) : Bool := e.ctx % 4096 == ctx && (n == 0 || (e.va < va + 4096 * n && va < e.va + e.size))
  let v := s.awaiting ctx hit
  let s := ((s.dropTb hit).setFld d 0x908 32 32 1).modDie d fun x => { x with inv := some v }
  (List.range 4).foldl State.wakeWalks s

/-- An access of a context that was held at a walk at a cycle still is. -/
def State.heldSince (s : State) (ctx start : Nat) : Bool :=
  s.teams.any fun t => t.grp.ctx % 4096 == ctx && t.lanes.any fun l => match l.st, l.wait with
    | .op, .walk _ since => since ≤ start
    | _, _ => false

/-- Every access and copy that translated through dropped entries has finished (R239, R241). -/
def State.oldDone (s : State) (v : Invalidation) : Bool :=
  let old (a : LaneAcc) : Bool := s.clock < a.due && a.since ≤ v.start && (match a.va with
    | some va => v.pages.any fun p => p.1 ≤ va && va < p.1 + p.2
    | none => false)
  v.ends ≤ s.clock && !s.oldCopies v.ctx && s.teams.all fun t => t.grp.ctx % 4096 != v.ctx || t.lanes.all fun l => !l.accs.any old

/-- The invalidation of a die has nothing left to wait for (R239). -/
def State.invDone (s : State) (d : Nat) : Bool := match (s.die d).inv with
  | some v => s.oldDone v && !s.heldSince v.ctx v.start
  | none => false

/-- INVALIDATION_COMPLETE: INVGO reads 0. -/
def invalidationComplete (d : Nat) (s : State) : State :=
  if s.invDone d then (s.setFld d 0x908 32 32 0).modDie d fun x => { x with inv := none } else s

/-! ### Migration (R241) -/

/-- The leaf of a virtual address: address of its entry, size of its page, and the entry. -/
def State.leafRadix (s : State) (va : Nat) : List Nat → Nat → Option (Nat × Nat × Nat)
  | [], _ => none
  | sh :: rest, tab =>
    let a := tab + 8 * (va / 2 ^ sh % 512)
    let e := s.memVal a 8
    if !e.testBit 0 then none
    else if e.testBit 1 then some (a, if sh == 12 && e.testBit 5 then 65536 else 2 ^ sh, e)
    else s.leafRadix va rest (entryPa e)

def State.leafOf (s : State) (fmt root va : Nat) : Option (Nat × Nat × Nat) :=
  if fmt = 0 then s.leafRadix va [39, 30, 21, 12] root
  else
    let e := s.memVal (root + 8 * (va / 2 ^ 30)) 8
    if !e.testBit 0 then none
    else if e.testBit 1 then some (root + 8 * (va / 2 ^ 30), 2 ^ 30, e)
    else
      let a := entryPa e + 8 * (va / 65536 % 2 ^ 14)
      if (s.memVal a 8).testBit 0 then some (a, 65536, s.memVal a 8) else none

/-- Result of the checks of a migration: 0 and the old block, or the code of MIGERR. A block that maps no local HBM4E has nothing to move, and
is taken as not mapped (log entry 113). -/
def State.migCheck (s : State) (d : Nat) : Nat × Nat :=
  let va := s.fld d 0x910 47 16 * 65536
  let dst := s.fld d 0x918 47 16 * 65536
  match s.ctxs.find? fun c => c.id % 4096 == s.fld d 0x910 59 48 with
  | none => (2, 0)
  | some c =>
    match (s.walkAt d c.walkfmt c.ptroot (s.fld d 0x910 47 0) 0).1 with
    | .fail _ _ => (2, 0)
    | .ok pa _ size _ =>
      if size > 65536 then (1, 0)
      else if homeOf pa == none then (2, 0)
      else if homeOf dst == none || homeOf dst == homeOf pa then (3, 0)
      else (0, pa - (s.fld d 0x910 47 0 - va))

/-- MIGRATION_START: the block's walks are held and its translations dropped; or MIGERR says why nothing is moved. -/
def migrationStart (d : Nat) (s : State) : State :=
  if s.fld d 0x918 0 0 == 1 then s else
  let (err, old) := s.migCheck d
  let s := s.setFld d 0x918 3 1 err
  if err != 0 then s else
  let ctx := s.fld d 0x910 59 48
  let blk := s.fld d 0x910 47 16
  let hit (e : Tb) : Bool := e.ctx % 4096 == ctx && e.va < (blk + 1) * 65536 && blk * 65536 < e.va + e.size
  let m : Migration := ⟨ctx, blk * 65536, s.fld d 0x918 47 16 * 65536, old, s.awaiting ctx hit, none⟩
  (((s.dropTb hit).setFld d 0x918 0 0 1).modDie d fun x => { x with hold := some m }).after 0 (.migrationEnd d)

/-- Move 64 KiB of memory, with the ordered lists that stand there, and what is noted of the bytes: releases and errors go with them. -/
def State.moveBlock (s : State) (old dst : Nat) : State :=
  let inOld (a : Nat) : Bool := old ≤ a && a < old + 65536
  let m := (s.mem.filter fun c => inOld c.1).foldl (fun m c => cellPut m (c.1 - old + dst) c.2) (cellsClear s.mem dst (dst + 65536))
  let es := (s.dies.flatMap (·.ords)).filter fun e => inOld e.addr
  let rels := s.rels.flatMap fun r => if r.place == 1 then r.outside dst 65536 else [r]
  let bad := ((s.dies.flatMap (·.bad)).filter fun e => inOld (32 * e.1)).map fun e => (e.1 - old / 32 + dst / 32, e.2)
  let s := { s with
    mem := m
    rels := rels ++ (rels.filter fun r => r.place == 1 && inOld r.addr).map fun r => { r with addr := r.addr - old + dst }
    dies := s.dies.map fun x => { x with
      ords := x.ords.filter fun e => !inOld e.addr
      bad := (x.bad.filter fun e => e.1 / 2048 != dst / 65536) ++ if x.ix == dst / dieBytes then bad else [] } }
  if es.isEmpty then s else
  s.modDie (dst / dieBytes) fun x => { x with ords := x.ords ++ es.map fun e => { e with addr := e.addr - old + dst } }

/-- The stock remap routine (R236): leaves of the block that map the old physical block map `dst` instead; status 2 where there
is none. -/
def State.stockRemap (s : State) (fmt root va old dst : Nat) : Nat × State :=
  (List.range 16).foldl (fun (a : Nat × State) i =>
    match a.2.leafOf fmt root (va + 4096 * i) with
    | none => a
    | some (at_, size, e) =>
      let off := if size == 4096 then 4096 * i else 0
      let ix := if fmt == 0 && size == 65536 then at_ / 128 * 128 + 8 * i else at_
      if entryPa e != old + off then a
      else (0, a.2.devPutVal ((homeOf ix).getD 0) ix 8 (setBits e 47 12 ((dst + off) / 4096)))) (2, s)

/-- The remap routine of a format runs on a die's walker: the stock one or the firmware's (Table 8-3). -/
def State.remap (s : State) (d fmt root va old dst ctx : Nat) : Nat × State := match storeRuns (s.die d).rv fmt true with
  | some r =>
    let (st, _, _, s) := s.rvCall d (0x200 * fmt + 0x100) va root (dst / 65536) ctx 0 r
    (st.1, s)
  | none => s.stockRemap fmt root va old dst

/-- The dirty lines of a block in the home's L2 are written back, and every RDC that shares them is probed (R241); what stands in the
destination block is dropped with them. -/
def State.cleanBlock (s : State) (blk : Nat) : State :=
  { s with dies := s.dies.map fun x => { x with
      l2 := updIf x.l2 (fun l => l.line / 512 == blk) fun l => { l with dirty := 0 }
      dirs := x.dirs.filter fun e => e.1 / 512 != blk
      rdc := x.rdc.filter fun l => l.line / 512 != blk } }

/-- The remap routine of a context's format has run: its status. -/
def State.remapBlock (s : State) (d : Nat) (m : Migration) : Nat × State :=
  match s.ctxs.find? fun c => c.id % 4096 == m.ctx with
  | some c => (((s.cleanBlock (m.old / 65536)).cleanBlock (m.dst / 65536)).moveBlock m.old m.dst).remap d c.walkfmt c.ptroot m.va m.old m.dst m.ctx
  | none => (2, s)

/-- MIGRATION_END: once every access through the dropped translations has finished, the block is written back and copied, in the time of
log entry 50, and remapped, and the held walks go on. -/
def migrationEnd (d : Nat) (s : State) : State :=
  match (s.die d).hold with
  | none => s
  | some m =>
    let due := m.copy.getD (s.clock + 540 + 1024)
    if !s.oldDone m.wait then s.after 1 (.migrationEnd d)
    else if s.clock < due then (s.modDie d fun x => { x with hold := some { m with copy := some due } }).at_ due (.migrationEnd d)
    else
    let (st, s) := s.remapBlock d m
    let s := if st == 0 then s else s.setFld d 0x918 3 1 4
    let s := (s.setFld d 0x918 0 0 0).modDie d fun x => { x with hold := none }
    (List.range 4).foldl (fun s n => s.after 0 (.translationWalk n)) s

/-! ### Hotness and ordered lists -/

/-- HOTNESS_HALVING (R240): every 2^20 cycles. -/
def hotnessHalving (s : State) : State :=
  let half (x : Die) : Die := { x with hot := (x.hot.map fun e => (e.1, e.2.map (· / 2))).filter fun e => e.2.any (· != 0) }
  ({ s with dies := s.dies.map half } : State).after (2 ^ 20) .hotnessHalving

/-- ORDERED_OVERFLOW (R258): lanes that have found the area of a die full for 2^20 cycles trap. -/
def orderedOverflow (d : Nat) (s : State) : State :=
  let old (l : Lane) : Option Nat := match l.st, l.wait with
    | .op, .ordFull c va h _ => if h == d && c + 2 ^ 20 ≤ s.clock then some va else none
    | _, _ => none
  (s.lanesWhere fun _ l => (old l).isSome).foldl (fun s x => match s.team? x.1 with
    | none => s
    | some tm => (pcsOf tm x.2).foldl (fun s pc =>
        s.raise x.1 (BitVec.ofNat 48 pc) (tm.key (lowest (lanesAt tm x.2 pc)))
          ((lanesOf (lanesAt tm x.2 pc)).map fun l => (l, .simple 0x0F 0 ((old (tm.lane l)).getD 0)))) s) s

/-- ORDDROP (R258): a write discards the ordered lists of a plan RCB on the die, and lanes that wait for space go on. -/
def orddrop (d rcb : Nat) (s : State) : State :=
  ((s.setFld d 0x950 47 0 rcb).modDie d fun x => { x with ords := x.ords.filter (·.rcb != rcb) }).ordSpace d

/-! ### Their meanings -/

/-- A die's event `f`, on the state with the event gone. -/
def onDie (s : State) (d : Nat) (f : State → State) : Host.Outcome State Fault Refusal :=
  if d < 4 then .next (f { s with ev := none }) else .fault .noUnit

def execTranslationWalk (s : State) : Host.Outcome State Fault Refusal :=
  match s.ev with
  | some (.translationWalk d) => onDie s d (translationWalk d)
  | _ => .fault .noEvent
def execRdcProbe (s : State) : Host.Outcome State Fault Refusal :=
  match s.ev with
  | some (.rdcProbe d home line) => onDie s d (rdcProbe d home line)
  | _ => .fault .noEvent
def execProbeAck (s : State) : Host.Outcome State Fault Refusal :=
  match s.ev with
  | some (.probeAck home d line) => onDie s home (probeAck home d line)
  | _ => .fault .noEvent
def execDropNotice (s : State) : Host.Outcome State Fault Refusal :=
  match s.ev with
  | some (.dropNotice home d line) => onDie s home (dropNotice home d line)
  | _ => .fault .noEvent
def execHbmRefresh (s : State) : Host.Outcome State Fault Refusal :=
  match s.ev with
  | some (.hbmRefresh d bank) => onDie s d (hbmRefresh d bank)
  | _ => .fault .noEvent
def execInvalidationStart (s : State) : Host.Outcome State Fault Refusal :=
  match s.ev with
  | some (.invalidationStart d) => onDie s d (invalidationStart d)
  | _ => .fault .noEvent
def execInvalidationComplete (s : State) : Host.Outcome State Fault Refusal :=
  match s.ev with
  | some (.invalidationComplete d) => onDie s d (invalidationComplete d)
  | _ => .fault .noEvent
def execMigrationStart (s : State) : Host.Outcome State Fault Refusal :=
  match s.ev with
  | some (.migrationStart d) => onDie s d (migrationStart d)
  | _ => .fault .noEvent
def execMigrationEnd (s : State) : Host.Outcome State Fault Refusal :=
  match s.ev with
  | some (.migrationEnd d) => onDie s d (migrationEnd d)
  | _ => .fault .noEvent
def execHotnessHalving (s : State) : Host.Outcome State Fault Refusal :=
  match s.ev with
  | some .hotnessHalving => .next (hotnessHalving { s with ev := none })
  | _ => .fault .noEvent
def execOrderedOverflow (s : State) : Host.Outcome State Fault Refusal :=
  match s.ev with
  | some (.orderedOverflow d) => onDie s d (orderedOverflow d)
  | _ => .fault .noEvent
def execOrddrop (s : State) : Host.Outcome State Fault Refusal :=
  match s.ev with
  | some (.orddrop d rcb) => onDie s d (orddrop d rcb)
  | _ => .fault .noEvent

end Sys2Proof.Machine
end

