-- ==== Sys2Proof/Machine/Placement.lean ====
section
/-! DEFINITION. Placement: which die, cluster and core a gang takes, what a placed group starts with, and core shares (R70 to R79,
R89, R126, R463). -/

namespace Sys2Proof.Machine

/-! ### Gangs (R77, R128) -/

/-- Roles of a gang's groups by position: roles in ascending index, groups in order within each, with the role's index. -/
def gangRoles (rs : List Role) : List (Nat × Role) :=
  rs.zipIdx.flatMap fun (r, i) => List.replicate r.groups (i, r)

/-- Team slots, g registers and scratchpad bytes of some groups (R26). -/
def needOf (ms : List (Nat × Role)) : Nat × Nat × Nat :=
  ((ms.map fun m => m.2.teams).sum, (ms.map fun m => m.2.regs * 32 * m.2.teams).sum, (ms.map fun m => m.2.scratch * 1024).sum)

/-- Groups of a launch. -/
def Launch.count (l : Launch) : Nat := l.grid.1 * l.grid.2.1 * l.grid.2.2

/-- Groups of a stage's gang; a gang of a launch holds the groups from its first index on (log entry 37). -/
def gangOf (l : Option Launch) (st : Stage) (g : Nat) : List (Nat × Role) :=
  match l with
  | some l => (gangRoles st.roles).take (l.count - g)
  | none => gangRoles st.roles

def gangSize (st : Stage) : Nat := (gangRoles st.roles).length

/-! ### Effective values and budgets (R17, R19) -/

def State.effPlan (s : State) (c : Ctx) (rcb : Nat) : List Nat := (s.effNode c (s.effCtx c) rcb).1
/-- Effective values of a stage; a launch's stage takes its plan's (R29). -/
def State.effStage (s : State) (c : Ctx) (p : Plan) (st : Stage) : List Nat :=
  if st.srcb == p.rcb then s.effPlan c p.rcb else (s.effNode c (s.effPlan c p.rcb) st.srcb).1

/-- What a set of stages holds: cores, g registers, scratchpad bytes, and the engines of the clusters in which it owns cores
(log entry 39). R19 does not say what counts as use of CORES. DESIGN CHOICE (log entry 101): the cores owned do, so that a stage which owns
more than a lowered CORES places no gang until some of them are released. -/
def usageOf (owned : List CoreRef) (gs : List Group) : Nat × Nat × Nat × Nat :=
  (owned.length, (gs.map fun g => g.regs * 32 * g.teams).sum, (gs.map (·.alloc)).sum,
   2 * ((owned.map fun c => (c.die, c.core / 4)).dedup).length)

/-- Groups of a stage that hold resources. -/
def State.stageGroups (s : State) (p : Plan) (k : Nat) : List Group :=
  s.groups.filter fun g => g.ref.ctx == p.ctx && g.rcb == p.rcb && g.stage == k && g.teams != 0

/-- A core and the resources stay within one node's budgets. -/
def withinBudget (e : List Nat) (u : Nat × Nat × Nat × Nat) (regs scr : Nat) : Bool :=
  u.1 ≤ effCores e && u.2.1 + regs ≤ 4096 * effRegs e && u.2.2.1 + scr ≤ 1024 * effScratch e && u.2.2.2 ≤ effMxeng e

/-- Stage `k` of a plan may use core `c` of die `d` and take the resources: its own budgets, its plan's and its context's hold. -/
def State.budgetOk (s : State) (cx : Ctx) (p : Plan) (k : Nat) (st : Stage) (d c : Nat) (need : Nat × Nat × Nat) : Bool :=
  let new : List CoreRef := if st.owned.contains ⟨d, c⟩ then [] else [⟨d, c⟩]
  let plans := s.plans.filter fun q => q.ctx == p.ctx && !q.retired
  let ofCtx := usageOf (plans.flatMap (fun q => q.stages.flatMap (·.owned)) ++ new) (s.groups.filter fun g => g.ref.ctx == p.ctx)
  let ofPlan := usageOf (p.stages.flatMap (·.owned) ++ new) (s.groups.filter fun g => g.ref.ctx == p.ctx && g.rcb == p.rcb)
  let ofStage := usageOf (st.owned ++ new) (s.stageGroups p k)
  withinBudget (s.effCtx cx) ofCtx need.2.1 need.2.2 && withinBudget (s.effPlan cx p.rcb) ofPlan need.2.1 need.2.2 &&
  withinBudget (s.effStage cx p st) ofStage need.2.1 need.2.2

/-- The core share of a stage: for a launch the plan's effective CORES (R72). -/
def State.shareOf (s : State) (cx : Ctx) (p : Plan) (st : Stage) : Nat := match p.launch with
  | some _ => effCores (s.effPlan cx p.rcb)
  | none => st.share

def stageKey (p : Plan) (k : Nat) : Nat × Nat × Nat := (p.ctx, p.rcb, k)

/-! ### The choice (R73 to R76) -/

/-- Dies that a stage permits. -/
def State.permits (s : State) (st : Stage) : List Nat :=
  (List.range 4).filter fun d => (s.die d).up && (st.dies == 0 || st.dies.testBit d)

/-- A gang of the stage may go on the core: owned or claimable, and the gang fits (R72, R76 step 1, R463). -/
def State.coreFits (s : State) (cx : Ctx) (p : Plan) (k : Nat) (st : Stage) (need : Nat × Nat × Nat) (d c : Nat) : Bool :=
  let core := s.core d c
  s.workCore d c && !core.hold &&
  (core.owner == some (stageKey p k) || (core.owner.isNone && st.owned.length < s.shareOf cx p st)) &&
  (p.launch.isSome || !(s.stageGroups p k).any fun g => g.die == d && g.core == c && g.exitAt.isNone) &&
  need.1 ≤ s.freeSlots d c && need.2.1 ≤ s.freeRegs d c && (s.hole d c need.2.2).isSome && s.budgetOk cx p k st d c need

/-- The core that a gang takes on a die: the least-loaded cluster with a candidate, ties by (c − H) mod 32; in it the core with
the most free team slots (R76). -/
def State.chooseCore (s : State) (fits : Nat → Bool) (d h : Nat) : Option Nat :=
  let ks := (List.range 32).filter fun k => (List.range 4).any fun i => fits (4 * k + i)
  match leastBy (fun k => s.clusterLoad d k * 32 + (k + 32 - h % 32) % 32) ks with
  | none => none
  | some k => leastBy (fun c => 32 - s.freeSlots d c) (((List.range 4).map fun i => 4 * k + i).filter fits)

/-- Another permitted die that takes a gang whose wait has ended: the one with the fewest occupied team slots (R75). -/
def State.displacedTo (s : State) (cx : Ctx) (p : Plan) (st : Stage) (w : WaitGang) (need : Nat × Nat × Nat) : Option (Nat × Nat) :=
  let ds := (s.permits st).filter fun d => d != w.die
  let cs := ds.filterMap fun d => (s.chooseCore (s.coreFits cx p 0 st need d) d w.hash).map fun c => (d, c)
  leastBy (fun x => s.dieLoad x.1) cs

/-- Dies in the order in which a stage of a plan claims cores: the home of its first input pipe that has one, else of its first
output pipe, else the lowest it permits; then the others (R78). -/
def State.diesInOrder (s : State) (p : Plan) (k : Nat) (st : Stage) : List Nat :=
  let ps := planPipes s p.ctx p.rcb
  let ds := s.permits st
  let home := match (ps.filter fun x => x.cons == k && !x.crem && x.home.isSome).head? with
    | some x => x.home
    | none => ((ps.filter fun x => x.prod == k && !x.prem && !x.crem && x.home.isSome).head?).bind (·.home)
  match home with
  | some h => if ds.contains h then h :: ds.filter (· != h) else ds
  | none => ds

/-- Where a stage's next gang goes: dies on which it owns cores first (log entry 40). -/
def State.stageSpot (s : State) (cx : Ctx) (p : Plan) (k : Nat) (st : Stage) : Option (Nat × Nat) :=
  let need := needOf (gangOf none st 0)
  let own := sortBy id ((st.owned.map (·.die)).dedup)
  (own ++ (s.diesInOrder p k st).filter fun d => !own.contains d).findSome? fun d =>
    (s.chooseCore (s.coreFits cx p k st need d) d 0).map fun c => (d, c)

/-! ### What waits (R73, R463) -/

/-- Resident gangs of a stage. -/
def State.gangsOf (s : State) (p : Plan) (k : Nat) : Nat :=
  (((s.stageGroups p k).filter fun g => g.exitAt.isNone).map (·.gang)).dedup.length

/-- A stage has a gang waiting for placement. -/
def State.waitsFor (s : State) (p : Plan) (k : Nat) (st : Stage) : Bool := match p.launch with
  | some _ => st.open_
  | none => st.open_ && s.gangsOf p k < st.share

/-- Dispatch runs for a context: its units have started, no save stops it, and no reply has stopped the stage. -/
def dispatches (cx : Ctx) (p : Plan) (st : Stage) : Bool :=
  cx.phase == .running && !p.retired && !st.stopped

/-- Stages with their contexts and plans, by falling effective priority and then by time of RESUME (R74). -/
def State.stagesInOrder (s : State) : List (Ctx × Plan × Nat × Stage) :=
  let all : List (Ctx × Plan × Nat × Stage) := s.ctxs.flatMap fun cx =>
    ((cx.plans.filterMap fun r => s.plan? cx.id r).filter fun p => !p.retired).flatMap fun p =>
      p.stages.zipIdx.map fun (st, k) => (cx, p, k, st)
  sortBy (fun x => (7 - min 7 (effPrio (s.effStage x.1 x.2.1 x.2.2.2))) * 2 ^ 80 + x.1.resumed) all

/-- The wait of a gang has ended (R75). -/
def State.waitOver (s : State) (w : WaitGang) : Bool := w.since + s.fld w.die 0x828 15 0 ≤ s.clock

/-- Events by which gangs of a stage could be placed now. -/
def State.stageEvents (s : State) (cx : Ctx) (p : Plan) (k : Nat) (st : Stage) : List Event :=
  let r : StageRef := ⟨p.ctx, p.rcb, k⟩
  if !dispatches cx p st then [] else
  match p.launch with
  | none => if s.waitsFor p k st && (s.stageSpot cx p k st).isSome then [.gangPlace r st.serial] else []
  | some l =>
    (List.range 4).flatMap fun d => match st.waiting.find? (·.die == d) with
      | none => []
      | some w =>
        let need := needOf (gangOf (some l) st w.g)
        if (s.chooseCore (s.coreFits cx p k st need d) d w.hash).isSome then [.gangPlace r w.g]
        else if s.waitOver w && (s.displacedTo cx p st w need).isSome then [.plwaitExpiry r w.g]
        else []

/-- The next placement: the first stage in order that has one. -/
def State.placeEvent (s : State) : Option Event := s.stagesInOrder.findSome? fun x => (s.stageEvents x.1 x.2.1 x.2.2.1 x.2.2.2).head?

/-! ### Lookahead of a launch (R31, R73) -/

/-- A gang of a launch by its first group: its die and H. A group whose home die cannot be reached or is not among those that its stage
permits, of which R73 does not speak, is placed as one without a home: DESIGN CHOICE (log entry 106). -/
def State.lookUp (s : State) (cx : Ctx) (l : Launch) (st : Stage) (g : Nat) : WaitGang :=
  let ds := s.permits st
  let away (off : Bool) : WaitGang := ⟨g, ds.getD (g % ds.length) 0, s.clock, g % 32, off⟩
  if l.pnone then away false else
  let va := ((st.args.getD l.parg 0).toNat + g * 2 ^ l.ptlog) % 2 ^ 48
  match (s.walkAt cx.coord cx.walkfmt cx.ptroot va 0).1 with
  | .fail .. => away true
  | .ok pa _ _ _ => match homeOf pa with
    | some d => if ds.contains d then ⟨g, d, s.clock, bits pa 20 16, false⟩ else away false
    | none => away false

/-- Whether a gang of a launch has been placed already. -/
def Launch.has (l : Launch) (g : Nat) : Bool := l.placed.any fun x => x.1 == g

/-- Look up gangs until 256 groups stand ahead of dispatch. -/
def State.lookAhead (s : State) (cx : Ctx) (l : Launch) (st : Stage) : Nat → Stage
  | 0 => st
  | n + 1 =>
    let per := max 1 (gangSize st)
    if st.serial ≥ l.count || st.waiting.length * per ≥ 256 then st
    else
      let st' := { st with serial := st.serial + per }
      if l.has st.serial then s.lookAhead cx l st' n
      else s.lookAhead cx l { st' with waiting := st.waiting ++ [s.lookUp cx l st st.serial] } n

/-- Fill the lookahead of a plan's launch; its stage closes when no gang is left. -/
def State.fillLaunch (s : State) (ctx rcb : Nat) : State :=
  match s.ctx? ctx, s.plan? ctx rcb with
  | some cx, some p => match p.launch with
    | some l => s.modStage ctx rcb 0 fun st =>
        let x := s.lookAhead cx l st (256 + l.placed.length)
        { x with open_ := !x.waiting.isEmpty || x.serial < l.count }
    | none => s
  | _, _ => s

/-! ### A placed group (R28, R126 to R128, R227, R265, R341, R348, R353) -/

def Lane.init (entry : Addr) (horizon : Nat) : Lane :=
  { pc := entry, st := .runnable, g := List.replicate 256 0, p := 0, win := [], wait := .none, ra := none, raOld := 0, psv := false,
    pserial := 0, fserial := 0, tag := 0, ltnow := 0, horizon := horizon, relF := [], seen := [], hold := 0, wakeAt := none,
    accs := [] }

/-- Team registers at group start: arguments from k32 on (R28); the rest is log entry 6. -/
def argRegs (args : List W64) : List W32 :=
  List.replicate 32 0 ++ (List.range 16).flatMap fun n =>
    [BitVec.ofNat 32 (args.getD n 0).toNat, BitVec.ofNat 32 ((args.getD n 0).toNat / 2 ^ 32)]

def Team.init (r : TeamRef) (g : GroupRef) (ix : Nat) (entry : Addr) (args : List W64) (horizon : Nat) : Team :=
  { ref := r, grp := g, ix := ix, k := argRegs args, mask := List.replicate 8 0, arr := List.replicate 16 (0, 0), wdc := 0, plive := 0,
    yldTo := 0, freeze := none, kpend := [], wdzero := false, wddiv := false, exits := (0, 0), lanes := List.replicate 32 (Lane.init entry horizon) }

def Handle.init : Handle :=
  { st := .free, base := 0, len := 0, res := 0, wptr := 0, err := 0, closed := false, baren := false, bar := 0, outs := 0, serial := 0, ending := false,
    ring := none, stamp := 0, rstamp := 0 }

/-- A barrier at its start (R348). -/
def Bar.init (expect : Nat) : Bar :=
  { gen := 0, expect := expect, pend := none, arr := expect, carry := 0, bytes := 0, touched := false, stamp := 0, done := 0, arrs := [],
    counts := [], mems := [], asks := [] }

/-- Team slots in the order in which they are taken: ascending (s, q) (R126). -/
def slotOrder : List Nat := (List.range 8).flatMap fun i => (List.range 4).map fun q => 8 * q + i

/-- Free team slots of a core; a team that a save has stopped keeps its own. -/
def State.openSlots (s : State) (d c : Nat) : List Nat :=
  slotOrder.filter fun n => !(s.teams ++ s.sections.flatMap (·.teams)).any fun t => t.ref == ⟨d, c, n⟩

/-- Grid coordinate of a linear index (R31). -/
def gridOf (grid : Nat × Nat × Nat) (g : Nat) : Nat × Nat × Nat :=
  (g % grid.1, g / grid.1 % grid.2.1, g / grid.1 / grid.2.1)

/-- A group at its start. -/
def Group.init (r : GroupRef) (stage role : Nat) (x : Role) (pos gang d c base lim clock : Nat) (grid : Nat × Nat × Nat) : Group :=
  { ref := r, stage := stage, role := role, roleId := x.roleId, pos := pos, gang := gang, die := d, core := c, winBase := base,
    winLim := lim, alloc := x.scratch * 1024, regs := x.regs, teams := x.teams, grid := grid, handles := List.replicate 64 Handle.init,
    frames := List.replicate 16 ⟨0, 0, .empty, 0⟩, tcs := List.replicate 8 ⟨0, 0, 0, []⟩, holds := [], running := [],
    mxErr := ⟨0, 0, 0⟩, mxSer := 0, sendErr := ⟨0, 0, 0⟩, fired := [], placed := clock, exitAt := none, freeAt := none, owed := 0, stopped := false }

/-- Groups of a gang with their ranks, at the core's scratchpad bytes from `base` on. The grid coordinates of a plan stage's group are its
gang serial, its position in the gang and the stage index (Table 6-11). -/
def gangGroups (s : State) (p : Plan) (k : Nat) (ms : List (Nat × Role)) (rank0 d c base : Nat) : List Group :=
  let total := (ms.map fun m => m.2.scratch * 1024).sum
  let below (i : Nat) : Nat := ((ms.take i).map fun m => m.2.scratch * 1024).sum
  ms.zipIdx.map fun ((ri, r), i) =>
    Group.init ⟨p.ctx, p.rcb, rank0 + i⟩ k ri r i rank0 d c (base + below i) (total - below i) s.clock (match p.launch with
      | some l => gridOf l.grid (rank0 + i)
      | none => (bits rank0 55 5, i, k))

/-- Teams of a gang's groups in the free slots, one after another. -/
def gangTeams (gs : List Group) (entries : List Addr) (args : List W64) (hz d c : Nat) (slots : List Nat) : List Team :=
  let ids : List (Group × Addr × Nat) := (gs.zip entries).flatMap fun (g, a) => (List.range g.teams).map fun t => (g, a, t)
  (ids.zip slots).map fun ((g, a, t), n) => Team.init ⟨d, c, n⟩ g.ref t a args hz

/-- Barriers of a gang: b0 to b7 of each group, and b8 to b15 of the gang. -/
def gangBars (gs : List Group) : List (BarRef × Bar) :=
  let all := (gs.map (·.teams)).sum
  (gs.flatMap fun g => (List.range 8).map fun b => (BarRef.priv g.ref b, Bar.init g.teams)) ++
  match gs.head? with
  | some g => (List.range 8).map fun b => (BarRef.gang g.ref (b + 8), Bar.init all)
  | none => []

/-- The stage takes a core that no stage owns (CORE_CLAIM). Its first fixes the die of its staging queues (R300). -/
def State.claim (s : State) (p : Plan) (k d c : Nat) : State :=
  if (s.core d c).owner.isSome then s else
  let s := (s.modCore d c fun x => { x with owner := some (stageKey p k) }).modStage p.ctx p.rcb k fun st =>
    { st with owned := st.owned ++ [⟨d, c⟩] }
  ((planPipes s p.ctx p.rcb).filter fun x => x.crem && x.prod == k).foldl (fun s x => s.fixHome x.ref d) s

/-- Read the priority, budgets and rates of a plan afresh, with their CLAMP bits (R17, R19). Until now the buckets have filled at the old
rates (R86). -/
def State.readEff (s : State) (cx : Ctx) (p : Plan) : State :=
  let rates (e : List Nat) : List Nat := [6, 7, 8, 9].map fun n => e.getD n 0xFFFF
  let s := ((s.settleBuckets cx.id).clampPlan cx p).modCtx cx.id fun c => { c with rates := rates (s.effCtx cx) }
  s.modPlan p.ctx p.rcb fun q => { q with stages := q.stages.map fun st => { st with rates := rates (s.effStage cx p st) } }

/-- A new group has the timelines that a fresh image's section gives its rank, if it has one (Table 1-14, log entry 13). -/
def State.takeClocks (s : State) (g : Group) : Group := match s.group? g.ref with
  | some x => { g with tcs := x.tcs }
  | none => g

/-- Place a gang on a core: all of its groups start in this cycle (R77). -/
def State.placeGang (s : State) (cx : Ctx) (p : Plan) (k : Nat) (st : Stage) (g d c : Nat) : State :=
  let ms := gangOf p.launch st g
  let need := needOf ms
  match s.hole d c need.2.2 with
  | none => s
  | some base =>
    let s := (s.readEff cx p).claim p k d c
    let rank0 := if p.launch.isSome then g else k * 2 ^ 56 + g * 32
    let gs := (gangGroups s p k ms rank0 d c base).map s.takeClocks
    let hz := (List.range 4).foldl (fun m n => max m (s.die n).c) 0 + 1
    let ts := gangTeams gs (ms.map fun m => m.2.entry) st.args hz d c (s.openSlots d c)
    let lo := scrBase d c + base
    let others := s.groups.filter fun (x : Group) => !gs.any fun g => g.ref == x.ref
    let s := { s with groups := others ++ gs, teams := s.teams ++ ts, bars := s.bars ++ gangBars gs
                      srace := s.srace.filter fun e => !(lo ≤ 32 * e.1 && 32 * e.1 < lo + need.2.2) }
    let s := s.modStage p.ctx p.rcb k fun x => { x with
      live := x.live + gs.length, serial := if p.launch.isSome then x.serial else g + 1, waiting := x.waiting.filter (·.g != g) }
    let s := s.modPlan p.ctx p.rcb fun x => { x with
      declared := false, launch := x.launch.map fun l => { l with placed := l.placed ++ gs.map fun y => (y.ref.rank, d) } }
    if p.launch.isSome then s.fillLaunch p.ctx p.rcb
    else ((planPipes s p.ctx p.rcb).filter fun x => x.cons == k && !x.crem).foldl (fun s x => s.fixHome x.ref d) s

/-- GANG_PLACE. -/
def gangPlace (r : StageRef) (g : Nat) (s : State) : State :=
  match s.ctx? r.ctx, s.plan? r.ctx r.rcb with
  | some cx, some p =>
    let st := p.stages.getD r.stage default
    if !dispatches cx p st then s else
    match p.launch with
    | none => match s.stageSpot cx p r.stage st with
      | some (d, c) => if s.waitsFor p r.stage st then s.placeGang cx p r.stage st st.serial d c else s
      | none => s
    | some l => match st.waiting.find? (·.g == g) with
      | none => s
      | some w => match s.chooseCore (s.coreFits cx p r.stage st (needOf (gangOf (some l) st g)) w.die) w.die w.hash with
        | some c =>
          let s := if w.off then s.bump w.die 0x810 31 0 (gangOf (some l) st g).length else s
          s.placeGang cx p r.stage st g w.die c
        | none => s
  | _, _ => s

/-- PLWAIT_EXPIRY (R75): the gang goes to another die, and its groups count as displaced on the die they were homed to. A gang of unhomed
groups waits as long for the die that R74 assigns it, and counts like the others: DESIGN CHOICE (log entry 123). -/
def plwaitExpiry (r : StageRef) (g : Nat) (s : State) : State :=
  match s.ctx? r.ctx, s.plan? r.ctx r.rcb with
  | some cx, some p =>
    let st := p.stages.getD r.stage default
    if !dispatches cx p st then s else
    match st.waiting.find? (·.g == g) with
    | none => s
    | some w =>
      let ms := gangOf p.launch st g
      match s.waitOver w, s.displacedTo cx p st w (needOf ms) with
      | true, some (d, c) =>
        let s := s.bump w.die 0x808 31 0 ms.length
        let s := if w.off then s.bump d 0x810 31 0 ms.length else s
        s.placeGang cx p r.stage st g d c
      | _, _ => s
  | _, _ => s

def execGangPlace (s : State) : Host.Outcome State Fault Refusal :=
  match s.ev with
  | some (.gangPlace r g) => .next (gangPlace r g { s with ev := none })
  | _ => .fault .noEvent
def execPlwaitExpiry (s : State) : Host.Outcome State Fault Refusal :=
  match s.ev with
  | some (.plwaitExpiry r g) => .next (plwaitExpiry r g { s with ev := none })
  | _ => .fault .noEvent

/-! ### Claims and releases (R72, R78) -/

/-- Every core of a stage that has no gang waiting, and on which none of its groups stands, has no owner. -/
def State.releaseCores (s : State) : State :=
  (s.plans.filter fun p => !p.retired).foldl (fun s p => p.stages.zipIdx.foldl (fun s (st, k) =>
    if s.waitsFor p k st then s else
    let gs := s.stageGroups p k
    (st.owned.filter fun c => !gs.any fun g => g.die == c.die && g.core == c.core).foldl (fun s c =>
      (s.modCore c.die c.core fun x => { x with owner := none, hold := false }).modStage p.ctx p.rcb k fun y =>
        { y with owned := y.owned.filter (· != c) }) s) s) s

/-- Claim one core for a stage, if one is free. -/
def State.claimOne (s : State) (cx : Ctx) (p : Plan) (k : Nat) (st : Stage) : Option State :=
  (s.diesInOrder p k st).findSome? fun d =>
    let ok (c : Nat) : Bool := s.workCore d c && (s.core d c).owner.isNone && s.budgetOk cx p k st d c (0, 0, 0)
    (s.chooseCore ok d 0).map fun c => s.claim p k d c

/-- Claim cores for a stage of a plan until it owns its share (R78). -/
def State.claimShare (s : State) (ctx rcb k : Nat) : Nat → State
  | 0 => s
  | n + 1 => match s.ctx? ctx, s.plan? ctx rcb with
    | some cx, some p =>
      let st := p.stages.getD k default
      if !st.open_ || st.owned.length ≥ st.share then s else
      match s.claimOne cx p k st with
      | some s => s.claimShare ctx rcb k n
      | none => s
    | _, _ => s

/-- Stages of plans that dispatch claim towards their shares, in order. -/
def State.claimCores (s : State) : State :=
  (s.stagesInOrder.filter fun x => x.2.1.launch.isNone && dispatches x.1 x.2.1 x.2.2.2 && x.2.2.2.open_ &&
      x.2.2.2.owned.length < x.2.2.2.share).foldl (fun s x => s.claimShare x.2.1.ctx x.2.1.rcb x.2.2.1 508) s

def State.settleCores (s : State) : State := s.releaseCores.claimCores

end Sys2Proof.Machine
end

