-- ==== Sys2Proof/Machine/Retire.lean ====
section
/-! DEFINITION. Freed groups, retirement of launches, plans and contexts, the Weir, deadlock, Sluice's deferred requests, and lost
links and dies (R83 to R92, R297, R307, R445 to R449, R465). -/

namespace Sys2Proof.Machine

/-! ### Freed groups (R307, R354, R445, R446) -/

/-- Bytes of the retired-group bitmap (R92). -/
def bitmapBytes (l : Launch) : List Byte :=
  (List.range ((l.count + 7) / 8)).map fun i =>
    BitVec.ofNat 8 (((List.range 8).map fun b => if l.retired.contains (8 * i + b) then 2 ^ b else 0).sum)

/-- Headwater keeps the bitmap of a launch that has lost groups up to date (R92). -/
def State.keepBitmap (s : State) (ctx rcb : Nat) : State :=
  match (s.plan? ctx rcb).bind (·.launch) with
  | some l => match l.lost with
    | some a => s.physPut ((homeOf a).getD 0) a (bitmapBytes l)
    | none => s
  | none => s

/-- GROUP_RESOURCES_FREE: slots, registers, scratchpad and handles are free from the next cycle on. -/
def groupResourcesFree (r : GroupRef) (s : State) : State :=
  match s.group? r with
  | none => s
  | some g =>
    let s := s.bump g.die 0x4110 63 0 ((g.teams + g.owed) * (g.freeAt.getD s.clock - g.placed))
    let s := { s with teams := s.teams.filter (·.grp != r) }
    let s := s.modGroup r fun x => { x with teams := 0, owed := 0, regs := 0, alloc := 0, handles := List.replicate 64 Handle.init }
    (s.modPlan r.ctx r.rcb fun p => { p with launch := p.launch.map fun l => { l with retired := l.retired ++ [r.rank] } }).keepBitmap r.ctx r.rcb

/-- Groups whose resources are due to be freed: at the end of cycle R + 8. -/
def State.freeEvents (s : State) : List Event :=
  (s.groups.filter fun g => (g.teams != 0 || g.owed != 0) && (match g.freeAt with
    | some c => c ≤ s.clock
    | none => false)).map fun g => .groupResourcesFree g.ref

/-- Jobs or sends of a group that have not completed, a job's number among them. -/
def State.groupWorks (s : State) (g : GroupRef) : Bool :=
  (s.agenda.any fun e => match e.2 with
    | .tlSigComplete r .. => r == g
    | _ => false) ||
  (s.clusters.any fun c => c.queue.any fun j => j.grp == g) || s.setAside g ||
  (s.engines.any fun e => (match e.run with
    | some r => r.job.grp == g
    | none => false) || (match e.tail with
    | some r => r.job.grp == g
    | none => false) || e.ending.any fun x => x.1.job.grp == g) ||
  s.fab.entries.any fun e => e.grp == g

/-- A set goes free where its group has exited, or is gone, and no job of the group is left (R307). -/
def State.freeSets (s : State) : State :=
  let works (g : GroupRef) : Bool := (s.clusters.any fun c => c.queue.any fun j => j.grp == g) || s.setAside g || s.engines.any fun e =>
    (e.run.map (·.job.grp)) == some g || e.ending.any fun x => x.1.job.grp == g
  let stays (g : GroupRef) : Bool := works g || ((s.group? g).map (·.exitAt)) == some none
  let free (a : AccSet) : AccSet := match a.holder with
    | some (r, _) => if stays r then a else ⟨none, [], []⟩
    | none => a
  if s.clusters.all fun c => c.sets.all fun a => free a == a then s
  else { s with clusters := s.clusters.map fun c => { c with sets := c.sets.map free } }

/-- Forget freed groups whose jobs and sends have completed, with their barriers and bindings (R354). -/
def State.sweepGroups (s : State) : State :=
  let gs := (s.groups.filter fun g => g.teams == 0 && g.owed == 0 && g.exitAt.isSome && !s.groupWorks g.ref).map (·.ref)
  if gs.isEmpty then s else
  let gone (r : GroupRef) : Bool := gs.contains r
  let left := s.groups.filter fun g => !gone g.ref
  let barGone (b : BarRef) : Bool := match b with
    | .priv r _ => gone r
    | .gang r _ => gone r && !left.any fun g => g.ref.ctx == r.ctx && g.ref.rcb == r.rcb && g.gang == r.rank
    | .ctx _ _ => false
  { s with groups := left
           bars := s.bars.filter fun b => !barGone b.1
           binds := s.binds.filter fun b => !barGone b.who }

/-! ### Retirement of launches, plans and contexts (R447 to R449) -/

/-- Every group of a plan that has been placed has exited. -/
def State.planExited (s : State) (p : Plan) : Bool :=
  !s.groups.any fun g => g.ref.ctx == p.ctx && g.rcb == p.rcb && g.teams != 0 && g.exitAt.isNone

/-- A job or copy of a plan's groups has not completed. -/
def State.planWorks (s : State) (p : Plan) : Bool :=
  let mine (g : GroupRef) : Bool := g.ctx == p.ctx && g.rcb == p.rcb
  (s.clusters.any fun c => c.queue.any fun j => mine j.grp) ||
  (s.engines.any fun e => ([e.run, e.tail].any fun r => r.any fun x => mine x.job.grp) || e.ending.any fun x => mine x.1.job.grp) ||
  (s.chans.any fun c => c.queue.any fun x => mine x.grp && !x.past s.clock) ||
  s.sections.any fun x => x.image ≥ 2 ^ 48 && (x.jobs.any (fun j => mine j.grp) || x.chans.any fun c => c.queue.any fun y => mine y.grp)

/-- A launch is at its end (R447): every group has exited, and their jobs and copies have completed. -/
def State.launchDone (s : State) (p : Plan) : Bool := match p.launch with
  | some l => !l.over_ && !p.stages.any (·.open_) && s.planExited p && !s.planWorks p
  | none => false

/-- LAUNCH_RETIRE: its ordered lists are applied (R256). -/
def launchRetire (r : PlanRef) (s : State) : State :=
  (s.applyTargets r.ctx r.rcb none).modPlan r.ctx r.rcb fun p => { p with launch := p.launch.map fun l => { l with over_ := true } }

/-- No replica counts for a plan. -/
def State.noCounts (s : State) (ctx rcb : Nat) : Bool :=
  s.dies.all fun d => !d.repl.any fun e => e.ctx == ctx && e.rcb == rcb && e.n != 0

/-- A plan is at its end (R448). -/
def State.planDone (s : State) (p : Plan) : Bool :=
  !p.retired &&
  (match p.launch with
   | some l => l.over_
   | none => true) &&
  s.planExited p &&
  (planPipes s p.ctx p.rcb).all (fun x => x.spilled.isEmpty && x.slots.all fun y => y.st == .free) &&
  s.noCounts p.ctx p.rcb

/-- Every plan of a context has retired, and no RESUME or PREEMPT of it is in progress (R449). -/
def State.ctxDone (s : State) (c : Ctx) : Bool :=
  c.phase == .running &&
  (c.plans.all fun r => match s.plan? c.id r with
    | some p => p.retired
    | none => true)

/-- What the context's units hold goes away. -/
def State.dropCtx (s : State) (id : Nat) : State :=
  let mine (b : BarRef) : Bool := match b with
    | .priv r _ | .gang r _ => r.ctx == id
    | .ctx c _ => c == id
  let noSlots (c : Core) : Core := { c with shadow := c.shadow.filter (·.grp.ctx != id) }
  let clear (d : Die) : Die :=
    { d with buckets := d.buckets.filter (·.ctx != id), repl := d.repl.filter (·.ctx != id)
             vis := d.vis.filter (·.ctx != id), snaps := d.snaps.map fun x => (x.1, x.2.filter (·.ctx != id))
             held := d.held.filter (·.plan.ctx != id) }
  State.retryNodes { s with
    ctxs := s.ctxs.filter (·.id != id), plans := s.plans.filter (·.ctx != id), pipes := s.pipes.filter (·.ref.ctx != id)
    chunks := s.chunks.filter (·.ctx != id), cbars := s.cbars.filter (·.ctx != id), bars := s.bars.filter fun b => !mine b.1
    binds := s.binds.filter fun b => !mine b.who
    cores := s.cores.map noSlots, dies := s.dies.map clear }

/-- A number for what a context leaves behind. -/
def State.awayId (s : State) (c : Ctx) : Nat := 2 ^ 32 * (1 + s.fresh) + c.id

/-- A context and its plans, as what it leaves behind refers to them. -/
def State.awayOf (s : State) (c : Ctx) : Away :=
  ⟨{ c with id := s.awayId c }, (s.plans.filter (·.ctx == c.id)).map fun p => { p with ctx := s.awayId c }⟩

/-- Chunks without a result stay behind a context that leaves, so that a redo finds what they have kept (R408). -/
def State.leaveChunks (s : State) (c : Ctx) : State :=
  let ks := s.chunks.filter fun k => k.ctx == c.id && k.st != .result
  if ks.isEmpty then s else
  { s with
    fresh := s.fresh + 1
    chunks := s.chunks ++ ks.map fun k => { k with ctx := s.awayId c }
    aways := s.aways ++ [s.awayOf c] }

/-- What outlives a context's retirement goes on under a number of its own: groups up to their cycle R + 8 (R445), jobs, copies, sends, and
chunks under way. -/
def State.leaveUnits (s : State) (c : Ctx) : State :=
  let id := s.awayId c
  let to_ (g : GroupRef) : GroupRef := if g.ctx == c.id then GroupRef.ofCtx id g else g
  let job (j : Job) : Job := { j with grp := to_ j.grp }
  let run (r : RunJob) : RunJob := { r with job := job r.job }
  let held (a : AccSet) : AccSet := { a with holder := a.holder.map fun h => (to_ h.1, h.2) }
  let a := s.awayOf c
  { s with
    fresh := s.fresh + 1
    aways := s.aways ++ [{ a with ctx := { a.ctx with saveArea := (2 ^ 48, 0) } }]
    chunks := s.chunks.map fun k => if k.ctx == c.id && k.st != .result && !k.failed then { k with ctx := id } else k
    groups := s.groups.map fun g => { g with ref := to_ g.ref }
    teams := s.teams.map fun t => { t with grp := to_ t.grp }
    clusters := s.clusters.map fun k => { k with queue := k.queue.map job, sets := k.sets.map held }
    engines := s.engines.map fun e =>
      { e with run := e.run.map run, tail := e.tail.map run, ending := e.ending.map fun x => (run x.1, x.2) }
    chans := s.chans.map fun k => { k with queue := k.queue.map fun x => { x with grp := to_ x.grp } }
    fab := { s.fab with entries := s.fab.entries.map (fun e => { e with grp := to_ e.grp })
                        waiting := s.fab.waiting.map fun e => { e with grp := to_ e.grp } }
    agenda := s.agenda.map fun e => match e.2 with
      | .tlSigComplete g tc n st w => (e.1, .tlSigComplete (to_ g) tc n st w)
      | _ => e }

/-- Some unit still refers to what a retired context has left behind. -/
def State.leftUnits (s : State) (id : Nat) : Bool :=
  (s.groups.any (·.ref.ctx == id)) || (s.chunks.any (·.ctx == id)) || (s.chans.any fun k => k.queue.any (·.grp.ctx == id)) ||
  (s.fab.entries ++ s.fab.waiting).any (·.grp.ctx == id)

/-- Contexts that have retired: RESIDENT is cleared, the id is free, and CTXRET counts. Serials of theirs that no reply has answered
are stale from now on. -/
def State.retireCtxs (s : State) : State :=
  let s := if s.aways.isEmpty then s else
    { s with aways := s.aways.filter fun a => a.ctx.saveArea.1 != 2 ^ 48 || s.leftUnits a.ctx.id }
  (s.ctxs.filter s.ctxDone).foldl (fun s c =>
    let forget (d : Die) : Die := { d with open_ := d.open_.filter fun o => o.2.1 != c.id }
    let s := (s.setResident c 0).bump c.coord 0x4108 63 48
    (({ s with dies := s.dies.map forget } : State).leaveUnits c).dropCtx c.id) s

/-- A plan leaves the queues that wait for it, whose later releases cover its work: a FENCE with none left commits in the next cycle
(R449). -/
def State.forgetPlan (s : State) (pa rcb stamp : Nat) : State :=
  ((List.range 4).flatMap fun d => (List.range 32).map fun n => (⟨d, n⟩ : QRef)).foldl (fun s q =>
    let x := s.queue q
    if !x.plans.contains ⟨pa, rcb⟩ then s else
    let s := s.modQueue q fun y => { y with plans := y.plans.filter (· != ⟨pa, rcb⟩), horizon := max y.horizon stamp }
    if x.block == .fence && (s.queue q).plans.isEmpty then s.after 1 (.fenceCommit q) else s) s

/-- PLAN_RETIRE: slot arrays, Tideline entries and cores go; the plan counts in PLANRET. -/
def planRetire (r : PlanRef) (s : State) : State :=
  match s.ctx? r.ctx, s.plan? r.ctx r.rcb with
  | some c, some p =>
    if !s.planDone p then s else
    let mine (e : TlEntry) : Bool := e.ctx == r.ctx && e.rcb == r.rcb
    let freeCore (x : Core) : Core := match x.owner with
      | some (a, b, _) => if a == r.ctx && b == r.rcb then { x with owner := none, hold := false } else x
      | none => x
    let clear (d : Die) : Die :=
      { d with repl := d.repl.filter (fun e => !mine e), vis := d.vis.filter (fun e => !mine e)
               snaps := d.snaps.map fun x => (x.1, x.2.filter fun e => !mine e)
               stamps := d.stamps.filter fun x => x.1 != planKey r }
    let idle (st : Stage) : Stage := { st with owned := [], open_ := false, waiting := [] }
    let s := { s with pipes := s.pipes.filter fun x => !(x.ref.ctx == r.ctx && x.ref.rcb == r.rcb)
                      cores := s.cores.map freeCore, dies := s.dies.map clear }
    let s := s.modPlan r.ctx r.rcb fun p => { p with retired := true, stages := p.stages.map idle }
    let s := s.bump c.coord 0x4108 47 32
    s.retryNodes.forgetPlan (s.rcbPa c) r.rcb p.stamp
  | _, _ => s

/-- Retirements that are due, launches before plans: a drain before a force cycle does not withhold them. -/
def State.retireEvents (s : State) : List Event :=
  let ps := s.plans.filter fun p => !p.retired && match s.ctx? p.ctx with
    | some c => (match c.phase with
      | .running | .draining _ => true
      | _ => false)
    | none => false
  ((ps.filter s.launchDone).map fun p => .launchRetire ⟨p.ctx, p.rcb⟩) ++ (ps.filter s.planDone).map fun p => .planRetire ⟨p.ctx, p.rcb⟩

def execGroupResourcesFree (s : State) : Host.Outcome State Fault Refusal :=
  match s.ev with
  | some (.groupResourcesFree g) => .next (groupResourcesFree g { s with ev := none })
  | _ => .fault .noEvent
def execLaunchRetire (s : State) : Host.Outcome State Fault Refusal :=
  match s.ev with
  | some (.launchRetire p) => .next (launchRetire p { s with ev := none })
  | _ => .fault .noEvent
def execPlanRetire (s : State) : Host.Outcome State Fault Refusal :=
  match s.ev with
  | some (.planRetire p) => .next (planRetire p { s with ev := none })
  | _ => .fault .noEvent

/-! ### The Weir (R83 to R85, R465) -/

/-- Cycles between two samples of a plan. -/
def Plan.sampleGap (p : Plan) : Nat := 2 ^ p.wint / 64

/-- WEIR_SAMPLE: FILLED of each pipe is added up, 64 times in an interval; a pipe with no home counts 0. -/
def weirSample (r : PlanRef) (s : State) : State :=
  match s.plan? r.ctx r.rcb with
  | none => s
  | some p =>
    if p.retired then s else
    let add (l : List (Nat × Nat)) (x : Pipe) : List (Nat × Nat) :=
      putKey l x.ref.w (lookD l x.ref.w 0 + if x.home.isSome then x.filled else 0)
    let s := s.modPlan r.ctx r.rcb fun y => { y with samples := (planPipes s r.ctx r.rcb).foldl add y.samples }
    if (s.clock - p.started) / p.sampleGap % 64 == 63 then s.after p.sampleGap (.weirIntervalEnd r)
    else s.after p.sampleGap (.weirSample r)

/-- Input pipes of a stage on this device, and its output pipes. -/
def inPipes (ps : List Pipe) (k : Nat) : List Pipe := ps.filter fun x => x.cons == k && !x.crem
def outPipes (ps : List Pipe) (k : Nat) : List Pipe := ps.filter fun x => x.prod == k && !x.prem

/-- Slots that a pipe's end on this device has. -/
def Pipe.capacity (p : Pipe) : Nat := if p.crem then p.staging else p.depth

/-- floor(16 × mean filled / total depth) over some pipes. -/
def fullness (samples : List (Nat × Nat)) (ps : List Pipe) : Nat :=
  16 * (ps.map fun x => lookD samples x.ref.w 0).sum / (64 * (ps.map (·.capacity)).sum)

/-- Pressure of a stage; none where it has no pipe. -/
def pressure (samples : List (Nat × Nat)) (ps : List Pipe) (k : Nat) : Option Nat :=
  if !(inPipes ps k).isEmpty then some (fullness samples (inPipes ps k))
  else if !(outPipes ps k).isEmpty then some (16 - fullness samples (outPipes ps k))
  else none

/-- Receiver and donor of a move, if one is made (R84 steps 1 to 3): neither is a stopped stage (R426). -/
def weirPair (p : Plan) (ps : List Pipe) : Option (Nat × Nat) :=
  let ks : List (Nat × Stage × Nat) := (p.stages.zipIdx.filter fun x => !x.1.stopped).filterMap fun (st, k) => (pressure p.samples ps k).map fun x => (k, st, x)
  match leastBy (fun x => 16 - x.2.2) (ks.filter fun x => x.2.1.share < x.2.1.max) with
  | none => none
  | some to_ =>
    match leastBy (fun x => x.2.2 * 16 + (15 - x.1)) (ks.filter fun x => x.2.1.share > x.2.1.min && x.1 != to_.1 && !x.2.1.gotCore) with
    | none => none
    | some from_ => if to_.2.2 - from_.2.2 > p.whyst then some (to_.1, from_.1) else none

/-- The core that a donor gives (R84 step 4). -/
def State.donorCore (s : State) (p : Plan) (ps : List Pipe) (to_ from_ : Nat) : Option CoreRef :=
  let ok := s.permits (p.stages.getD to_ default)
  let cs := (p.stages.getD from_ default).owned.filter fun c => ok.contains c.die
  let full := leastBy (fun x => 2 ^ 30 - lookD p.samples x.ref.w 0) ((inPipes ps to_).filter (·.home.isSome))
  let near := match full with
    | some x => cs.filter fun c => x.home == some c.die
    | none => []
  let pool := if near.isEmpty then cs else near
  let teams (c : CoreRef) : Nat := (((s.stageGroups p from_).filter fun g => g.die == c.die && g.core == c.core && g.exitAt.isNone).map (·.teams)).sum
  leastBy (fun c => teams c * 512 + c.die * 128 + c.core) pool

/-- A core passes from donor to receiver (WEIR_MOVE). -/
def State.weirMove (s : State) (cx : Ctx) (p : Plan) (to_ from_ : Nat) (c : CoreRef) : State :=
  let busy := (s.stageGroups p from_).any fun g => g.die == c.die && g.core == c.core && g.exitAt.isNone
  let s := s.modCore c.die c.core fun x => { x with owner := some (stageKey p to_), hold := busy }
  let s := s.modStage p.ctx p.rcb from_ fun x => { x with owned := x.owned.filter (· != c), share := x.share - 1 }
  let s := s.modStage p.ctx p.rcb to_ fun x => { x with owned := x.owned ++ [c], share := x.share + 1, gotCore := true }
  s.bump cx.coord 0x800 31 0

/-- The Weir of a plan may move a core: not while WFREEZE, a drain, a deadlock spill, or a save of the context. -/
def weirMoves (cx : Ctx) (p : Plan) : Bool := !p.wfreeze && !p.draining && !p.spilling && cx.phase == .running

/-- WEIR_INTERVAL_END: at most one core moves, and the next interval begins. -/
def weirIntervalEnd (r : PlanRef) (s : State) : State :=
  match s.ctx? r.ctx, s.plan? r.ctx r.rcb with
  | some cx, some p =>
    if p.retired then s else
    let ps := planPipes s r.ctx r.rcb
    let s := s.modPlan r.ctx r.rcb fun x => { x with samples := [], stages := x.stages.map fun st => { st with gotCore := false } }
    let s := if !weirMoves cx p then s else match weirPair p ps with
      | none => s
      | some (to_, from_) => match s.donorCore p ps to_ from_ with
        | some c => s.weirMove cx p to_ from_ c
        | none => s
    s.after 0 (.weirSample r)
  | _, _ => s

def execWeirSample (s : State) : Host.Outcome State Fault Refusal :=
  match s.ev with
  | some (.weirSample p) => .next (weirSample p { s with ev := none })
  | _ => .fault .noEvent
def execWeirIntervalEnd (s : State) : Host.Outcome State Fault Refusal :=
  match s.ev with
  | some (.weirIntervalEnd p) => .next (weirIntervalEnd p { s with ev := none })
  | _ => .fault .noEvent

/-! ### Deadlock (R297) -/

/-- Lanes of a plan's groups. -/
def State.planLanes (s : State) (p : Plan) : List Lane :=
  (s.teams.filter fun t => t.grp.ctx == p.ctx && t.grp.rcb == p.rcb).flatMap (·.lanes)

def Wait.onPipe (w : Wait) : Bool := match w with
  | .pipe _ | .pipeHome _ => true
  | _ => false

/-- A copy, job or cross-device transfer of a plan is in flight; a staging tile that waits for credit is none. -/
def State.planMoves (s : State) (p : Plan) : Bool :=
  let mine (g : GroupRef) : Bool := g.ctx == p.ctx && g.rcb == p.rcb
  (s.chans.any fun c => c.queue.any fun x => mine x.grp) ||
  (s.clusters.any fun c => c.queue.any fun j => mine j.grp) ||
  (s.engines.any fun e => match e.run with
    | some r => mine r.job.grp
    | none => false) ||
  (s.fab.entries.any fun e => mine e.grp && !e.isMsg) ||
  (planPipes s p.ctx p.rcb).any fun x => x.crem && ((x.slots.any fun y => y.st == .taken && y.holder.isNone) || x.spilled.any fun y => y.gone && y.holder.isNone)

/-- A gang of a stage waits while a core is free for it (R297 condition 4). -/
def State.couldPlace (s : State) (cx : Ctx) (p : Plan) (k : Nat) (st : Stage) : Bool :=
  let need := needOf (gangOf none st 0)
  s.waitsFor p k st && (s.permits st).any fun d => (List.range 128).any fun c =>
    s.coreFits cx p k st need d c && !(s.stageGroups p k).any fun g => g.die == d && g.core == c

/-- Conditions 2 to 4 of R297 hold. -/
def State.deadlocked (s : State) (cx : Ctx) (p : Plan) : Bool :=
  let ls := s.planLanes p
  ls.all (fun l => l.st != .runnable) && ls.any (fun l => l.st == .op && l.wait.onPipe) && !s.planMoves p &&
  !p.stages.zipIdx.any fun (st, k) => s.couldPlace cx p k st

/-- Plans that a Weir watches. -/
def State.weirPlans (s : State) : List (Ctx × Plan) :=
  s.plans.filterMap fun p => match s.ctx? p.ctx with
    | some c => if p.launch.isNone && !p.retired && c.phase == .running then some (c, p) else none
    | none => none

/-- The end of a cycle, for deadlocks: a quiet count that is broken starts again, and a finished spill is noted. -/
def State.deadlockTick (s : State) : State :=
  s.weirPlans.foldl (fun s (cx, p) =>
    let ps := planPipes s p.ctx p.rcb
    let s := if p.spilling && !ps.any (fun x => x.toSpill > 0 || x.slots.any fun y => y.st == .spilling) then
        s.modPlan p.ctx p.rcb fun x => { x with spilling := false }
      else s
    if s.deadlocked cx p then s else
    let run := (s.planLanes p).any fun l => l.st == .runnable
    s.modPlan p.ctx p.rcb fun x => { x with quiet := s.clock, declared := x.declared && !run }) s

/-- Deadlocks that are due for declaration. -/
def State.deadlockEvents (s : State) : List Event :=
  (s.weirPlans.filter fun (cx, p) => !p.declared && p.quiet + 2 ^ p.wdlk ≤ s.clock && s.deadlocked cx p).map fun x =>
    .deadlockDeclaration ⟨x.2.ctx, x.2.rcb⟩

/-- DEADLOCK_DECLARATION: a spill of the deepest pipe with FREE = 0 that has room in its slice, or the plan fault. Where that pipe has no
available tile nothing moves, and the quiet count starts again all the same (log entry 83). -/
def deadlockDeclaration (r : PlanRef) (s : State) : State :=
  match s.ctx? r.ctx, s.plan? r.ctx r.rcb with
  | some cx, some _ =>
    let s := s.bump cx.coord 0xA18 15 0
    let ps := (planPipes s r.ctx r.rcb).filter fun x => x.free == 0 && x.freePos.isSome
    match leastBy (fun (x : Pipe) => (512 - x.depth) * 64 + x.ref.w) ps with
    | some x => (s.spill x.ref x.filled).modPlan r.ctx r.rcb fun p => { p with quiet := s.clock, spilling := true }
    | none => (s.unitRec cx.coord 0x30 r.ctx 1 (BitVec.ofNat 64 r.rcb) 0 (.plan r.rcb)).modPlan r.ctx r.rcb fun p => { p with declared := true }
  | _, _ => s

def execDeadlockDeclaration (s : State) : Host.Outcome State Fault Refusal :=
  match s.ev with
  | some (.deadlockDeclaration p) => .next (deadlockDeclaration p { s with ev := none })
  | _ => .fault .noEvent

/-! ### Sluice's deferred requests (R87) -/

def execSluiceDeferredServe (s : State) : Host.Outcome State Fault Refusal :=
  match s.ev with
  | some (.sluiceDeferredServe d) => onDie s d (sluiceDeferredServe d)
  | _ => .fault .noEvent

/-! ### Lost links and dies (R90 to R92) -/

/-- Units of the groups that satisfy `p` are lost: teams, copies, jobs, sends, shadow slots and barriers. -/
def State.loseGroups (s : State) (p : GroupRef → Bool) : State :=
  let lostRun (r : Option RunJob) : Option RunJob := match r with
    | some x => if p x.job.grp then none else some x
    | none => none
  let freeSet (a : AccSet) : AccSet := match a.holder with
    | some (r, _) => if p r then ⟨none, [], []⟩ else a
    | none => a
  let gone := (s.teams.filter fun t => p t.grp).map (·.ref)
  { s with
    groups := s.groups.filter fun g => !p g.ref, teams := s.teams.filter fun t => !p t.grp
    chans := s.chans.map fun c => { c with queue := c.queue.filter fun x => !p x.grp }
    clusters := s.clusters.map fun c => { c with queue := c.queue.filter (fun j => !p j.grp), sets := c.sets.map freeSet }
    engines := s.engines.map fun e => { e with run := lostRun e.run, tail := lostRun e.tail }
    cores := s.cores.map fun c => { c with shadow := c.shadow.filter fun x => !p x.grp }
    bars := s.bars.filter fun b => match b.1 with
      | .priv r _ | .gang r _ => !p r
      | .ctx _ _ => true
    fab := { s.fab with entries := s.fab.entries.filter fun e => !p e.grp }
    issues := s.issues.filter fun i => !gone.contains i.team, chosen := s.chosen.filter fun i => !gone.contains i.team }

/-- The lowest-numbered die that is up other than `d`, or `d` itself. -/
def State.anotherDie (s : State) (d : Nat) : Nat := ((List.range 4).find? fun n => n != d && (s.die n).up).getD d

/-- The dies that are down, as a mask. -/
def State.lostMask (s : State) : Nat := ((List.range 4).map fun d => if (s.die d).up then 0 else 2 ^ d).sum

/-- A launch loses its groups on a die: nothing more of it is placed, and the partial-launch record says what had retired
(Table 3-3). Which page of a reachable die the bitmap takes is open (log entry 3). -/
def State.partialLaunch (s : State) (c : Ctx) (p : Plan) (l : Launch) (d : Nat) : State :=
  let to_ := if c.coord == d || !(s.die c.coord).up then s.anotherDie d else c.coord
  let at_ := to_ * dieBytes + Config.freeNat s.fresh % ((dieBytes - l.count / 8) / 4096) * 4096
  let n := l.retired.dedup.length
  let s := ({ s with fresh := s.fresh + 1 } : State).modPlan p.ctx p.rcb fun x => { x with
    launch := some { l with lost := some at_, over_ := true }
    stages := x.stages.map fun st => { st with waiting := [], open_ := false, serial := l.count } }
  let s := (s.keepBitmap p.ctx p.rcb).forgetPlan (s.rcbPa c) p.rcb p.stamp
  s.unitRec to_ 0x31 c.id 0 0 0 (.plan p.rcb)
    [BitVec.ofNat 64 (0x31 + c.id % 4096 * 2 ^ 16 + s.lostMask * 2 ^ 28), BitVec.ofNat 64 p.rcb, BitVec.ofNat 64 at_,
     BitVec.ofNat 64 (l.count % 2 ^ 32 + n % 2 ^ 32 * 2 ^ 32)]

/-- A plan has a stage core or a pipe home on a die. -/
def State.planOn (s : State) (p : Plan) (d : Nat) : Bool :=
  p.stages.any (fun st => st.owned.any (·.die == d)) || (planPipes s p.ctx p.rcb).any fun x => x.home == some d

/-- What the loss of a die does to one plan (R91). The detail of its plan fault is open. -/
def State.planLoses (s : State) (d : Nat) (p : Plan) : State :=
  match s.ctx? p.ctx, p.launch with
  | some c, some l => if p.retired || l.over_ || !l.placed.any fun x => x.2 == d then s else s.partialLaunch c p l d
  | some c, none =>
    if p.retired || !s.planOn p d then s else
    let to_ := if c.coord == d then s.anotherDie d else c.coord
    let w := (Config.freeWord s.fresh).setWidth 32
    ({ s with fresh := s.fresh + 1 } : State).unitRec to_ 0x30 c.id w (BitVec.ofNat 64 p.rcb) 0 (.plan p.rcb)
  | none, _ => s

/-- No stage owns a core of a die any longer (R72). -/
def State.disown (s : State) (d : Nat) : State :=
  let keep (st : Stage) : Stage := { st with owned := st.owned.filter (·.die != d) }
  { s with cores := updIf s.cores (·.die == d) fun x => { x with owner := none, hold := false }
           plans := s.plans.map fun p => { p with stages := p.stages.map keep } }

/-- DIE_UNREACHABLE (R91). -/
def dieUnreachable (d : Nat) (s : State) : State :=
  if !(s.die d).up then s else
  let s := s.modDie d fun x => { x with up := false }
  let ps := s.plans
  let here := (s.groups.filter (·.die == d)).map (·.ref)
  let s := s.loseGroups fun g => here.contains g
  let s := { s with teams := s.teams.filter (·.ref.die != d) }
  (ps.foldl (fun s p => s.planLoses d p) s).disown d

/-- DIE_LINK_FAIL (R90): traffic between the dies takes another way; a die with no link left is unreachable. -/
def dieLinkFail (a b : Nat) (s : State) : State :=
  if a == b then s else
  let s := s.modDie a fun x => { x with links := setBits x.links b b 0 }
  let s := s.modDie b fun x => { x with links := setBits x.links a a 0 }
  let alone (d : Nat) : Bool := (List.range 4).all fun n => n == d || !s.linkUp d n
  let s := if alone a then s.after 0 (.dieUnreachable a) else s
  if alone b then s.after 0 (.dieUnreachable b) else s

def execDieLinkFail (s : State) : Host.Outcome State Fault Refusal :=
  match s.ev with
  | some (.dieLinkFail a b) => if a < 4 && b < 4 then .next (dieLinkFail a b { s with ev := none }) else .fault .noUnit
  | _ => .fault .noEvent
def execDieUnreachable (s : State) : Host.Outcome State Fault Refusal :=
  match s.ev with
  | some (.dieUnreachable d) => onDie s d (dieUnreachable d)
  | _ => .fault .noEvent

end Sys2Proof.Machine
end

