-- ==== Sys2Proof/Machine/Preempt.lean ====
section
/-! DEFINITION. Saving a context: the drain, the force cycle, the quiesce and the image (R430 to R433, R264, R323, R352, R382, R408). -/

namespace Sys2Proof.Machine

/-! ### The drain (R430 steps 1 to 3) -/

/-- Some group of the context holds resources. -/
def State.ctxResident (s : State) (ctx : Nat) : Bool := s.groups.any fun g => g.ref.ctx == ctx && g.teams != 0

/-! ### What completes at the force cycle (Table 14-7) -/

/-- An effect that is on its way to a unit of the context and that the save completes. -/
def State.lands (s : State) (ctx : Nat) (e : Event) : Bool :=
  let ofTeam (t : TeamRef) : Bool := match s.team? t with
    | some x => x.grp.ctx == ctx
    | none => false
  match e with
  | .lookaheadResult t .. => ofTeam t
  | .cfetchLanded g .. | .deliveryCount g .. | .engineArrival g .. | .tlSigComplete g .. => g.ctx == ctx
  | .outCopyEnd d c i => (s.chan d c i).queue.any fun x => x.grp.ctx == ctx
  | .jobLastRead d c e => match (s.engine d (2 * c + e)).tail with
    | some r => r.job.grp.ctx == ctx
    | none => false
  | .tidelineBatchApply _ b => b.plan.ctx == ctx
  | .taskVerdictReturn r => r.ctx == ctx
  | .pipeCounterChange p _ => p.ctx == ctx
  | _ => false

/-- Have such an effect now. -/
def State.land (s : State) (e : Event) : State := match e with
  | .lookaheadResult t m pc => lookaheadResult t m pc s
  | .cfetchLanded g f n => cfetchLanded g f n s
  | .deliveryCount g h ser n st => deliveryCount g h ser n st s
  | .engineArrival g b e st => engineArrival g b e st s
  | .tlSigComplete g tc n st _ => tlSigComplete g tc n st none s
  | .outCopyEnd d c i => outCopyEnd d c i s
  | .jobLastRead d c e => jobLastRead d c e s
  | .tidelineBatchApply d b => tidelineBatchApply d b s
  | .taskVerdictReturn r => taskVerdictReturn r s
  | .pipeCounterChange p c => pipeCounterChange p c s
  | _ => s

/-- Jobs of the context that wait for their last writes complete (R317): a save finds every write performed. -/
def State.landEnds (s : State) (ctx : Nat) : State :=
  s.engines.foldl (fun s e =>
    let mine (x : RunJob × List Nat) : Bool := x.1.job.grp.ctx == ctx
    (e.ending.filter mine).foldl (fun s x => s.jobEnd x.1.job x.2 s.clock)
      (s.modEngine e.die e.ix fun y => { y with ending := y.ending.filter fun x => !mine x })) s

/-- Complete the effects on their way, with those that they lead to, in the order in which they were due. -/
def State.landAll (s : State) (ctx : Nat) : Nat → State
  | 0 => s
  | n + 1 =>
    let es := sortBy (fun (x : Nat × Event) => x.1) (s.agenda.filter fun x => s.lands ctx x.2)
    if es.isEmpty then s else
    let s := s.cancel (s.lands ctx)
    (es.foldl (fun s x => s.land x.2) s).landAll ctx n

/-- An engine stops at its next step (R323): one between steps now, one that runs a step when that has ended. -/
def State.haltRun (s : State) (d c : Nat) (r : RunJob) : State :=
  if r.fetched && r.stopped.isNone then s else
  ((s.cancel (· == .jobComplete d c (r.engines.headD 0))).countBusy d c r).setRun d c r.engines (some { r with drawn := false })

/-- Engines with a job of the context, each by the first of its engines. -/
def State.runsOf (s : State) (ctx : Nat) : List (Nat × Nat × RunJob) :=
  s.engines.filterMap fun e => match e.run with
    | some r => if r.job.grp.ctx == ctx && e.ix % 2 == r.engines.headD 0 then some (e.die, e.ix / 2, r) else none
    | none => none

/-- The wait of a stopped lane: a sleep keeps the cycles that it has left (R162). -/
def Wait.left (w : Wait) (clock : Nat) : Wait := match w with
  | .sleep n => .sleep (n - clock)
  | w => w

/-- A team stops: its results are written, and its sleeps are counted from the cycle in which it goes on. -/
def Team.halt (t : Team) (clock : Nat) : Team :=
  { (t.flushK fun _ => true) with lanes := t.lanes.map fun l => { l with win := [], wakeAt := none, wait := l.wait.left clock } }

/-- An entry whose frames on a plane may be lost: they are sent again (R399). -/
def SendEntry.halt (e : SendEntry) : SendEntry := { e with lost := e.lost ++ e.flight.map (·.1), flight := [], drawn := false }

def Section.empty (image stype unit : Nat) : Section :=
  { image := image, stype := stype, unit := unit, bytes := [], stamp := 0, teams := [], shadows := [], plans := [], shares := [], tasks := [], ready := [],
    entries := [], held := [], roots := [], pipes := [], groups := [], bars := [], binds := [], cbars := [], chunks := [], scratch := [], jobs := [],
    runs := [], sets := [], engines := [], chans := [], entries2 := [], replies := [] }

def State.pending (s : State) (ctx : Nat) : Section :=
  (s.sections.find? fun x => x.image == heldMark ctx).getD (Section.empty (heldMark ctx) 0 0)

/-- Completions by exited groups that are on their way to the queue's node are made: no lane is left to make them again (R381). -/
def State.landImplied (s : State) (ctx : Nat) : State :=
  match s.ctx? ctx with
  | none => s
  | some c =>
    let (ready, s) := (c.msgs.filter (·.implied.isSome)).foldl (fun (a : List Nat × State) m => match m.req with
      | .done n => a.2.doneTask m n a.1
      | _ => a) ([], s)
    (sortBy id ready).foldl (fun s n => (s.enqueueTask ctx n).bump c.coord 0xD10 31 0) s

/-- Every unit of the context stops (Table 14-7). Its teams, channels, queued jobs and sends stand aside; requests that have not been
served are forgotten, since their lanes execute the instruction again. -/
def State.haltUnits (s : State) (ctx : Nat) : State :=
  let s := (s.landEnds ctx).landAll ctx 16
  let s := (s.runsOf ctx).foldl (fun s x => s.haltRun x.1 x.2.1 x.2.2) s
  let s := (s.landImplied ctx).landAll ctx 16
  let mine (g : GroupRef) : Bool := g.ctx == ctx
  let gone := (s.teams.filter fun t => mine t.grp).map (·.ref)
  let rest (c : Chan) : Chan := { c with queue := c.queue.filter fun x => !mine x.grp }
  let ended := (s.chans.flatMap (·.queue)).filter fun x => mine x.grp && x.ended
  let unasked (c : Core) : Core := { c with shadow := updIf c.shadow (fun x => mine x.grp) fun x => { x with asked := none } }
  let aside (c : Chan) : Chan := { c with queue := c.queue.filter fun x => mine x.grp && !x.ended }
  let other (c : Cluster) : Cluster := { c with queue := c.queue.filter fun j => !mine j.grp }
  let still (x : Pipe) : Pipe := if x.ref.ctx == ctx then
      { x with queue := [], toSpill := if x.slots.any fun y => y.st == .spilling then 1 else 0 }
    else x
  let quiet (d : Die) : Die := { d with sending := d.sending.filter fun x => x.ctx != ctx }
  let save : Section := { Section.empty (heldMark ctx) 0 0 with
    teams := (s.teams.filter fun t => mine t.grp).map fun t => t.halt s.clock
    chans := (s.chans.map aside).filter fun c => !c.queue.isEmpty
    jobs := s.clusters.flatMap fun c => c.queue.filter fun j => mine j.grp
    entries2 := ((s.fab.entries ++ s.fab.waiting).filter fun e => mine e.grp && e.isSend).map SendEntry.halt }
  let s : State := { s with
    teams := s.teams.filter fun t => !mine t.grp, chans := s.chans.map rest, clusters := s.clusters.map other
    pipes := s.pipes.map still, dies := s.dies.map quiet, cores := s.cores.map unasked
    fab := { s.fab with entries := s.fab.entries.filter (fun e => !(mine e.grp && e.isSend))
                        waiting := s.fab.waiting.filter fun e => !(mine e.grp && e.isSend) }
    issues := s.issues.filter fun i => !gone.contains i.team, chosen := s.chosen.filter fun i => !gone.contains i.team
    ctxs := updIf s.ctxs (·.id == ctx) fun c => { c with msgs := [], takes := [], phase := .forcing s.clock }
    sections := s.sections ++ [save] }
  ended.foldl (fun s x => match x.pipe with
    | some (p, slot, sp) => s.pipeDone p slot sp
    | none => s) s

/-- DRAIN_END: the context has left its cores, or the time is up and a force cycle is named. -/
def drainEnd (ctx : Nat) (s : State) : State :=
  match s.ctx? ctx with
  | none => s
  | some c => match c.phase with
    | .draining ends =>
      if !s.ctxResident ctx then (s.bump c.coord 0x4020 63 32).haltUnits ctx
      else if ends ≤ s.clock then
        ((s.bump c.coord 0x4020 31 0).modCtx ctx fun x => { x with phase := .forcing (s.clock + 200) }).after 200 (.forceCycle ctx)
      else s
    | _ => s

/-- FORCE_CYCLE. -/
def forceCycle (ctx : Nat) (s : State) : State :=
  match s.ctx? ctx with
  | some c => match c.phase with
    | .forcing f => if f ≤ s.clock then s.haltUnits ctx else s
    | _ => s
  | none => s

/-- Contexts whose drain ends because no group is left. -/
def State.drainEvents (s : State) : List Event :=
  (s.ctxs.filter fun c => match c.phase with
    | .draining _ => !s.ctxResident c.id
    | _ => false).map fun c => .drainEnd c.id

/-! ### Section bodies (R432, R433, Table 14-9) -/

/-- A part of a section's body: bytes that a table lays out, or items of a kind of the section, `n` units of them, whose layout Table 14-9
leaves open (log entry 13). -/
inductive Part where
  | laid (bs : List Byte)
  | free (kind n : Nat)
  deriving DecidableEq, Repr, Inhabited

/-- A section to be written: what it records, and the parts of its body in the order of Table 14-8 or 14-9. -/
structure Piece where
  sec   : Section
  parts : List Part
  deriving DecidableEq, Repr, Inhabited

/-- The UNIT field: die and index within the die. -/
def unitOf (d i : Nat) : Nat := d * 2 ^ 14 + i

/-- The largest DONE and STAMP of the context's barriers and horizon of its lanes (Table 14-9, for M of R341). -/
def State.savedStamp (s : State) (ctx : Nat) : Nat :=
  let mine (b : BarRef) : Bool := match b with
    | .priv r _ | .gang r _ => r.ctx == ctx
    | .ctx c _ => c == ctx
  let bs := (s.bars.filter fun b => mine b.1).flatMap fun b => [b.2.stamp, b.2.done]
  let ls := (s.pending ctx).teams.flatMap fun t => t.lanes.map (·.horizon)
  (bs ++ ls).foldl max 0

/-- Unwritten counters of tasks are written back to memory (R44). -/
def State.writeTasks (s : State) (c : Ctx) : State := c.tasks.foldl (fun s t => s.writeBack c.coord c.id t t.st) s

/-- The groups of a gang, itself among them. -/
def Group.gangOf (g : Group) (gs : List Group) : List Group := gs.filter fun x => x.rcb == g.rcb && x.gang == g.gang && x.stage == g.stage

/-- Section of a group: its barriers, bindings, shadow slots and scratchpad bytes. What the gang shares goes with that of its groups `gs`
which stands at the lowest position. -/
def State.groupPiece (s : State) (gs : List Group) (g : Group) : Section :=
  let first := (g.gangOf gs).all fun x => g.pos ≤ x.pos
  let mine (b : BarRef) : Bool := match b with
    | .priv r _ => g.ref == r
    | .gang r _ => first && g.rcb == r.rcb && g.ref.ctx == r.ctx && g.gang == r.rank
    | .ctx _ _ => false
  let lo := scrBase g.die g.core + g.winBase
  { Section.empty 0 0x20 (unitOf g.die g.core) with
    groups := [{ g with tcs := [] }], bars := s.bars.filter fun b => mine b.1, binds := s.binds.filter fun b => mine b.who
    scratch := s.scratch.filter fun x => lo ≤ x.1 && x.1 < lo + g.alloc
    shadows := ((s.core g.die g.core).shadow.filter (·.grp == g.ref)).map fun x => (g.die, g.core, x) }

/-- `n` bytes from an address on, of cells that rise and begin no lower. -/
def denseBytes (a : Nat) : Nat → List Host.Cell → List Byte
  | 0, _ => []
  | n + 1, [] => 0 :: denseBytes (a + 1) n []
  | n + 1, c :: t => if c.1 == a then c.2 :: denseBytes (a + 1) n t else 0 :: denseBytes (a + 1) n (c :: t)

/-- Sections of the groups of a context, one for each group (Table 1-14), each with its rank first and its scratchpad last (Table 14-9), and of
their teams. -/
def State.groupPieces (s : State) (ctx : Nat) : List Piece :=
  let all := s.groups.filter fun g => g.ref.ctx == ctx && g.teams != 0 && g.exitAt.isNone
  let team (g : Group) (t : Team) : Piece := ⟨Section.empty 0 0x21 (unitOf g.die g.core), [.laid (t.image g.regs 0)]⟩
  let group (g : Group) : Piece :=
    let x := s.groupPiece all g
    ⟨x, [.laid (leBytes 8 g.ref.rank), .free 0 1, .laid (denseBytes (scrBase g.die g.core + g.winBase) g.alloc x.scratch)]⟩
  all.map group ++
  all.flatMap fun g => ((s.pending ctx).teams.filter (·.grp == g.ref)).map (team g)

/-- Column groups of an engine that the context wrote, with their rows and scales. -/
def Engine.ofCtx (e : Engine) (ctx : Nat) : Engine :=
  let gs := e.groups.filter (·.ctx == ctx)
  let inRow (a : Nat) : Bool := gs.any fun g => a / 2 ^ 18 == g.page && a % 512 / 64 == g.cg
  let inScale (a : Nat) : Bool := gs.any fun g => a / 4096 == g.page && a % 512 / 64 == g.cg
  { e with groups := gs, rows := e.rows.filter (fun x => inRow x.1), scales := e.scales.filter (fun x => inScale x.1), run := none, tail := none }

/-- A job's record (Table 10-1). -/
def Job.record (j : Job) : List Byte := (List.range 8).flatMap fun k => leBytes 8 (j.words.getD k 0).toNat

/-- Engine sections: jobs that run, queued jobs, accumulator sets and column groups. -/
def State.enginePieces (s : State) (ctx : Nat) : List Piece :=
  let p := s.pending ctx
  ((List.range 4).flatMap fun d => (List.range 64).map fun i => (d, i)).filterMap fun (d, i) =>
    let e := s.engine d i
    let runs := ((s.runsOf ctx).filter fun x => x.1 == d && 2 * x.2.1 + x.2.2.engines.headD 0 == i).map (·.2.2)
    let jobs := if i % 2 = 0 then p.jobs.filter fun j => j.die == d && j.cluster == i / 2 else []
    let sets := if i % 2 = 0 then (s.cluster d (i / 2)).sets.filter fun a => match a.holder with
        | some (g, _) => g.ctx == ctx
        | none => false
      else []
    let b := e.ofCtx ctx
    if runs.isEmpty && jobs.isEmpty && sets.isEmpty && b.groups.isEmpty then none
    else some ⟨{ Section.empty 0 0x30 (unitOf d i) with runs := runs, jobs := jobs, sets := sets, engines := [b] },
      (runs.flatMap fun r => [.laid r.job.record, .free 1 1]) ++ (jobs.flatMap fun j => [.laid j.record, .free 2 1]) ++
        [.free 3 sets.length, .free 4 b.groups.length]⟩

/-- Channel sections: descriptors, and send entries with the first channel of their core. -/
def State.channelPieces (s : State) (ctx : Nat) : List Piece :=
  let p := s.pending ctx
  ((List.range 4).flatMap fun d => (List.range 256).map fun i => (d, i)).filterMap fun (d, i) =>
    let cs := p.chans.filter fun c => c.die == d && 2 * c.core + c.ix == i
    let xs := if i % 2 = 0 then p.entries2.filter fun e => e.die == d && e.core == i / 2 else []
    if cs.isEmpty && xs.isEmpty then none
    else some ⟨{ Section.empty 0 0x31 (unitOf d i) with chans := cs, entries2 := xs }, [.free 0 ((cs.map (·.queue.length)).sum + xs.length)]⟩

/-- The 128 bytes of the context RCB as they stand. -/
def State.rcbBytes (s : State) (c : Ctx) : List Byte := match (s.recBytes c.coord c.walkfmt c.ptroot c.rcb 128).1 with
  | .ok bs => bs
  | .error _ => List.replicate 128 0

/-- A plan without its stages' root holds, which go with the nodes (R382). -/
def Plan.rootless (p : Plan) : Plan := { p with stages := p.stages.map fun st => { st with root := none } }

/-- The timelines of a group, without the group (R354). -/
def Group.clocks (g : Group) : Group := { g with teams := 0, alloc := 0, regs := 0 }

/-- A task's entry (Table 1-12). -/
def Task.bytes (t : Task) : List Byte :=
  let w0 := t.count * 2 ^ 56 + t.prio * 2 ^ 53 + t.st.code * 2 ^ 50 + t.nsucc * 2 ^ 47 + t.chain.toNat * 2 ^ 46
  let w1 := (t.succ.zipIdx.map fun (x, i) => x * 2 ^ (12 * i)).sum
  leBytes 8 w0 ++ leBytes 8 w1 ++ leBytes 8 t.arg.toNat ++ leBytes 8 t.ltime.toNat

/-- Entries that are not idle, each with its runner and posting stage, and the ready FIFOs. -/
def tasksParts (ts : List Task) : List Part :=
  ((sortBy (fun (t : Task) => t.n) (ts.filter (·.st != .idle))).flatMap fun t => [.laid t.bytes, .free 1 1]) ++ [.free 2 8]

/-- A pipe: its counters, tickets and times; the bytes of the slots that are reserved, filled or taken; its staging queue, M and S. -/
def Pipe.parts (p : Pipe) : List Part :=
  [.free 1 (1 + p.slots.length)] ++
  ((p.slots.zipIdx.filter (·.1.st != .free)).map fun (_, i) => .laid (cellsGet p.data (i * p.slotSize) p.slotSize)) ++ [.free 2 1]

/-- The sections of phases 1, 2 and 4. -/
def State.ctxPieces (s : State) (c : Ctx) : List Piece :=
  let id := c.id
  let ups := (List.range 4).filter fun d => (s.die d).up
  let ps := s.plans.filter (·.ctx == id)
  let first : Piece :=
    ⟨{ Section.empty 0 0x01 (unitOf c.coord 0) with plans := ps.map (·.rootless), stamp := s.savedStamp id }, [.laid (s.rcbBytes c ++ [0]), .free 0 (1 + ps.length)]⟩
  let tasks : Piece := ⟨{ Section.empty 0 0x10 (unitOf c.coord 0) with tasks := c.tasks, ready := c.ready }, tasksParts c.tasks⟩
  let nodes : List Piece := ups.map fun d =>
    let es := (s.die d).repl.filter (·.ctx == id)
    let hs := (s.die d).held.filter (·.plan.ctx == id)
    let rs := ps.map fun p => (p.rcb, p.stages.map (·.root))
    ⟨{ Section.empty 0 0x11 (unitOf d 0) with entries := es, held := hs, roots := rs }, [.free 0 (es.length + hs.length)]⟩
  let shares := ps.map fun p => (p.rcb, p.stages.map (·.share))
  let pipes : List Piece := ups.filterMap fun d =>
    let xs := s.pipes.filter fun x => x.ref.ctx == id && x.home.getD c.coord == d
    if xs.isEmpty && d != c.coord then none
    else some ⟨{ Section.empty 0 0x12 (unitOf d 0) with pipes := xs, shares := if d == c.coord then shares else [] },
      xs.flatMap Pipe.parts ++ (if d == c.coord then [.free 3 ps.length] else [])⟩
  let mine := s.groups.filter fun g => g.ref.ctx == id
  let ended := mine.filter fun g => g.teams == 0 || g.exitAt.isSome
  let reset (k : Chunk) : Chunk := { k with zeroAt := none }
  let lines : Piece :=
    ⟨{ Section.empty 0 0x13 (unitOf c.coord 0) with
        groups := ended.map (fun g => { g with owed := g.owed + g.teams }) ++ (mine.filter fun g => g.teams != 0 && g.exitAt.isNone).map Group.clocks
        cbars := s.cbars.filter (·.ctx == id), chunks := (s.chunks.filter (·.ctx == id)).map reset
        bars := s.bars.filter fun b => match b.1 with
          | .ctx n _ => n == id
          | _ => false }, [.free 0 mine.length]⟩
  let quads := c.replies.flatMap fun q => leBytes 4 (q.1.getD 0 0).toNat ++ leBytes 4 (q.1.getD 1 0).toNat ++ leBytes 8 (q.1.getD 2 0).toNat
  let replies : List Piece := if c.replies.isEmpty then [] else
    [⟨Section.empty 0 0x14 (unitOf c.coord 0), [.laid quads]⟩]
  [first, tasks] ++ nodes ++ pipes ++ [lines] ++ s.groupPieces id ++ s.enginePieces id ++ s.channelPieces id ++ replies

/-- Bytes of the section at a place of an image. Where Table 14-9 gives an item no layout, the number and values of its
bytes are open (log entry 13). -/
def Piece.body (p : Piece) (k ix : Nat) : List Byte := p.parts.zipIdx.flatMap fun (x, j) => match x with
  | .laid bs => bs
  | .free kind n => (List.range (Config.sectionLength (p.sec.stype + 256 * kind) n)).map fun i =>
    Config.sectionByte k (ix * 2 ^ 32 + p.sec.stype * 65536 + p.sec.unit) (j * 2 ^ 32 + i)

/-- Offsets of sections laid one after another, each at a multiple of 64 (log entry 42). -/
def sectOffsets (at_ : Nat) : List Nat → List Nat
  | [] => []
  | n :: t => at_ :: sectOffsets ((at_ + n + 63) / 64 * 64) t

/-- The image: header, section table and bodies. -/
def imageBytes (c : Ctx) (ps : List (Piece × List Byte)) : List Byte :=
  let n := ps.length
  let offs := sectOffsets ((0x40 + 32 * n + 63) / 64 * 64) (ps.map (·.2.length))
  let table := (ps.zip offs).flatMap fun (p, o) =>
    leBytes 8 (p.1.sec.stype + p.1.sec.unit * 2 ^ 16) ++ leBytes 8 o ++ leBytes 8 p.2.length ++ leBytes 8 (crc32 p.2).toNat
  let head := leBytes 8 (0x4E47414F + 2 ^ 32 + n * 2 ^ 48) ++ leBytes 8 c.rcb ++ leBytes 8 0
  let tail := leBytes 8 c.planlist.1 ++ leBytes 8 c.planlist.2 ++ leBytes 16 0
  let hcrc := crc32 (head ++ (leBytes 4 0 ++ tail) ++ table)
  let start := head ++ leBytes 4 hcrc.toNat ++ leBytes 4 0 ++ tail ++ table
  (ps.zip offs).foldl (fun acc (p, o) => padTo o acc ++ p.2) start

/-! ### Quiesce and write (R430 steps 4 and 5) -/

/-- Records of the context that no reply has answered. -/
def State.unanswered (s : State) (ctx : Nat) : Nat := ((s.dies.map fun d => (d.open_.filter fun o => o.2.1 == ctx).length)).sum

/-- The units of a stopped context have completed what Table 14-7 has them complete, the firmware runs, and each departed table
has room where it needs an entry (R428). -/
def State.quiet (s : State) (c : Ctx) : Bool :=
  (match c.phase with
   | .forcing f => f < s.clock
   | _ => false) &&
  s.fwRuns c.coord && (match c.saver with
   | some q => (s.queue q).block == .preempt
   | none => false) &&
  !(s.chunks.any fun k => k.ctx == c.id && k.busy) && (s.runsOf c.id).all (fun x => !x.2.2.fetched || x.2.2.stopped.isSome) &&
  !(s.agenda.any fun x => s.lands c.id x.2) && !(s.engines.any fun e => e.ending.any fun x => x.1.job.grp.ctx == c.id) &&
  !(s.pipes.any fun x => x.ref.ctx == c.id && x.slots.any fun y => y.st == .spilling) &&
  (s.unanswered c.id == 0 || s.dies.all fun d => d.departed.length < 256)

/-- A lane that goes on after a stop: it waits as its descriptor says, or executes its instruction again (R431). -/
def Lane.again (l : Lane) (clock : Nat) : Lane := match l.st, l.wait with
  | _, .sleep n => { l with wait := .sleep (clock + n) }
  | .op, .bar _ _ | .op, .sysc => l
  | .op, _ => { l with st := .runnable, wait := .none }
  | _, _ => l

/-- Restored waits of a team's lanes are timed, or tested, again. -/
def State.rewaitTeam (s : State) (t : TeamRef) : State :=
  (List.range 32).foldl (fun s l => if (s.lane t l).st == .op then s.rewait t l else s) s

/-- A channel's descriptors go on at their next element: the reads that one had still to make are made again, one a cycle (R264). -/
def State.startChan (s : State) (c : Chan) : State :=
  let again (x : CopyDesc) : CopyDesc :=
    if x.started.isSome then { x with started := some s.clock, ready := x.ready.map fun _ => none, drawn := false }
    else { x with issued := s.clock, drawn := false }
  let xs := c.queue.map again
  let s := s.modChan c.die c.core c.ix fun y => { y with queue := y.queue ++ xs }
  (s.once s.clock (.copyDescriptorStart c.die c.core c.ix)).after 8 (.copyDescriptorStart c.die c.core c.ix)

/-- A stopped engine goes on at its job's next step, and runs the job again from the next cycle on (R328). -/
def State.startRun (s : State) (d c : Nat) (r : RunJob) : State :=
  if r.stopped.isSome then s.setBusy d c r.engines (some (s.clock + 1)) else s.resumeRun d c r

/-- Replies that the context was kept from, in turn, each with its release's stamp; an image and an area record none, and such a reply carries
C(d) of the coordinating die (R427). -/
def State.heldReplies (s : State) (c : Ctx) (qs : List (List W32 × Nat)) : State :=
  qs.foldl (fun s q =>
    let w (i : Nat) : Nat := (q.1.getD i 0).toNat
    s.applyReply c.coord (c.id % 4096) (w 0) (bits (w 1) 15 12) (w 2) q.2) s

/-- A send entry that stood aside is queued again, before those that came meanwhile, under the table that is active now (R401, R408). -/
def State.requeue (s : State) (e : SendEntry) : State :=
  let e := { e with queue := s.sendQueue e.dest, stranded := !s.routed e.dest }
  if s.queueRoom e.dest 0 then s.modFab fun x => { x with entries := e :: x.entries }
  else s.modFab fun x => { x with waiting := e :: x.waiting }

/-- The units that stand aside for a context go on from where they stopped. -/
def State.standBack (s : State) (c : Ctx) : State :=
  let p := s.pending c.id
  let back (t : Team) : Team := { t with lanes := t.lanes.map fun l => l.again s.clock }
  let put (k : Cluster) : Cluster := { k with queue := (p.jobs.filter fun j => j.die == k.die && j.cluster == k.ix) ++ k.queue }
  let s := p.jobs.foldl (fun s j => s.modCluster j.die j.cluster id) s
  let s := { s with
    teams := s.teams ++ p.teams.map back, clusters := s.clusters.map put
    sections := s.sections.filter fun x => x.image != heldMark c.id
    ctxs := updIf s.ctxs (·.id == c.id) fun x => { x with phase := .running, saver := none, replies := [] } }
  let s := p.entries2.reverse.foldl (fun s e => s.requeue e) s
  let s := p.teams.foldl (fun s t => s.rewaitTeam t.ref) s
  let s := p.chans.foldl (fun s k => s.startChan k) s
  let s := (s.runsOf c.id).foldl (fun s x => s.startRun x.1 x.2.1 x.2.2) s
  let s := p.entries2.foldl (fun s e => s.after 1 (.sendEligible e.id)) s
  (s.heldReplies c (p.replies.map (fun q => (q, (s.die c.coord).c)) ++ c.replies)).after 0 (.taskRequestArrival c.id)

/-- The saved context leaves every die. -/
def State.leave (s : State) (c : Ctx) : State :=
  let id := c.id
  let n := s.unanswered id
  let freeCore (x : Core) : Core := match x.owner with
    | some (a, _, _) => if a == id then { x with owner := none, hold := false } else x
    | none => x
  let freeSet (a : AccSet) : AccSet := match a.holder with
    | some (g, _) => if g.ctx == id then ⟨none, [], []⟩ else a
    | none => a
  let freeSets (k : Cluster) : Cluster := { k with sets := k.sets.map freeSet }
  let freeRun (e : Engine) : Engine := match e.run with
    | some r => if r.job.grp.ctx == id then { e with run := none, busyFrom := none, idleAt := some s.clock } else e
    | none => e
  let entry (d : Die) : Die := if n = 0 then d else { d with departed := d.departed ++ [⟨id, c.rcb, n, c.frarea, c.ptroot, c.walkfmt⟩] }
  let s := { s with
    groups := s.groups.filter fun g => g.ref.ctx != id, cores := s.cores.map freeCore
    clusters := s.clusters.map freeSets, engines := s.engines.map freeRun
    dies := s.dies.map entry
    sections := s.sections.filter fun x => x.image != heldMark id }
  (s.leaveChunks c).dropCtx id

/-- Write an image by physical address. -/
def State.physWrite (s : State) (d pa : Nat) (bs : List Byte) : State :=
  if pa + bs.length ≤ hbmBytes then s.devPut d pa bs
  else (List.range ((bs.length + 31) / 32)).foldl (fun s i => s.physPut d (pa + 32 * i) ((bs.drop (32 * i)).take 32)) s

/-- QUIESCE: the image is written, the context is gone, and PREEMPT commits; or the area is too small (error 13). An area that is not aligned
or not backed, for which Table 2-5 has no code, is written as it lies, so far as it is backed: DESIGN CHOICE (log entry 121). -/
def quiesce (ctx : Nat) (s : State) : State :=
  match s.ctx? ctx with
  | none => s
  | some c =>
    match s.quiet c, c.saver with
    | true, some q =>
      let ps := (s.ctxPieces c).zipIdx.map fun (p, i) => (p, p.body s.fresh i)
      let bs := imageBytes c ps
      let a := c.saveArea.1
      if bs.length > 4096 * c.saveArea.2 then (s.standBack c).stopQueue q 13
      else
        let secs := (ps.map fun p => ({ p.1.sec with image := a, bytes := p.2 } : Section)).filter fun x => x.stype != 0x21 && x.stype != 0x14
        let s := ({ s.writeTasks c with fresh := s.fresh + 1, sections := secs ++ s.sections } : State).physWrite c.coord a bs
        (((s.setResident c 0).leave c)).commit q 5
    | _, _ => s

/-- Saves that can be written. -/
def State.quiesceEvents (s : State) : List Event := (s.ctxs.filter s.quiet).map fun c => .quiesce c.id

def execDrainEnd (s : State) : Host.Outcome State Fault Refusal :=
  match s.ev with
  | some (.drainEnd c) => .next (drainEnd c { s with ev := none })
  | _ => .fault .noEvent
def execForceCycle (s : State) : Host.Outcome State Fault Refusal :=
  match s.ev with
  | some (.forceCycle c) => .next (forceCycle c { s with ev := none })
  | _ => .fault .noEvent
def execQuiesce (s : State) : Host.Outcome State Fault Refusal :=
  match s.ev with
  | some (.quiesce c) => .next (quiesce c { s with ev := none })
  | _ => .fault .noEvent

end Sys2Proof.Machine
end

