-- ==== Sys2Proof/Machine/Restore.lean ====
section
/-! DEFINITION. Restoring a context in the phases of Table 1-14, and the start of its units (R46, R48, R49, R67, R68, R79, R103, R341). -/

namespace Sys2Proof.Machine

/-! ### What an image records -/

/-- What the sections of one type of a context's image record: those that the check of the RESUME found (R50), with their bytes. -/
def State.savedSects (s : State) (c : Ctx) (t : Nat) : List Section := s.sectsOf c.image c.sects t

/-! ### Phases 1 and 2 -/

/-- A plan as its save left it, over the records that this RESUME has read. -/
def Plan.resume (p old : Plan) : Plan :=
  { p with
    launch := match p.launch, old.launch with
      | some l, some o => some { l with retired := o.retired, placed := o.placed, lost := o.lost, over_ := o.over_ }
      | l, _ => l
    stages := (p.stages.zip old.stages).map fun (a, b) =>
      { a with serial := if p.launch.isSome then (if b.open_ then 0 else 2 ^ 32) else b.serial, open_ := b.open_,
               stopped := b.stopped, live := b.live }
    draining := old.draining, retired := old.retired }

/-- Phase 1: the plans of a saved context. One that had retired stays so, and no queue waits for it (R63). -/
def restorePlans (c : Ctx) (s : State) : State :=
  if c.fresh then s else
  let ps := (s.savedSects c 0x01).flatMap (·.plans)
  let s := ps.foldl (fun s o => s.modPlan c.id o.rcb fun p => p.resume o) s
  let gone := (ps.filter (·.retired)).map (·.rcb)
  let s : State := { s with
    pipes := s.pipes.filter fun x => !(x.ref.ctx == c.id && gone.contains x.ref.rcb)
    chunks := s.chunks.filter fun k => !(k.ctx == c.id && gone.contains k.rcb) }
  gone.foldl (fun s r => s.forgetPlan (s.rcbPa c) r 0) s

/-- The root holds that a plan's stages had (R382). -/
def Plan.takeRoots (p : Plan) (ts : List (Option W64)) : Plan :=
  { p with stages := p.stages.zipIdx.map fun (st, i) => { st with root := ts.getD i st.root } }

/-- The shares that a plan's stages had (R79). -/
def Plan.takeShares (p : Plan) (ns : List Nat) : Plan :=
  { p with stages := p.stages.zipIdx.map fun (st, i) => { st with share := ns.getD i st.share } }

def Slot.ofCtx (ctx : Nat) (x : Slot) : Slot := { x with holder := x.holder.map (GroupRef.ofCtx ctx), lines := x.st != .free }
def Spilled.ofCtx (ctx : Nat) (x : Spilled) : Spilled := { x with holder := x.holder.map (GroupRef.ofCtx ctx) }
def Pipe.ofCtx (ctx : Nat) (x : Pipe) : Pipe :=
  { x with ref := ⟨ctx, x.ref.rcb, x.ref.w⟩, slots := x.slots.map (Slot.ofCtx ctx), spilled := x.spilled.map (Spilled.ofCtx ctx)
           queue := [], changes := [], race := [] }

/-- A saved pipe over the one that this RESUME has read: its counters, slots and tiles; what R23 fixes at the RESUME stays as read. -/
def Pipe.over (x p : Pipe) (ctx : Nat) : Pipe :=
  let y := x.ofCtx ctx
  { y with
    slotSize := p.slotSize, tslot := p.tslot, depth := p.depth, path := p.path, prod := p.prod, cons := p.cons, peer := p.peer
    prem := p.prem, crem := p.crem, staging := p.staging, spillOff := p.spillOff, spillCap := p.spillCap, home := p.home.or y.home
    slots := y.slots.take p.slots.length ++ p.slots.drop y.slots.length }

/-- Tideline entries of a die's section, or of another where the die has none. -/
def nodeSect (xs : List Section) (d : Nat) : Option Section :=
  match xs.find? fun x => x.unit / 2 ^ 14 == d with
  | some x => some x
  | none => xs.head?

def restoreNodes (c : Ctx) (s : State) : State :=
  let xs := s.savedSects c 0x11
  let s := if c.fresh then s else ((xs.head?.map (·.roots)).getD []).foldl (fun s r => s.modPlan c.id r.1 fun p => p.takeRoots r.2) s
  (List.range 4).foldl (fun s d => match nodeSect xs d with
    | none => s
    | some x =>
      let es := x.entries.map fun (e : TlEntry) => { e with ctx := c.id }
      let bs := x.held.map fun (b : Batch) => { b with plan := ⟨c.id, b.plan.rcb⟩ }
      let s := s.modDie d fun y => { y with repl := y.repl ++ es, vis := y.vis ++ es, snaps := y.snaps.map fun z => (z.1, z.2 ++ es) }
      bs.foldl (fun s b => tidelineBatchApply d b s) s) s

/-- Phase 2: task table, Tideline counts, pipes, timelines, context barriers and chunks. -/
def restoreTables (c : Ctx) (s : State) : State :=
  let s := (s.savedSects c 0x10).foldl (fun s x => s.modCtx c.id fun y => { y with
      tasks := x.tasks.map fun (t : Task) => { t with runner := t.runner.map (GroupRef.ofCtx c.id) }
      ready := x.ready }) s
  let s := restoreNodes c s
  let xs := s.savedSects c 0x12
  let s := (xs.flatMap (·.pipes)).foldl (fun s p => s.modPipe ⟨c.id, p.ref.rcb, p.ref.w⟩ fun q => p.over q c.id) s
  let s := (xs.flatMap (·.shares)).foldl (fun s x => s.modPlan c.id x.1 fun p => p.takeShares x.2) s
  (s.savedSects c 0x13).foldl (fun s x =>
    let ks := x.chunks.map fun (k : Chunk) => { k with ctx := c.id }
    let mine (k : Chunk) : Bool := k.ctx == c.id && ks.any fun n => n.rcb == k.rcb && n.c == k.c
    { s with
      groups := s.groups ++ x.groups.map fun (g : Group) =>
        { g with ref := GroupRef.ofCtx c.id g.ref, teams := 0, alloc := 0, regs := 0, exitAt := if c.fresh then none else g.exitAt }
      cbars := s.cbars ++ x.cbars.map fun (b : CBar) => { b with ctx := c.id }
      bars := s.bars ++ x.bars.map fun b => (renameBar c.id b.1, b.2)
      chunks := (s.chunks.filter fun k => !mine k) ++ ks }) s

/-- The chunks that a context's save left behind are its own again, as they stand now (R408). -/
def comeBack (c : Ctx) (s : State) : State :=
  match s.aways.find? fun a => a.ctx.saveArea.1 == c.image && a.ctx.rcb == c.rcb with
  | none => s
  | some a =>
    let ks := (s.chunks.filter (·.ctx == a.ctx.id)).map fun k => { k with ctx := c.id }
    let old (k : Chunk) : Bool := k.ctx == a.ctx.id || (k.ctx == c.id && ks.any fun n => n.rcb == k.rcb && n.c == k.c)
    { s with chunks := (s.chunks.filter fun k => !old k) ++ ks, aways := s.aways.filter (·.ctx.id != a.ctx.id) }

/-! ### Phase 3: groups, teams, engines and channels (R48) -/

/-- The group sections of a die taken together. -/
def dieSection (xs : List Section) (d : Nat) : Section :=
  let mine := xs.filter fun x => x.unit / 2 ^ 14 == d
  { Section.empty 0 0x20 (unitOf d 0) with
    groups := mine.flatMap (·.groups), bars := mine.flatMap (·.bars), binds := mine.flatMap (·.binds)
    scratch := mine.flatMap (·.scratch), shadows := mine.flatMap (·.shadows) }

/-- The next saved gang that has not been placed, with the group sections of its die. -/
def State.nextSaved (s : State) (c : Ctx) : Option (Section × List Group) :=
  let xs := s.savedSects c 0x20
  ([0, 1, 2, 3].map (dieSection xs)).findSome? fun x =>
    (x.groups.find? fun g => !(s.group? (GroupRef.ofCtx c.id g.ref)).any (·.stands)).map fun g => (x, g.gangOf x.groups)

/-- The cluster that a saved job of a group runs on, once the group stands: a rerouted one runs beside its own (R313). -/
def State.runsAt (s : State) (c : Ctx) (r : RunJob) : Option Nat :=
  (s.group? (GroupRef.ofCtx c.id r.job.grp)).map fun g =>
    let k := if g.teams == 0 then r.job.cluster else g.core / 4
    if r.reroute then k ^^^ 1 else k

/-- The cluster of a core has engines for the saved jobs of a gang, which no job has, nor those of its groups that stand, and accumulator
sets for it. -/
def State.enginesFit (s : State) (c : Ctx) (gs : List Group) (d core : Nat) : Bool :=
  let k := core / 4
  let xs := (s.savedSects c 0x30).filter fun x => x.unit / 2 ^ 14 == d
  let taken := (xs.flatMap (·.runs)).flatMap fun r => match s.runsAt c r with
    | some n => r.engines.map (2 * n + ·)
    | none => []
  let sets (p : GroupRef → Bool) : Nat := ((xs.flatMap (·.sets)).filter fun a => match a.holder with
    | some (g, _) => p g
    | none => false).length
  let stands (g : GroupRef) : Bool := match s.group? (GroupRef.ofCtx c.id g) with
    | some n => n.teams != 0 && n.core / 4 == k
    | none => false
  ((xs.flatMap (·.runs)).filter fun r => gs.any (·.ref == r.job.grp)).all (fun r =>
    let n := if r.reroute then k ^^^ 1 else k
    r.engines.all fun e => (s.engine d (2 * n + e)).run.isNone && !taken.contains (2 * n + e)) &&
  sets (fun g => gs.any (·.ref == g) || stands g) ≤ ((s.cluster d k).sets.filter (·.holder.isNone)).length

/-- Move saved scratchpad bytes of a group to its place. -/
def movedBytes (x : Section) (old new : Group) : List Host.Cell :=
  let a := scrBase old.die old.core + old.winBase
  (x.scratch.filter fun e => a ≤ e.1 && e.1 < a + old.alloc).map fun e => (e.1 - a + scrBase new.die new.core + new.winBase, e.2)

/-- Slots taken from free ones for saved slots: the same place, of quad `q` where one is given, else the first free (in that quad). -/
def seatAll (free : List Nat) (q : Option Nat) (xs : List Nat) : Option (List Nat × List (Nat × Nat)) :=
  xs.foldlM (fun (fr, m) x =>
    let own := match q with
      | some p => 8 * p + x % 8
      | none => x
    let open_ := fr.filter fun n => q.all (n / 8 == ·)
    (if open_.contains own then some own else open_.head?).map fun n => (fr.erase n, m ++ [(x, n)])) (free, [])

/-- Where the saved slots of a gang's teams go in a core with these free team slots and these busy shadow slots, as pairs. The teams of a quad
whose shadow slots are bound take one quad, its own first, in which those shadow slots are free: a bound slot stays with its quad (R80, R49).
DESIGN CHOICE (log entry 114): a core without such a quad has no room. -/
def seating (free busy slots bound : List Nat) : Option (List (Nat × Nat)) := do
  let quads := [0, 1, 2, 3].filter fun q => bound.any (· / 2 == q)
  let (fr, _, m) ← quads.foldlM (fun (fr, busy, m) q =>
    (q :: [0, 1, 2, 3].filter (· != q)).findSome? fun p =>
      let ixs := (bound.filter (· / 2 == q)).map fun i => 2 * p + i % 2
      if ixs.any busy.contains then none
      else (seatAll fr (some p) (slots.filter (· / 8 == q))).map fun x => (x.1, busy ++ ixs, m ++ x.2)) (free, busy, [])
  (seatAll fr none (slots.filter fun n => !quads.contains (n / 8))).map fun x => m ++ x.2

/-- The saved groups with the team sections (Table 14-8) that name them, each team once, with its slot. -/
def State.teamSects (s : State) (c : Ctx) : List (GroupRef × Nat × Nat × Sect) :=
  let gs := (s.savedSects c 0x20).flatMap (·.groups)
  (c.sects.filter (·.stype == 0x21)).foldl (fun l x =>
    let bs := s.sectBytes c.image x
    let ix := bits (bodyWord bs 0) 2 0
    match gs.find? fun g => g.ref.rank == bodyWord bs 8 && g.die == x.unit / 2 ^ 14 && !l.any fun y => y.1 == g.ref && y.2.1 == ix with
    | some g => l ++ [(g.ref, ix, bits (bodyWord bs 0) 7 3, x)]
    | none => l) []

/-- The stand-aside section of a context that is being restored. -/
def State.modPending (s : State) (ctx : Nat) (f : Section → Section) : State :=
  { s with sections := upsert s.sections (fun x => x.image == heldMark ctx) (Section.empty (heldMark ctx) 0 0) f }

/-- A team section (Table 14-8) read back: the team stands in a slot of its group's core. Its watchdog count is 0 (R147), and its sleeps
are counted from its start on. -/
def State.restoreTeam (s : State) (c : Ctx) (g : Group) (ix slot : Nat) (x : Sect) : State :=
  let t := { teamOfBody (s.sectBytes c.image x) 0 (Team.init ⟨g.die, g.core, slot⟩ g.ref ix 0 [] 0) with wdc := 0 }
  s.modPending c.id fun y => { y with teams := y.teams ++ [t] }

/-- A saved gang takes a core of its die, by the rules of R76 with the H of its first group; none where no core has room (R48). Its rates are
read as at every placement (R17). -/
def State.placeSaved (s : State) (c : Ctx) (x : Section) (gs : List Group) : Option State :=
  match gs.head? with
  | none => none
  | some g0 => match s.plan? c.id g0.ref.rcb with
    | none => none
    | some p =>
      let st := p.stages.getD g0.stage default
      let lo := gs.foldl (fun m g => min m g.winBase) g0.winBase
      let hi := gs.foldl (fun m g => max m (g.winBase + g.winLim)) 0
      let need := ((gs.map (·.teams)).sum, (gs.map fun g => g.regs * 32 * g.teams).sum, hi - lo)
      let d := x.unit / 2 ^ 14
      let s := s.readEff c p
      let h := match p.launch with
        | some l => (s.lookUp c l st g0.ref.rank).hash
        | none => 0
      let ts := (s.teamSects c).filter fun t => gs.any (·.ref == t.1)
      let bound := (x.shadows.filter fun y => gs.any (·.ref == y.2.2.grp)).map (·.2.2.ix)
      let seats (core : Nat) : Option (List (Nat × Nat)) :=
        seating ((s.openSlots d core).filter fun n => !(s.pending c.id).teams.any (·.ref == ⟨d, core, n⟩))
          ((s.core d core).shadow.map (·.ix)) (ts.map (·.2.2.1)) bound
      match s.chooseCore (fun core => s.coreFits c p g0.stage st need d core && s.enginesFit c gs d core && (seats core).isSome) d h with
      | none => none
      | some core => match s.hole d core need.2.2 with
        | none => none
        | some base =>
          let put (g : Group) : Group :=
            { g with ref := GroupRef.ofCtx c.id g.ref, die := d, core := core, winBase := base + (g.winBase - lo), placed := s.clock }
          let ofGang (b : BarRef) : Bool := match b with
            | .priv r _ => gs.any (·.ref == r)
            | .gang r _ => gs.any fun g => g.ref.rcb == r.rcb && g.gang == r.rank
            | .ctx _ _ => false
          let s := s.claim p g0.stage d core
          let a := scrBase d core + base
          let cells := gs.flatMap fun g => movedBytes x g (put g)
          let m := (seats core).getD []
          let quad (q : Nat) : Nat := ((m.find? fun e => e.1 / 8 == q).map (·.2 / 8)).getD q
          let sh := (x.shadows.filter fun y => gs.any (·.ref == y.2.2.grp)).map fun y =>
            { y.2.2 with grp := GroupRef.ofCtx c.id y.2.2.grp, ix := 2 * quad (y.2.2.ix / 2) + y.2.2.ix % 2 }
          let s := s.modCore d core fun y => { y with shadow := y.shadow ++ sh }
          let s := ts.foldl (fun s t => match gs.find? (·.ref == t.1) with
            | some g => s.restoreTeam c (put g) t.2.1 (lookD m t.2.2.1 t.2.2.1) t.2.2.2
            | none => s) s
          let news := (gs.map put).map s.takeClocks
          some { s with
            groups := (s.groups.filter fun (g : Group) => !news.any (·.ref == g.ref)) ++ news
            bars := s.bars ++ (x.bars.filter fun b => ofGang b.1).map fun b => (renameBar c.id b.1, b.2)
            binds := s.binds ++ (x.binds.filter fun b => ofGang b.who).map fun b => ⟨renameBar c.id b.who, b.n⟩
            scratch := cells.foldl (fun m e => cellPut m e.1 e.2) (cellsClear s.scratch a (a + need.2.2))
            srace := s.srace.filter fun e => !(a ≤ 32 * e.1 && 32 * e.1 < a + need.2.2) }

/-- The clusters in which the groups that stood in an old cluster stand now. -/
def State.nowAt (s : State) (c : Ctx) (d k : Nat) : List Nat :=
  let gs := (s.savedSects c 0x20).flatMap (·.groups)
  ((gs.filter fun g => g.die == d && g.core / 4 == k).filterMap fun g => (s.group? (GroupRef.ofCtx c.id g.ref)).map fun n => n.core / 4).dedup

/-- The clusters to which the columns of an old cluster's engines go: each in which a group stands that reached them, whether from that
cluster itself or, rerouted, from the paired one (R302, R323); its own place where no group did. -/
def State.newClusters (s : State) (c : Ctx) (d k : Nat) (paired : Bool) : List Nat :=
  let own := s.nowAt c d k
  let beside := (s.nowAt c d (k ^^^ 1)).map (· ^^^ 1)
  if paired then beside else if own.isEmpty && beside.isEmpty then [k] else own

/-- The cluster of a restored group's core; that of an ended group stays. -/
def State.clusterOf (s : State) (c : Ctx) (g : GroupRef) (old : Nat) : Nat := match s.group? (GroupRef.ofCtx c.id g) with
  | some n => if n.teams == 0 then old else n.core / 4
  | none => old

def State.moveJob (s : State) (c : Ctx) (j : Job) : Job :=
  { j with grp := GroupRef.ofCtx c.id j.grp, cluster := s.clusterOf c j.grp j.cluster
           tiles := j.tiles.map fun t => (⟨c.id, t.1.rcb, t.1.w⟩, t.2) }

/-- Put column groups back: the same page and columns of an engine. -/
def Engine.takeCols (e old : Engine) (ctx : Nat) : Engine :=
  let hit (p q : Nat) : Bool := old.groups.any fun g => g.page == p && g.cg == q
  { e with
    groups := (e.groups.filter fun g => !hit g.page g.cg) ++ old.groups.map fun (g : ColGroup) => { g with ctx := ctx }
    rows := (e.rows.filter fun x => !hit (x.1 / 2 ^ 18) (x.1 % 512 / 64)) ++ old.rows
    scales := (e.scales.filter fun x => !hit (x.1 / 4096) (x.1 % 512 / 64)) ++ old.scales }

/-- The engines that a section's running jobs take are idle, and the clusters have sets for its accumulators. -/
def State.engineRoom (s : State) (c : Ctx) (x : Section) : Bool :=
  let d := x.unit / 2 ^ 14
  x.runs.all (fun r => r.engines.all fun e => (s.engine d (2 * (s.runsAt c r).getD r.job.cluster + e)).run.isNone) &&
  x.sets.all fun a => match a.holder with
    | some (g, _) => (s.cluster d (s.clusterOf c g (x.unit % 2 ^ 14 / 2))).sets.any (·.holder.isNone)
    | none => true

/-- An accumulator set takes a free one of its group's cluster. -/
def State.restoreSet (s : State) (c : Ctx) (d old : Nat) (a : AccSet) : State := match a.holder with
  | none => s
  | some (g, n) =>
    let k := s.clusterOf c g old
    match (s.cluster d k).sets.zipIdx.find? fun y => y.1.holder.isNone with
    | some (_, i) => s.modCluster d k fun y => { y with sets := updAt y.sets i fun _ => { a with holder := some (GroupRef.ofCtx c.id g, n) } }
    | none => s

/-- The column groups of an engine section, in the engines of the clusters that they go to. -/
def State.restoreCols (s : State) (c : Ctx) (x : Section) (paired : Bool) : State :=
  let d := x.unit / 2 ^ 14
  let old := x.unit % 2 ^ 14
  (s.newClusters c d (old / 2) paired).foldl (fun s k =>
    x.engines.foldl (fun s o => if o.groups.isEmpty then s else s.modEngine d (2 * k + old % 2) fun y => y.takeCols o c.id) s) s

/-- An engine section: column groups, sets, the job that runs and those queued. -/
def State.restoreEngine (s : State) (c : Ctx) (x : Section) : State :=
  let d := x.unit / 2 ^ 14
  let old := x.unit % 2 ^ 14
  let s := s.restoreCols c x false
  let s := x.sets.foldl (fun s a => s.restoreSet c d (old / 2) a) s
  let s := x.runs.foldl (fun s r =>
    s.setRun d ((s.runsAt c r).getD r.job.cluster) r.engines (some { r with job := s.moveJob c r.job })) s
  let js := x.jobs.map (s.moveJob c)
  s.modPending c.id fun y => { y with jobs := y.jobs ++ js }

/-- A site of a copy at the place of its group. -/
def Site.move (ctx : Nat) (old new : Nat) (x : Site) : Site := match x with
  | .scr a => .scr (a - old + new)
  | .pipe p o => .pipe ⟨ctx, p.rcb, p.w⟩ o
  | x => x

/-- A saved descriptor of a channel, on the core of its group. -/
def State.moveDesc (s : State) (c : Ctx) (d core : Nat) (x : CopyDesc) : Nat × CopyDesc :=
  let g := GroupRef.ofCtx c.id x.grp
  let (new, from_, to_) := match s.group? g, ((s.savedSects c 0x20).flatMap (·.groups)).find? fun y => y.ref == x.grp with
    | some n, some o => (n.core, scrBase o.die o.core + o.winBase, scrBase n.die n.core + n.winBase)
    | _, _ => (core, scrBase d core, scrBase d core)
  let el (e : Elem) : Elem := { e with src := e.src.move c.id from_ to_, dst := e.dst.move c.id from_ to_ }
  (new, { x with grp := g, reads := x.reads.map fun r => r.map el, pipe := x.pipe.map fun p => (⟨c.id, p.1.rcb, p.1.w⟩, p.2) })

/-- A channel section: descriptors, and send entries. -/
def State.restoreChannel (s : State) (c : Ctx) (x : Section) : State :=
  let cs : List Chan := x.chans.flatMap fun k => k.queue.map fun q =>
    let (core, q) := s.moveDesc c k.die k.core q
    { die := k.die, core := core, ix := k.ix, queue := [q], next := 0 }
  let es := x.entries2.map fun (e : SendEntry) => { e with
    grp := GroupRef.ofCtx c.id e.grp
    core := match s.group? (GroupRef.ofCtx c.id e.grp) with
      | some g => g.core
      | none => e.core }
  s.modPending c.id fun y => { y with chans := y.chans ++ cs, entries2 := y.entries2 ++ es }

/-- Engines and channels of a context whose groups stand. -/
def restoreUnits (c : Ctx) (s : State) : State :=
  let s := (s.savedSects c 0x30).foldl (fun s x => s.restoreCols c x true) s
  let s := (s.savedSects c 0x30).foldl (fun s x => s.restoreEngine c x) s
  (s.savedSects c 0x31).foldl (fun s x => s.restoreChannel c x) s

/-- Phase 4: the replies that the image holds. -/
def restoreReplies (c : Ctx) (s : State) : State :=
  (c.sects.filter (·.stype == 0x14)).foldl (fun s x =>
    let bs := s.sectBytes c.image x
    let qs := (List.range (x.len / 16)).map fun i => (List.range 3).map fun k => BitVec.ofNat 32 (bodyWord32 bs (16 * i + 4 * k))
    s.modPending c.id fun y => { y with replies := y.replies ++ qs }) s

/-- RESTORE_PHASE (R46): each phase follows the one before; phase 3 waits where a group or an engine's job has no room. -/
def restorePhase (ctx n : Nat) (s : State) : State :=
  match s.ctx? ctx with
  | none => s
  | some c =>
    if c.phase != .restoring n then s else
    let next (k : Nat) (s : State) : State := (s.modCtx ctx fun x => { x with phase := .restoring k }).after 1 (.restorePhase ctx k)
    match n with
    | 1 => next 2 (restorePlans c s)
    | 2 => next 3 (comeBack c (restoreTables c s))
    | 3 => match s.nextSaved c with
      | some (x, gs) => match s.placeSaved c x gs with
        | some s => s.after 0 (.restorePhase ctx 3)
        | none => s.after 1 (.restorePhase ctx 3)
      | none =>
        if (s.savedSects c 0x30).all (s.engineRoom c) then next 4 (restoreUnits c s) else s.after 1 (.restorePhase ctx 3)
    | _ => (restoreReplies c s).after 1 (.startUnits ctx)

/-! ### The start of the units (R67 step 5) -/

/-- Replies in a context's fault-reply area, which is emptied. -/
def State.takeArea (s : State) (c : Ctx) : List (List W32) × State :=
  match s.recWords c.coord c.walkfmt c.ptroot c.frarea 1 with
  | (.ok (w :: _), s) =>
    let n := min (bits w.toNat 31 0) (bits w.toNat 63 32)
    let qs := (List.range n).filterMap fun i => match (s.recWords c.coord c.walkfmt c.ptroot (c.frarea + 0x40 + 16 * i) 2).1 with
      | .ok (a :: b :: _) => some [a.setWidth 32, BitVec.ofNat 32 (a.toNat / 2 ^ 32), b.setWidth 32]
      | _ => none
    (qs, if n = 0 then s else s.recWrite c.coord c.walkfmt c.ptroot (c.frarea + 4) 4 0)
  | (_, s) => ([], s)

/-- Roots of a fresh context's stages: +1 at time zero in every replica of the package, where a full node holds it (R374), and as a batch to
peers (Table 12-2). -/
def State.rootCounts (s : State) (p : Plan) : State :=
  let ls : List (Loc × W64) := (List.range p.stages.length).map fun k => (.stage k, 0)
  let coord := ((s.ctx? p.ctx).map (·.coord)).getD 0
  let put (d : Die) : Die :=
    { d with repl := ls.foldl (addCount p.ctx p.rcb 1) d.repl, vis := ls.foldl (addCount p.ctx p.rcb 1) d.vis
             snaps := d.snaps.map fun z => (z.1, ls.foldl (addCount p.ctx p.rcb 1) z.2) }
  let b : Batch := { plan := ⟨p.ctx, p.rcb⟩, src := coord, incs := ls, decs := [], stamp := 0, key := 0, came := 0 }
  let s := (List.range 4).foldl (fun s d =>
    if batchFits b (s.die d).repl then s.modDie d put else s.holdBatch d b) s
  (s.peersOf p.ctx p.rcb).foldl (fun s x => s.postMsg coord ⟨p.ctx, p.rcb⟩ x s.clock (.batch b)) s

/-- Context barriers as they start (R348). -/
def ctxBars (ctx : Nat) : List (BarRef × Bar) := (List.range 64).map fun n => (.ctx ctx n, Bar.init 0)

/-- The earlier ids of a context, by its RCB and tables, leave the departed tables; their records are the context's again. -/
def State.rejoin (s : State) (c : Ctx) : State :=
  let mine (e : Departed) : Bool := e.rcb == c.rcb && e.root == c.ptroot
  let olds := (s.dies.flatMap fun d => d.departed.filter mine).map (·.ctx)
  let back (d : Die) : Die :=
    { d with departed := d.departed.filter fun e => !mine e
             open_ := d.open_.map fun o => if olds.contains o.2.1 then (o.1, c.id, o.2.2) else o }
  { s with dies := s.dies.map back }

/-- A plan starts, or goes on: its cores are claimed, its lookahead fills, and its Weir's first interval begins. -/
def State.startPlan (s : State) (c : Ctx) (rcb : Nat) : State :=
  match s.plan? c.id rcb with
  | none => s
  | some p =>
    if p.retired then s else
    let s := if c.fresh then s.rootCounts p else s
    let s := s.modPlan c.id rcb fun x => { x with started := s.clock, quiet := s.clock, samples := [] }
    if p.launch.isSome then s.fillLaunch c.id rcb
    else
      let s := (List.range p.stages.length).foldl (fun s k => s.claimShare c.id rcb k 508) s
      if p.npipes = 0 then s else s.after 0 (.weirSample ⟨c.id, rcb⟩)

/-- The timeouts of a restored chunk run on where the cycle of its counter's zero is known, and from now on where it has been saved with its
counter at zero (R407, R408). -/
def State.rearmChunk (s : State) (k : Chunk) : State :=
  match s.collOf k.ctx k.rcb with
  | none => s
  | some y =>
    if k.st == .result || k.failed || (k.zeroAt.isNone && k.counter != 0) then s else
    let z := k.zeroAt.getD s.clock
    let s := s.cancel fun e => e == .redoRequest y.id k.c || e == .collectiveFail y.id k.c
    (s.modChunk k.ctx k.rcb k.c fun x => { x with zeroAt := some z }).armChunk y k.c z

/-- START_UNITS. -/
def startUnits (ctx : Nat) (s : State) : State :=
  match s.ctx? ctx with
  | none => s
  | some c =>
    if c.phase != .restoring 4 then s else
    let cold (k : Cluster) : Cluster := { k with icache := [] }
    let bars := (ctxBars ctx).filter fun (b : BarRef × Bar) => !s.bars.any fun y => y.1 == b.1
    let s : State := { s with clusters := s.clusters.map cold, bars := s.bars ++ bars }
    let m := ((s.dies.map (·.c)) ++ (s.savedSects c 0x01).map (·.stamp)).foldl max 0
    let lift (t : Team) : Team := { t with lanes := t.lanes.map fun l => { l with horizon := max l.horizon (m + 1) } }
    let s := s.modPending ctx fun y => { y with teams := y.teams.map lift }
    let s := s.rejoin c
    let (area, s) := s.takeArea c
    let s := s.modPending ctx fun y => { y with replies := y.replies ++ area }
    let c := { c with resumed := s.clock }
    let s := s.standBack c
    let s := s.modCtx ctx fun x => { x with resumed := s.clock }
    let s := c.plans.foldl (fun s r => s.startPlan c r) s
    (s.chunks.filter (·.ctx == ctx)).foldl (fun s k => (s.rearmChunk k).chunkCheck k.ctx k.rcb k.c) s

def execRestorePhase (s : State) : Host.Outcome State Fault Refusal :=
  match s.ev with
  | some (.restorePhase c n) => .next (restorePhase c n { s with ev := none })
  | _ => .fault .noEvent
def execStartUnits (s : State) : Host.Outcome State Fault Refusal :=
  match s.ev with
  | some (.startUnits c) => .next (startUnits c { s with ev := none })
  | _ => .fault .noEvent

end Sys2Proof.Machine
end

