-- ==== Sys2Proof/Machine/Service.lean ====
section
/-! DEFINITION. Resets, recalibration, firmware banks, configuration records and telemetry (R450 to R458). -/

namespace Sys2Proof.Machine

/-! ### RSTCTL (R451, Table 15-2) -/

/-- A unit reset requested at die `d`: ignored while RSTGO is 1, refused with RSTERR where its target is, and otherwise done. -/
def State.unitReset (s : State) (d : Nat) (refused : Bool) (f : State → State) : State :=
  if s.fld d 0x4100 16 16 == 1 then s
  else if refused then s.setFld d 0x4100 17 17 1
  else f (s.setFld d 0x4100 17 17 0)

/-- A core that a reset may not target (R451). -/
def State.coreBarred (s : State) (d c : Nat) : Bool := (s.core d c).fenced || c == (s.die d).fwcore

/-- The sub-arrays of an engine that the configuration record fences. -/
def State.configFence (s : State) (d ix : Nat) : W64 := match s.configRecord 1 with
  | some r => (r.subs.filter fun x => x.1 == d && x.2.1 == ix).foldl (fun m x => m ||| x.2.2) 0
  | none => 0

/-! ### Units of a die -/

/-- The running job of an engine completes with the aborted error (R322, R450). -/
def State.abortRun (s : State) (d ix : Nat) : State := match (s.engine d ix).run with
  | some r =>
    let c := ix / 2
    let gone (e : Event) : Bool := match e with
      | .jobComplete d' c' k => d' == d && c' == c && k == r.engines.headD 0
      | _ => false
    (s.cancel gone).finishJob d c { r with stopped := none, readEnd := true } [2]
  | none => s

/-- ENGINE_RESET: LEVEL 1. -/
def engineReset (d unit : Nat) (s : State) : State :=
  s.unitReset d (unit ≥ 64 || (s.engine d unit).fence == BitVec.allOnes 64) fun s =>
    (s.abortRun d unit).modEngine d unit fun x => { x with
      groups := [], scales := [], idleAt := none, last := none, fence := s.configFence d unit }

/-- The first descriptor of a channel that has not ended is abandoned (R263). -/
def State.abortNext (s : State) (d core ix : Nat) : State :=
  match (s.chan d core ix).queue.zipIdx.find? fun (x, _) => !x.ended with
  | some (x, i) =>
    (s.putDesc d core ix i { x with stopped := some 0, started := some (x.started.getD s.clock) }).chanReply d core ix false
  | none => s

/-- Every descriptor of a channel is aborted. -/
def State.abortChan (s : State) (d core ix : Nat) : State :=
  (List.range (s.chan d core ix).queue.length).foldl (fun s _ => s.abortNext d core ix) s

/-- CHANNEL_RESET: LEVEL 2; unit u is channel u mod 2 of core u / 2. -/
def channelReset (d unit : Nat) (s : State) : State :=
  s.unitReset d (s.core d (unit / 2)).fenced fun s => s.abortChan d (unit / 2) (unit % 2)

/-- The walks under way on a die end `n` cycles later, and with them the accesses that wait for their entries. -/
def State.restartWalks (s : State) (d n : Nat) : State :=
  let walking (e : Tb) : Bool := s.clock < e.at_
  let late (t : Team) (a : LaneAcc) : Bool := s.clock < a.due && match a.va with
    | some va => (s.core d t.ref.core).tb.any fun e => walking e && e.ctx == t.grp.ctx && e.va ≤ va && va < e.va + e.size
    | none => false
  let s := (s.teams.filter (·.ref.die == d)).foldl (fun s t =>
    let hits := (List.range 32).flatMap fun l => ((t.lane l).accs.filter (late t)).map fun a => (l, a)
    (hits.map fun x => (x.2.pc, x.2.since)).dedup.foldl (fun s k =>
      let mine := hits.filter fun x => (x.2.pc, x.2.since) == k
      s.moveAccess t.ref (maskOf (mine.map (·.1))) k.1 k.2 (· + n) (mine.any (·.2.read))) s) s
  { s.modDie d fun x => { x with walkAt := if s.clock < x.walkAt then x.walkAt + n else x.walkAt } with
    cores := updIf s.cores (·.die == d) fun c => { c with tb := updIf c.tb walking fun e => { e with at_ := e.at_ + n } } }

/-- WALKER_RESET: LEVEL 3. The walk in progress starts again: it and those behind it end later by a free count (log entry 10); the
routine store holds the stock routines again. -/
def walkerReset (d : Nat) (s : State) : State :=
  s.unitReset d false fun s =>
    let s := s.restartWalks d (Config.freeNat s.fresh)
    { s.modDie d fun x => { x with rv := none } with fresh := s.fresh + 1 }

/-- A node takes the replica of another, and with it the batches that are still to reach that one. -/
def State.rebuildNode (s : State) (d : Nat) : State :=
  let o := s.anotherDie d
  let x := s.die o
  let mine (e : Nat × Event) : Bool := match e.2 with
    | .tidelineBatchApply n _ => n == d
    | _ => false
  let theirs := s.agenda.filterMap fun e => match e.2 with
    | .tidelineBatchApply n b => if n == o then some (e.1, Event.tidelineBatchApply d b) else none
    | _ => none
  if o == d then s.modDie d fun y => { y with repl := [], vis := [], snaps := [], held := [], stamps := [] }
  else
    { (s.modDie d fun y => { y with repl := x.repl, vis := x.vis, snaps := x.snaps, held := x.held, stamps := x.stamps }) with
      agenda := (s.agenda.filter fun e => !mine e) ++ theirs }.after 4 (.frontierRecompute d)

/-- TIDELINE_NODE_RESET: LEVEL 4. -/
def tidelineNodeReset (d : Nat) (s : State) : State := s.unitReset d false fun s => s.rebuildNode d

/-- A group is stopped and every lane of it exits, as by a GROUP reply followed by ABORT (Table 14-4). -/
def State.abortGroup (s : State) (g : GroupRef) : State :=
  let s := s.modGroup g fun x => { x with stopped := true }
  ((s.teams.filter (·.grp == g)).map (·.ref)).foldl (fun s t =>
    let m := match s.team? t with
      | some tm => tm.lanesIn fun l => l.st != .exited
      | none => 0
    if m = 0 then s else
    let pc := (s.lane t (lowest m)).pc
    s.exitLanes t m pc) s

/-- CORE_RESET: LEVEL 5; the rotation pointers name slot 7 (R129). -/
def coreReset (d unit : Nat) (s : State) : State :=
  s.unitReset d (unit ≥ 128 || s.coreBarred d unit) fun s =>
    let gs := (s.groups.filter fun g => g.die == d && g.core == unit && g.exitAt.isNone).map (·.ref)
    let s := gs.foldl State.abortGroup s
    let s := (s.abortChan d unit 0).abortChan d unit 1
    let s := s.modCore d unit fun c => { c with tb := [], rot := [7, 7, 7, 7] }
    let lo := scrBase d unit
    { s with scratch := cellsClear s.scratch lo (lo + scratchSpan)
             srace := s.srace.filter fun x => !(lo / 32 ≤ x.1 && x.1 < (lo + scratchSpan) / 32) }

/-! ### Dies and the package -/

/-- A die's boot comes after a time that no rule gives. -/
def State.bootLater (s : State) (d : Nat) : State :=
  ({ s with fresh := s.fresh + 1 } : State).after (1 + Config.freeNat s.fresh) (.dieBoot d)

/-- Sectors that a die's L2 holds dirty and that a reset does not write back: what HBM4E holds there is open (log entry 85). -/
def State.loseDirty (s : State) (d : Nat) : State :=
  (s.die d).l2.foldl (fun s l => ((List.range 4).filter fun k => l.dirty.testBit k).foldl (fun s k =>
    { s.memPut (128 * l.line + 32 * k) (leBytes 32 (Config.freeNat s.fresh)) with fresh := s.fresh + 1 }) s) s

/-- A die's L2 is written back: its poisoned sectors stay bad in memory (R232). -/
def State.writeBackAll (s : State) (d : Nat) : State :=
  (s.die d).l2.foldl (fun s l => s.modDie d fun x =>
    { x with bad := x.bad ++ (((List.range 4).filter fun k => l.poison.testBit k).map fun k => (l.line * 4 + k, true)) }) s

/-- What a die's reset clears: every unit of the die and its register block. Memory errors, the ordered lists, which lie in HBM4E
(R258), and C(d) stay (R340). -/
def State.clearDie (s : State) (d : Nat) : State :=
  let lo := scrBase d 0
  let hi := scrBase (d + 1) 0
  let old := s.die d
  let gone (e : Event) : Bool := match e with
    | .firmwareRestartEnd n | .faultRecordWrite n | .migrationEnd n | .invalidationComplete n | .dieBoot n => n == d
    | .jobComplete n _ _ | .jobLastRead n _ _ | .copyReadComplete n _ _ | .outCopyEnd n _ _ | .icacheFill n _ _ _ => n == d
    | _ => false
  { (s.cancel gone) with
    hw := s.hw.filter fun x => !(d * 0x10000 ≤ x.1 && x.1 < (d + 1) * 0x10000 && !(0xE00 ≤ x.1 && x.1 < 0x1000))
    dies := updAt s.dies d fun _ => { Die.init d with up := false, links := old.links, c := old.c, bad := old.bad, ords := old.ords }
    cores := s.cores.filter (·.die != d), clusters := s.clusters.filter (·.die != d)
    engines := s.engines.filter (·.die != d), chans := s.chans.filter (·.die != d)
    pipes := updIf s.pipes (·.home == some d) Pipe.start
    teams := s.teams.filter (·.ref.die != d)
    issues := s.issues.filter (·.team.die != d), chosen := s.chosen.filter (·.team.die != d)
    scratch := cellsClear s.scratch lo hi
    srace := s.srace.filter fun x => !(lo / 32 ≤ x.1 && x.1 < hi / 32) }

/-- A die is reset: dirty lines are written back where it is reachable, and it is unreachable until it reports up (R91, R450). -/
def State.resetDie (s : State) (d : Nat) : State :=
  let s := if (s.die d).up then s.writeBackAll d else s.loseDirty d
  ((dieUnreachable d s).clearDie d).bootLater d

/-- DIE_RESET: LEVEL 6, requested in the block of `d`. RSTGO reads 1 until the target reports up: of a request in the die's own block nothing
else stays. -/
def dieReset (d unit : Nat) (s : State) : State :=
  if unit ≥ 4 then s else
  s.unitReset d false fun s => (((s.resetDie unit).setFld d 0x4100 3 0 6).setFld d 0x4100 15 8 unit).setFld d 0x4100 16 16 1

/-- THERMAL_RESET (R458). -/
def thermalReset (d : Nat) (s : State) : State := s.resetDie d

/-- THERMAL_EVENT (R458). -/
def thermalEvent (d : Nat) (s : State) : State :=
  { s with svc := { s.svc with events := s.svc.events ++ [SvcEvent.thermal d s.clock] } }

/-- The bytes of a marker copy (Table 15-3). -/
def markerBytes (seq bank : Nat) : List Byte :=
  let bs := leBytes 4 0x4B524D51 ++ leBytes 4 seq ++ leBytes 8 bank
  bs ++ leBytes 4 (crc32 bs).toNat

/-- SEQ and BANK of a marker copy, if it is valid: its MAGIC and its CRC match. -/
def markerOf (bs : List Byte) : Option (Nat × Nat) :=
  if bodyWord32 bs 0 == 0x4B524D51 && (crc32 (bs.take 16)).toNat == bodyWord32 bs 16 then some (bodyWord32 bs 4, bodyWord bs 8 % 2) else none

/-- A bank named by the marker copies (R453): that of the valid copy with the higher SEQ, or bank A. -/
def Service.bank (v : Service) : Nat := match markerOf v.m0, markerOf v.m1 with
  | none, none => 0
  | some a, none => a.2
  | none, some b => b.2
  | some a, some b => if b.1 > a.1 then b.2 else a.2

/-- Version of the image in a bank; none where that was left partly written, which no power loss boots (R454). -/
def Service.image (v : Service) (bank : Nat) : Option Nat := if bank == 0 then v.bankA else v.bankB

/-- DIE_BOOT (R53, R304, R452, R453, R456): the configuration record and the cores that fail their checks give the fences; the
firmware core is the lowest core not fenced; the firmware of the bank in force restarts. -/
def dieBoot (d : Nat) (s : State) : State :=
  let bad (r : Config) : Bool := !r.signed
  let s : State := { s with svc := { s.svc with badSigs := s.svc.badSigs + (s.svc.records.filter bad).length } }
  let rec0 : Config := (s.configRecord 1).getD ⟨1, 0, [], [], true, []⟩
  let failed := (List.range 128).filter fun c => Config.checkFails s.fresh c && !rec0.cores.contains ⟨d, c⟩
  let rec1 : Config := { rec0 with seq := rec0.seq + 1, cores := rec0.cores ++ failed.map fun c => ⟨d, c⟩ }
  let s := { s with fresh := s.fresh + 1
                    svc := if failed.isEmpty then s.svc else { s.svc with
                      records := s.svc.records ++ [rec1], events := s.svc.events ++ failed.map fun c => SvcEvent.coreFence d c s.clock } }
  let s := { s with svc := { s.svc with used := [1, 2, 3].filterMap s.configRecord } }
  let fenced := (List.range 128).filter fun c => rec1.cores.contains ⟨d, c⟩
  let s := fenced.foldl (fun s c => s.modCore d c fun x => { x with fenced := true }) s
  let s := (List.range 64).foldl (fun s e =>
    let f : W64 := s.configFence d e
    if f = 0 then s else s.modEngine d e fun (x : Engine) => { x with fence := f }) s
  let fw := ((List.range 128).find? fun c => !fenced.contains c).getD 0
  let s := s.modDie d fun x => { x with fwcore := fw, up := (List.range 4).any fun n => n != d && x.links.testBit n }
  let s := { s with svc := { s.svc with version := updAt s.svc.version d fun v => (s.svc.image s.svc.bank).getD v } }
  let s := (List.range 4).foldl (fun s n =>
    if s.fld n 0x4100 16 16 == 1 && s.fld n 0x4100 15 8 == d then s.setFld n 0x4100 16 16 0 else s) s
  ((s.setFld d 0x008 1 0 1).rebuildNode d).after 1 (.firmwareRestartEnd d)

/-- What every package-level reset leaves: no unit holds anything, and every die boots. -/
def State.cleared (s : State) (c : List Nat) : State :=
  let base : State := { State.reset with
    dies := (List.range 4).map fun d => { Die.init d with up := false, c := c.getD d 0 }
    agenda := [(s.clock + 2 ^ 20 - s.clock % 2 ^ 20, .hotnessHalving)]
    clock := s.clock, fresh := s.fresh, inputs := s.inputs, svc := s.svc }
  (List.range 4).foldl State.bootLater base

/-- PACKAGE_WARM_RESET: HBM4E, flash, Estuary, C(d) and the clocks stay; topo.gen becomes 0. -/
def packageWarmReset (s : State) : State :=
  let f := s.fab
  let s := (List.range 4).foldl State.loseDirty s
  let y := s.cleared (s.dies.map (·.c))
  { y with
    dies := y.dies.map fun x => { x with bad := (s.die x.ix).bad, ords := (s.die x.ix).ords }
    mem := s.mem, irqs := s.irqs, lastRead := s.lastRead, sections := s.sections
    fab := { Fabric.init with devid := f.devid, ftime := f.ftime, phase := f.phase, fibre := f.fibre
                              sent := f.sent, sentMsg := f.sentMsg } }

/-- PACKAGE_COLD_RESET: everything but flash, so CLOCK, C(d) and FXTIME too. -/
def packageColdReset (s : State) : State :=
  let flash := { Service.init with m0 := s.svc.m0, m1 := s.svc.m1, bankA := s.svc.bankA, bankB := s.svc.bankB, records := s.svc.records }
  ({ s with clock := 0, svc := flash } : State).cleared []

/-- MANAGEMENT_DOMAIN_RESET: the management controller alone, with the update that it is making; flash, the dies and Estuary stay. -/
def managementDomainReset (s : State) : State :=
  let gone (e : Event) : Bool := match e with
    | .firmwareUpdate _ | .firmwareActivation _ => true
    | _ => false
  { s.cancel gone with svc := { s.svc with update := none, badSigs := 0, served := [], events := [] } }

def execEngineReset (s : State) : Host.Outcome State Fault Refusal :=
  match s.ev with
  | some (.engineReset d u) => onDie s d (engineReset d u)
  | _ => .fault .noEvent
def execChannelReset (s : State) : Host.Outcome State Fault Refusal :=
  match s.ev with
  | some (.channelReset d u) => onDie s d (channelReset d u)
  | _ => .fault .noEvent
def execWalkerReset (s : State) : Host.Outcome State Fault Refusal :=
  match s.ev with
  | some (.walkerReset d) => onDie s d (walkerReset d)
  | _ => .fault .noEvent
def execTidelineNodeReset (s : State) : Host.Outcome State Fault Refusal :=
  match s.ev with
  | some (.tidelineNodeReset d) => onDie s d (tidelineNodeReset d)
  | _ => .fault .noEvent
def execCoreReset (s : State) : Host.Outcome State Fault Refusal :=
  match s.ev with
  | some (.coreReset d u) => onDie s d (coreReset d u)
  | _ => .fault .noEvent
def execDieReset (s : State) : Host.Outcome State Fault Refusal :=
  match s.ev with
  | some (.dieReset d u) => onDie s d (dieReset d u)
  | _ => .fault .noEvent
def execPackageWarmReset (s : State) : Host.Outcome State Fault Refusal :=
  match s.ev with
  | some .packageWarmReset => .next (packageWarmReset { s with ev := none })
  | _ => .fault .noEvent
def execPackageColdReset (s : State) : Host.Outcome State Fault Refusal :=
  match s.ev with
  | some .packageColdReset => .next (packageColdReset { s with ev := none })
  | _ => .fault .noEvent
def execManagementDomainReset (s : State) : Host.Outcome State Fault Refusal :=
  match s.ev with
  | some .managementDomainReset => .next (managementDomainReset { s with ev := none })
  | _ => .fault .noEvent
def execDieBoot (s : State) : Host.Outcome State Fault Refusal :=
  match s.ev with
  | some (.dieBoot d) => onDie s d (dieBoot d)
  | _ => .fault .noEvent
def execThermalEvent (s : State) : Host.Outcome State Fault Refusal :=
  match s.ev with
  | some (.thermalEvent d) => onDie s d (thermalEvent d)
  | _ => .fault .noEvent
def execThermalReset (s : State) : Host.Outcome State Fault Refusal :=
  match s.ev with
  | some (.thermalReset d) => onDie s d (thermalReset d)
  | _ => .fault .noEvent

/-! ### Recalibration (R452) -/

/-- HBM_CHANNEL_RECALIBRATION: training of a channel starts; it ends within 2^16 cycles. -/
def hbmChannelRecalibration (d chan : Nat) (s : State) : State :=
  { (s.modDie d fun x => { x with training := putKey x.training chan (s.clock + Config.freeNat s.fresh % (2 ^ 16 + 1)) }) with
    fresh := s.fresh + 1 }

/-- WAVELENGTH_RECALIBRATION: a wavelength goes out, and comes back after a time that no rule gives; each goes out alone. -/
def wavelengthRecalibration (plane wave : Nat) (s : State) : State :=
  if s.fab.lambda.contains (plane, wave) then { s with fab := { s.fab with lambda := s.fab.lambda.filter (· != (plane, wave)) } }
  else if !s.fab.lambda.isEmpty then s.after 1 (.wavelengthRecalibration plane wave)
  else
    ({ s with fab := { s.fab with lambda := s.fab.lambda ++ [(plane, wave)] }, fresh := s.fresh + 1 } : State).after
      (1 + Config.freeNat s.fresh) (.wavelengthRecalibration plane wave)

def execHbmChannelRecalibration (s : State) : Host.Outcome State Fault Refusal :=
  match s.ev with
  | some (.hbmChannelRecalibration d c) => onDie s d (hbmChannelRecalibration d c)
  | _ => .fault .noEvent
def execWavelengthRecalibration (s : State) : Host.Outcome State Fault Refusal :=
  match s.ev with
  | some (.wavelengthRecalibration p w) =>
    if p < 32 && w < 8 then .next (wavelengthRecalibration p w { s with ev := none }) else .fault .noUnit
  | _ => .fault .noEvent

/-! ### Firmware (R454, R455) -/

/-- Step 3 of R454: the copy to write, 0 or 1, and its SEQ: that with the lower SEQ, or M1 when only M0 is valid. -/
def Service.nextMark (v : Service) : Nat × Nat := match markerOf v.m0, markerOf v.m1 with
  | none, none => (0, 1)
  | some a, none => (1, a.1 + 1)
  | none, some b => (0, b.1 + 1)
  | some a, some b => if b.1 > a.1 then (0, b.1 + 1) else (1, a.1 + 1)

def Service.setMark (v : Service) (copy : Nat) (bs : List Byte) : Service := if copy == 0 then { v with m0 := bs } else { v with m1 := bs }
def Service.setBank (v : Service) (bank : Nat) (image : Option Nat) : Service :=
  if bank == 0 then { v with bankA := image } else { v with bankB := image }

/-- A write of the update begins, and ends after a time that no rule gives. -/
def State.updateStep (s : State) (version step : Nat) (v : Service) : State :=
  ({ s with svc := { v with update := some (version, step) }, fresh := s.fresh + 1 } : State).after
    (1 + Config.freeNat s.fresh) (.firmwareUpdate version)

/-- FIRMWARE_UPDATE: the image is written into the inactive bank, verified, marked, and activated die by die (R454). While a write goes on, a
power loss finds the bank partly written, or the marker copy without a matching CRC; another update waits for this one to end. -/
def firmwareUpdate (version : Nat) (s : State) : State :=
  let v := s.svc
  let bank := 1 - v.bank
  match v.update with
  | none => s.updateStep version 1 (v.setBank bank none)
  | some (n, step) =>
    if n != version then s.after 1 (.firmwareUpdate version) else
    let m := v.nextMark
    match step with
    | 1 =>
      let w := v.setBank bank (some version)
      if Config.signatureValid version then s.updateStep version (2 + 2 * m.2 + m.1) (w.setMark m.1 (List.replicate 20 0))
      else { s with svc := { w with update := none } }
    | k =>
      let s := { s with svc := { v.setMark (k % 2) (markerBytes ((k - 2) / 2) bank) with update := none } }
      if Config.imageHwver version != 1 then s else s.after 0 (.firmwareActivation 0)

/-- FIRMWARE_ACTIVATION of a die: it waits until the die before it reports FWSTATE 0b00. -/
def firmwareActivation (d : Nat) (s : State) : State :=
  if !(s.die d).up || (d != 0 && !s.fwRuns (d - 1)) then s.after 1 (.firmwareActivation d) else
  let bad := Config.checkFails s.fresh 128
  let bank := if bad then 1 - s.svc.bank else s.svc.bank
  let s := ({ s with fresh := s.fresh + 1 } : State)
  let s := (firmwareRestart d s).setFld d 0x008 1 0 2
  let s := { s with svc := { s.svc with version := updAt s.svc.version d fun v => (s.svc.image bank).getD v }, fresh := s.fresh + 1 }
  let s := s.after (1 + Config.freeNat s.fresh) (.firmwareRestartEnd d)
  if bad then s.setFld d 0x4100 18 18 1
  else if d < 3 then s.after 1 (.firmwareActivation (d + 1)) else s

def execFirmwareUpdate (s : State) : Host.Outcome State Fault Refusal :=
  match s.ev with
  | some (.firmwareUpdate v) => .next (firmwareUpdate v { s with ev := none })
  | _ => .fault .noEvent
def execFirmwareActivation (s : State) : Host.Outcome State Fault Refusal :=
  match s.ev with
  | some (.firmwareActivation d) => onDie s d (firmwareActivation d)
  | _ => .fault .noEvent

/-! ### Telemetry (R457) -/

/-- Offsets of a die's counters, in register order: every register that a read clears (R459). -/
def counterOffsets : List Nat := ((List.range 0x823).map fun i => 8 * i).filter fun o => rcMask o != 0

/-- The counter fields of a register. -/
def State.counterWord (s : State) (d off : Nat) : W64 :=
  let (m, v) := s.computed d off
  BitVec.ofNat 64 ((((s.reg d off).toNat &&& (m64 ^^^ m)) ||| v) &&& rcMask off)

/-- Contents of an event in schema 0x0201: serial, KIND, die, time; what a fence or thermal event gives as serial and KIND is
open (log entry 16). -/
def SvcEvent.words : SvcEvent → List W64
  | .fault n k d t => [BitVec.ofNat 64 n, BitVec.ofNat 64 k, BitVec.ofNat 64 d, BitVec.ofNat 64 t]
  | .fence d _ t => [Config.telemetryReading 0x0201 0, Config.telemetryReading 0x0201 1, BitVec.ofNat 64 d, BitVec.ofNat 64 t]
  | .coreFence d _ t => [Config.telemetryReading 0x0201 4, Config.telemetryReading 0x0201 5, BitVec.ofNat 64 d, BitVec.ofNat 64 t]
  | .thermal d t => [Config.telemetryReading 0x0201 2, Config.telemetryReading 0x0201 3, BitVec.ofNat 64 d, BitVec.ofNat 64 t]

/-- Contents of a schema of Table 15-4; none for another number. Measured quantities are free. -/
def State.telemetry (s : State) (schema : Nat) : Option (List W64) :=
  let perDie (f : Nat → List W64) : List W64 := (List.range 4).flatMap f
  match schema with
  | 0x0101 => some (perDie fun d => counterOffsets.map (s.counterWord d) ++ [BitVec.ofNat 64 (s.svc.badacc.getD d 0)])
  | 0x0102 => some ((perDie fun d =>
      ((List.range 32).map fun c => s.counterWord d (0x3008 + 32 * c)) ++
      [s.counterWord d 0x820, s.counterWord d 0xA20, s.counterWord d 0xB20]) ++ [s.counterWord 0 0xE38])
  | 0x0201 => some (s.svc.events.flatMap SvcEvent.words)
  | 0x0301 => some ((List.range 4).map fun d => Config.telemetryReading 0x0301 (4 * s.fresh + d))
  | 0x0302 => some [Config.telemetryReading 0x0302 s.fresh]
  | 0x0401 => some ((List.range 32).flatMap fun q =>
      [BitVec.ofNat 64 (s.fab.fibre.getD q 0), BitVec.ofNat 64 ((s.fab.lambda.filter (·.1 == q)).map fun x => 2 ^ x.2).sum])
  | _ => none

/-- TELEMETRY_READ: a record with the schema number, version 1.0 and the contents; a schema that the table does not list gives
none. -/
def telemetryRead (schema : Nat) (s : State) : State :=
  match s.telemetry schema with
  | some ws => { s with fresh := s.fresh + 1
                        svc := { s.svc with served := s.svc.served ++ [(schema, BitVec.ofNat 64 (schema % 2 ^ 16 + 2 ^ 16) :: ws)] } }
  | none => s

def execTelemetryRead (s : State) : Host.Outcome State Fault Refusal :=
  match s.ev with
  | some (.telemetryRead n) => .next (telemetryRead n { s with ev := none })
  | _ => .fault .noEvent

end Sys2Proof.Machine
end

