-- ==== Sys2Proof/Machine/Dispatch.lean ====
section
/-! DEFINITION. exec: one arm per constructor of Instr, each one call of that instruction's meaning. -/

namespace Sys2Proof.Machine

def exec (i : Instr) (s : State) : Host.Outcome State Fault Refusal :=
  match i with
  | .nop h o => Sys2Proof.Machine.execNop h o s
  | .bra h o => Sys2Proof.Machine.execBra h o s
  | .brx h o => Sys2Proof.Machine.execBrx h o s
  | .call h o => Sys2Proof.Machine.execCall h o s
  | .ret h o => Sys2Proof.Machine.execRet h o s
  | .join h o => Sys2Proof.Machine.execJoin h o s
  | .jset h o => Sys2Proof.Machine.execJset h o s
  | .jclr h o => Sys2Proof.Machine.execJclr h o s
  | .exit h o => Sys2Proof.Machine.execExit h o s
  | .yield h o => Sys2Proof.Machine.execYield h o s
  | .sleep h o => Sys2Proof.Machine.execSleep h o s
  | .fjmp h o => Sys2Proof.Machine.execFjmp h o s
  | .cfetch h o => Sys2Proof.Machine.execCfetch h o s
  | .prefi h o => Sys2Proof.Machine.execPrefi h o s
  | .iadd h o => Sys2Proof.Machine.execIadd h o s
  | .isub h o => Sys2Proof.Machine.execIsub h o s
  | .imul h o => Sys2Proof.Machine.execImul h o s
  | .imulhi h o => Sys2Proof.Machine.execImulhi h o s
  | .imad h o => Sys2Proof.Machine.execImad h o s
  | .imadw h o => Sys2Proof.Machine.execImadw h o s
  | .idiv h o => Sys2Proof.Machine.execIdiv h o s
  | .irem h o => Sys2Proof.Machine.execIrem h o s
  | .ineg h o => Sys2Proof.Machine.execIneg h o s
  | .iabs h o => Sys2Proof.Machine.execIabs h o s
  | .imin h o => Sys2Proof.Machine.execImin h o s
  | .imax h o => Sys2Proof.Machine.execImax h o s
  | .iclamp h o => Sys2Proof.Machine.execIclamp h o s
  | .isad h o => Sys2Proof.Machine.execIsad h o s
  | .aadd h o => Sys2Proof.Machine.execAadd h o s
  | .lea h o => Sys2Proof.Machine.execLea h o s
  | .mov h o => Sys2Proof.Machine.execMov h o s
  | .movi h o => Sys2Proof.Machine.execMovi h o s
  | .movk h o => Sys2Proof.Machine.execMovk h o s
  | .sel h o => Sys2Proof.Machine.execSel h o s
  | .and h o => Sys2Proof.Machine.execAnd h o s
  | .or h o => Sys2Proof.Machine.execOr h o s
  | .xor h o => Sys2Proof.Machine.execXor h o s
  | .not h o => Sys2Proof.Machine.execNot h o s
  | .lop3 h o => Sys2Proof.Machine.execLop3 h o s
  | .shl h o => Sys2Proof.Machine.execShl h o s
  | .shr h o => Sys2Proof.Machine.execShr h o s
  | .sar h o => Sys2Proof.Machine.execSar h o s
  | .rot h o => Sys2Proof.Machine.execRot h o s
  | .shf h o => Sys2Proof.Machine.execShf h o s
  | .popc h o => Sys2Proof.Machine.execPopc h o s
  | .clz h o => Sys2Proof.Machine.execClz h o s
  | .ctz h o => Sys2Proof.Machine.execCtz h o s
  | .brev h o => Sys2Proof.Machine.execBrev h o s
  | .bfe h o => Sys2Proof.Machine.execBfe h o s
  | .bfi h o => Sys2Proof.Machine.execBfi h o s
  | .prmt h o => Sys2Proof.Machine.execPrmt h o s
  | .sext h o => Sys2Proof.Machine.execSext h o s
  | .icmp h o => Sys2Proof.Machine.execIcmp h o s
  | .fcmp h o => Sys2Proof.Machine.execFcmp h o s
  | .pset h o => Sys2Proof.Machine.execPset h o s
  | .p2g h o => Sys2Proof.Machine.execP2g h o s
  | .g2p h o => Sys2Proof.Machine.execG2p h o s
  | .ballot h o => Sys2Proof.Machine.execBallot h o s
  | .vote h o => Sys2Proof.Machine.execVote h o s
  | .shfl h o => Sys2Proof.Machine.execShfl h o s
  | .bcast h o => Sys2Proof.Machine.execBcast h o s
  | .tred h o => Sys2Proof.Machine.execTred h o s
  | .tscan h o => Sys2Proof.Machine.execTscan h o s
  | .matchLanes h o => Sys2Proof.Machine.execMatchLanes h o s
  | .kmov h o => Sys2Proof.Machine.execKmov h o s
  | .kadd h o => Sys2Proof.Machine.execKadd h o s
  | .kcmp h o => Sys2Proof.Machine.execKcmp h o s
  | .kld h o => Sys2Proof.Machine.execKld h o s
  | .rdsr h o => Sys2Proof.Machine.execRdsr h o s
  | .wrsr h o => Sys2Proof.Machine.execWrsr h o s
  | .clk h o => Sys2Proof.Machine.execClk h o s
  | .fadd h o => Sys2Proof.Machine.execFadd h o s
  | .fsub h o => Sys2Proof.Machine.execFsub h o s
  | .fmul h o => Sys2Proof.Machine.execFmul h o s
  | .ffma h o => Sys2Proof.Machine.execFfma h o s
  | .fmin h o => Sys2Proof.Machine.execFmin h o s
  | .fmax h o => Sys2Proof.Machine.execFmax h o s
  | .frcp h o => Sys2Proof.Machine.execFrcp h o s
  | .frsq h o => Sys2Proof.Machine.execFrsq h o s
  | .fsqrt h o => Sys2Proof.Machine.execFsqrt h o s
  | .fdiv h o => Sys2Proof.Machine.execFdiv h o s
  | .fex2 h o => Sys2Proof.Machine.execFex2 h o s
  | .flg2 h o => Sys2Proof.Machine.execFlg2 h o s
  | .fsin h o => Sys2Proof.Machine.execFsin h o s
  | .fcos h o => Sys2Proof.Machine.execFcos h o s
  | .ftanh h o => Sys2Proof.Machine.execFtanh h o s
  | .fclass h o => Sys2Proof.Machine.execFclass h o s
  | .fscale h o => Sys2Proof.Machine.execFscale h o s
  | .frnd h o => Sys2Proof.Machine.execFrnd h o s
  | .hadd2F16 h o => Sys2Proof.Machine.execHadd2F16 h o s
  | .hmul2F16 h o => Sys2Proof.Machine.execHmul2F16 h o s
  | .hfma2F16 h o => Sys2Proof.Machine.execHfma2F16 h o s
  | .hmin2F16 h o => Sys2Proof.Machine.execHmin2F16 h o s
  | .hmax2F16 h o => Sys2Proof.Machine.execHmax2F16 h o s
  | .hdot2F16 h o => Sys2Proof.Machine.execHdot2F16 h o s
  | .hadd2Bf16 h o => Sys2Proof.Machine.execHadd2Bf16 h o s
  | .hmul2Bf16 h o => Sys2Proof.Machine.execHmul2Bf16 h o s
  | .hfma2Bf16 h o => Sys2Proof.Machine.execHfma2Bf16 h o s
  | .hmin2Bf16 h o => Sys2Proof.Machine.execHmin2Bf16 h o s
  | .hmax2Bf16 h o => Sys2Proof.Machine.execHmax2Bf16 h o s
  | .hdot2Bf16 h o => Sys2Proof.Machine.execHdot2Bf16 h o s
  | .cvt h o => Sys2Proof.Machine.execCvt h o s
  | .quant h o => Sys2Proof.Machine.execQuant h o s
  | .dequant h o => Sys2Proof.Machine.execDequant h o s
  | .packPlanes h o => Sys2Proof.Machine.execPackPlanes h o s
  | .packPair h o => Sys2Proof.Machine.execPackPair h o s
  | .unpackPlanes h o => Sys2Proof.Machine.execUnpackPlanes h o s
  | .unpackPair h o => Sys2Proof.Machine.execUnpackPair h o s
  | .scalmax h o => Sys2Proof.Machine.execScalmax h o s
  | .ld h o => Sys2Proof.Machine.execLd h o s
  | .st h o => Sys2Proof.Machine.execSt h o s
  | .ldk h o => Sys2Proof.Machine.execLdk h o s
  | .stc h o => Sys2Proof.Machine.execStc h o s
  | .lde h o => Sys2Proof.Machine.execLde h o s
  | .prefd h o => Sys2Proof.Machine.execPrefd h o s
  | .cctlIcinv h o => Sys2Proof.Machine.execCctlIcinv h o s
  | .cctlRdcinv h o => Sys2Proof.Machine.execCctlRdcinv h o s
  | .cctlWb h o => Sys2Proof.Machine.execCctlWb h o s
  | .cctlWbinv h o => Sys2Proof.Machine.execCctlWbinv h o s
  | .atom h o => Sys2Proof.Machine.execAtom h o s
  | .red h o => Sys2Proof.Machine.execRed h o s
  | .cas h o => Sys2Proof.Machine.execCas h o s
  | .ordadd h o => Sys2Proof.Machine.execOrdadd h o s
  | .flushord h o => Sys2Proof.Machine.execFlushord h o s
  | .fence h o => Sys2Proof.Machine.execFence h o s
  | .cpy h o => Sys2Proof.Machine.execCpy h o s
  | .cpytIn h o => Sys2Proof.Machine.execCpytIn h o s
  | .cpytOut h o => Sys2Proof.Machine.execCpytOut h o s
  | .cpycsr h o => Sys2Proof.Machine.execCpycsr h o s
  | .bsetArm h o => Sys2Proof.Machine.execBsetArm h o s
  | .bsetClose h o => Sys2Proof.Machine.execBsetClose h o s
  | .bsetDrain h o => Sys2Proof.Machine.execBsetDrain h o s
  | .bsetFree h o => Sys2Proof.Machine.execBsetFree h o s
  | .bsetReset h o => Sys2Proof.Machine.execBsetReset h o s
  | .bwait h o => Sys2Proof.Machine.execBwait h o s
  | .bquery h o => Sys2Proof.Machine.execBquery h o s
  | .wptr h o => Sys2Proof.Machine.execWptr h o s
  | .wptrGe h o => Sys2Proof.Machine.execWptrGe h o s
  | .pres h o => Sys2Proof.Machine.execPres h o s
  | .pcom h o => Sys2Proof.Machine.execPcom h o s
  | .ptake h o => Sys2Proof.Machine.execPtake h o s
  | .prel h o => Sys2Proof.Machine.execPrel h o s
  | .pcpyIn h o => Sys2Proof.Machine.execPcpyIn h o s
  | .pcpyOut h o => Sys2Proof.Machine.execPcpyOut h o s
  | .pquery h o => Sys2Proof.Machine.execPquery h o s
  | .pspill h o => Sys2Proof.Machine.execPspill h o s
  | .pdrain h o => Sys2Proof.Machine.execPdrain h o s
  | .mxLdb h o => Sys2Proof.Machine.execMxLdb h o s
  | .mxMma h o => Sys2Proof.Machine.execMxMma h o s
  | .mxGmma h o => Sys2Proof.Machine.execMxGmma h o s
  | .mxRd h o => Sys2Proof.Machine.execMxRd h o s
  | .mxClr h o => Sys2Proof.Machine.execMxClr h o s
  | .mxPost h o => Sys2Proof.Machine.execMxPost h o s
  | .mxRing h o => Sys2Proof.Machine.execMxRing h o s
  | .mxStat h o => Sys2Proof.Machine.execMxStat h o s
  | .barArr h o => Sys2Proof.Machine.execBarArr h o s
  | .barWait h o => Sys2Proof.Machine.execBarWait h o s
  | .barSync h o => Sys2Proof.Machine.execBarSync h o s
  | .barBytes h o => Sys2Proof.Machine.execBarBytes h o s
  | .barMem h o => Sys2Proof.Machine.execBarMem h o s
  | .barMemBind h o => Sys2Proof.Machine.execBarMemBind h o s
  | .barMemUnbind h o => Sys2Proof.Machine.execBarMemUnbind h o s
  | .tlSig h o => Sys2Proof.Machine.execTlSig h o s
  | .tlWait h o => Sys2Proof.Machine.execTlWait h o s
  | .tlRd h o => Sys2Proof.Machine.execTlRd h o s
  | .ltSet h o => Sys2Proof.Machine.execLtSet h o s
  | .ltAdv h o => Sys2Proof.Machine.execLtAdv h o s
  | .ltHold h o => Sys2Proof.Machine.execLtHold h o s
  | .ltHoldRoot h o => Sys2Proof.Machine.execLtHoldRoot h o s
  | .ltDrop h o => Sys2Proof.Machine.execLtDrop h o s
  | .ltDropRoot h o => Sys2Proof.Machine.execLtDropRoot h o s
  | .ltFront h o => Sys2Proof.Machine.execLtFront h o s
  | .ltAwait h o => Sys2Proof.Machine.execLtAwait h o s
  | .tkPost h o => Sys2Proof.Machine.execTkPost h o s
  | .tkDone h o => Sys2Proof.Machine.execTkDone h o s
  | .tkArmBind h o => Sys2Proof.Machine.execTkArmBind h o s
  | .tkArmUnbind h o => Sys2Proof.Machine.execTkArmUnbind h o s
  | .tkArmTake h o => Sys2Proof.Machine.execTkArmTake h o s
  | .tkArmTakeDirect h o => Sys2Proof.Machine.execTkArmTakeDirect h o s
  | .fxSend h o => Sys2Proof.Machine.execFxSend h o s
  | .fxCirc h o => Sys2Proof.Machine.execFxCirc h o s
  | .fxGen h o => Sys2Proof.Machine.execFxGen h o s
  | .fxGenNe h o => Sys2Proof.Machine.execFxGenNe h o s
  | .fxSlot h o => Sys2Proof.Machine.execFxSlot h o s
  | .fxQstat h o => Sys2Proof.Machine.execFxQstat h o s
  | .coFire h o => Sys2Proof.Machine.execCoFire h o s
  | .coAck h o => Sys2Proof.Machine.execCoAck h o s
  | .coAckAll h o => Sys2Proof.Machine.execCoAckAll h o s
  | .coStat h o => Sys2Proof.Machine.execCoStat h o s
  | .trap h o => Sys2Proof.Machine.execTrap h o s
  | .brk h o => Sys2Proof.Machine.execBrk h o s
  | .sysc h o => Sys2Proof.Machine.execSysc h o s
  | .wdkick h o => Sys2Proof.Machine.execWdkick h o s
  | .rte h o => Sys2Proof.Machine.execRte h o s
  | .rdwin h o => Sys2Proof.Machine.execRdwin h o s
  | .wrwin h o => Sys2Proof.Machine.execWrwin h o s
  | .park h o => Sys2Proof.Machine.execPark h o s
  | .unpark h o => Sys2Proof.Machine.execUnpark h o s
  | .csave h o => Sys2Proof.Machine.execCsave h o s
  | .crest h o => Sys2Proof.Machine.execCrest h o s
  | .halt h o => Sys2Proof.Machine.execHalt h o s
  | .quadIssue => Sys2Proof.Machine.execQuadIssue s
  | .watchdogExpiry => Sys2Proof.Machine.execWatchdogExpiry s
  | .sleepExpiry => Sys2Proof.Machine.execSleepExpiry s
  | .lookaheadResult => Sys2Proof.Machine.execLookaheadResult s
  | .icacheFill => Sys2Proof.Machine.execIcacheFill s
  | .cfetchLanded => Sys2Proof.Machine.execCfetchLanded s
  | .tailSubmission => Sys2Proof.Machine.execTailSubmission s
  | .fifoEntryEvaluation => Sys2Proof.Machine.execFifoEntryEvaluation s
  | .tailerrClear => Sys2Proof.Machine.execTailerrClear s
  | .queueEnable => Sys2Proof.Machine.execQueueEnable s
  | .qheadWrite => Sys2Proof.Machine.execQheadWrite s
  | .cmdNop => Sys2Proof.Machine.execCmdNop s
  | .cmdResume => Sys2Proof.Machine.execCmdResume s
  | .cmdPreempt => Sys2Proof.Machine.execCmdPreempt s
  | .cmdDrainPlan => Sys2Proof.Machine.execCmdDrainPlan s
  | .cmdIndirect => Sys2Proof.Machine.execCmdIndirect s
  | .cmdReturn => Sys2Proof.Machine.execCmdReturn s
  | .cmdSignal => Sys2Proof.Machine.execCmdSignal s
  | .cmdWaitTime => Sys2Proof.Machine.execCmdWaitTime s
  | .cmdFence => Sys2Proof.Machine.execCmdFence s
  | .waitTimePoll => Sys2Proof.Machine.execWaitTimePoll s
  | .fenceCommit => Sys2Proof.Machine.execFenceCommit s
  | .firmwareRestart => Sys2Proof.Machine.execFirmwareRestart s
  | .ctxidWrite => Sys2Proof.Machine.execCtxidWrite s
  | .restorePhase => Sys2Proof.Machine.execRestorePhase s
  | .startUnits => Sys2Proof.Machine.execStartUnits s
  | .gangPlace => Sys2Proof.Machine.execGangPlace s
  | .plwaitExpiry => Sys2Proof.Machine.execPlwaitExpiry s
  | .shadowSlotTake => Sys2Proof.Machine.execShadowSlotTake s
  | .weirSample => Sys2Proof.Machine.execWeirSample s
  | .weirIntervalEnd => Sys2Proof.Machine.execWeirIntervalEnd s
  | .sluiceDeferredServe => Sys2Proof.Machine.execSluiceDeferredServe s
  | .dieLinkFail => Sys2Proof.Machine.execDieLinkFail s
  | .dieUnreachable => Sys2Proof.Machine.execDieUnreachable s
  | .memoryAccessPerform => Sys2Proof.Machine.execMemoryAccessPerform s
  | .translationWalk => Sys2Proof.Machine.execTranslationWalk s
  | .rdcProbe => Sys2Proof.Machine.execRdcProbe s
  | .probeAck => Sys2Proof.Machine.execProbeAck s
  | .dropNotice => Sys2Proof.Machine.execDropNotice s
  | .hbmRefresh => Sys2Proof.Machine.execHbmRefresh s
  | .invalidationStart => Sys2Proof.Machine.execInvalidationStart s
  | .invalidationComplete => Sys2Proof.Machine.execInvalidationComplete s
  | .migrationStart => Sys2Proof.Machine.execMigrationStart s
  | .migrationEnd => Sys2Proof.Machine.execMigrationEnd s
  | .hotnessHalving => Sys2Proof.Machine.execHotnessHalving s
  | .orderedOverflow => Sys2Proof.Machine.execOrderedOverflow s
  | .orddrop => Sys2Proof.Machine.execOrddrop s
  | .copyDescriptorStart => Sys2Proof.Machine.execCopyDescriptorStart s
  | .copyReadComplete => Sys2Proof.Machine.execCopyReadComplete s
  | .deliveryCount => Sys2Proof.Machine.execDeliveryCount s
  | .outCopyEnd => Sys2Proof.Machine.execOutCopyEnd s
  | .handleWaiterWake => Sys2Proof.Machine.execHandleWaiterWake s
  | .pipeRequestArrival => Sys2Proof.Machine.execPipeRequestArrival s
  | .pipeCounterChange => Sys2Proof.Machine.execPipeCounterChange s
  | .tileSpill => Sys2Proof.Machine.execTileSpill s
  | .deadlockDeclaration => Sys2Proof.Machine.execDeadlockDeclaration s
  | .stagingTransfer => Sys2Proof.Machine.execStagingTransfer s
  | .tileArrival => Sys2Proof.Machine.execTileArrival s
  | .creditReport => Sys2Proof.Machine.execCreditReport s
  | .stagingAck => Sys2Proof.Machine.execStagingAck s
  | .jobStart => Sys2Proof.Machine.execJobStart s
  | .jobLastRead => Sys2Proof.Machine.execJobLastRead s
  | .engineArrival => Sys2Proof.Machine.execEngineArrival s
  | .jobComplete => Sys2Proof.Machine.execJobComplete s
  | .selfTest => Sys2Proof.Machine.execSelfTest s
  | .controlStoreLoad => Sys2Proof.Machine.execControlStoreLoad s
  | .barrierPhaseAdvance => Sys2Proof.Machine.execBarrierPhaseAdvance s
  | .barrierWaiterRelease => Sys2Proof.Machine.execBarrierWaiterRelease s
  | .tlSigComplete => Sys2Proof.Machine.execTlSigComplete s
  | .timelineWaiterWake => Sys2Proof.Machine.execTimelineWaiterWake s
  | .tidelineBatchApply => Sys2Proof.Machine.execTidelineBatchApply s
  | .frontierRecompute => Sys2Proof.Machine.execFrontierRecompute s
  | .frontierWaiterRelease => Sys2Proof.Machine.execFrontierWaiterRelease s
  | .tidelineHeldTimeout => Sys2Proof.Machine.execTidelineHeldTimeout s
  | .taskRequestArrival => Sys2Proof.Machine.execTaskRequestArrival s
  | .taskVerdictReturn => Sys2Proof.Machine.execTaskVerdictReturn s
  | .ualinkReplay => Sys2Proof.Machine.execUalinkReplay s
  | .ualinkPortFail => Sys2Proof.Machine.execUalinkPortFail s
  | .ualinkPortRetrain => Sys2Proof.Machine.execUalinkPortRetrain s
  | .ualinkRouteTimeout => Sys2Proof.Machine.execUalinkRouteTimeout s
  | .sendEligible => Sys2Proof.Machine.execSendEligible s
  | .dataPeriodStart => Sys2Proof.Machine.execDataPeriodStart s
  | .guardInterval => Sys2Proof.Machine.execGuardInterval s
  | .frameReceive => Sys2Proof.Machine.execFrameReceive s
  | .frameAckReceive => Sys2Proof.Machine.execFrameAckReceive s
  | .controlMessage => Sys2Proof.Machine.execControlMessage s
  | .circuitRequestArrival => Sys2Proof.Machine.execCircuitRequestArrival s
  | .tableActivation => Sys2Proof.Machine.execTableActivation s
  | .circuitRequestWithdraw => Sys2Proof.Machine.execCircuitRequestWithdraw s
  | .receiveWindowEnable => Sys2Proof.Machine.execReceiveWindowEnable s
  | .childPartialArrival => Sys2Proof.Machine.execChildPartialArrival s
  | .reduceBlockEnd => Sys2Proof.Machine.execReduceBlockEnd s
  | .commitRequest => Sys2Proof.Machine.execCommitRequest s
  | .broadcastArrival => Sys2Proof.Machine.execBroadcastArrival s
  | .redoRequest => Sys2Proof.Machine.execRedoRequest s
  | .redo => Sys2Proof.Machine.execRedo s
  | .collectiveFail => Sys2Proof.Machine.execCollectiveFail s
  | .faultRecordWrite => Sys2Proof.Machine.execFaultRecordWrite s
  | .drainEnd => Sys2Proof.Machine.execDrainEnd s
  | .forceCycle => Sys2Proof.Machine.execForceCycle s
  | .quiesce => Sys2Proof.Machine.execQuiesce s
  | .groupResourcesFree => Sys2Proof.Machine.execGroupResourcesFree s
  | .launchRetire => Sys2Proof.Machine.execLaunchRetire s
  | .planRetire => Sys2Proof.Machine.execPlanRetire s
  | .engineReset => Sys2Proof.Machine.execEngineReset s
  | .channelReset => Sys2Proof.Machine.execChannelReset s
  | .walkerReset => Sys2Proof.Machine.execWalkerReset s
  | .tidelineNodeReset => Sys2Proof.Machine.execTidelineNodeReset s
  | .coreReset => Sys2Proof.Machine.execCoreReset s
  | .dieReset => Sys2Proof.Machine.execDieReset s
  | .packageWarmReset => Sys2Proof.Machine.execPackageWarmReset s
  | .packageColdReset => Sys2Proof.Machine.execPackageColdReset s
  | .managementDomainReset => Sys2Proof.Machine.execManagementDomainReset s
  | .dieBoot => Sys2Proof.Machine.execDieBoot s
  | .hbmChannelRecalibration => Sys2Proof.Machine.execHbmChannelRecalibration s
  | .wavelengthRecalibration => Sys2Proof.Machine.execWavelengthRecalibration s
  | .firmwareUpdate => Sys2Proof.Machine.execFirmwareUpdate s
  | .firmwareActivation => Sys2Proof.Machine.execFirmwareActivation s
  | .thermalEvent => Sys2Proof.Machine.execThermalEvent s
  | .thermalReset => Sys2Proof.Machine.execThermalReset s
  | .telemetryRead => Sys2Proof.Machine.execTelemetryRead s
  | .counterReadClear => Sys2Proof.Machine.execCounterReadClear s
  | .registerWrite => Sys2Proof.Machine.execRegisterWrite s
  | .waitTimeClockReached => Sys2Proof.Machine.execWaitTimeClockReached s
  | .fqbaseWrite => Sys2Proof.Machine.execFqbaseWrite s
  | .fqtailWrite => Sys2Proof.Machine.execFqtailWrite s
  | .firmwareRestartEnd => Sys2Proof.Machine.execFirmwareRestartEnd s

end Sys2Proof.Machine
end

