-- ==== Sys2Proof/Machine/Schedule.lean ====
section
/-! DEFINITION. The order in which the events of one cycle happen, and the end of a cycle (log entry 1). -/

namespace Sys2Proof.Machine

/-- The die whose queue a command event comes from. -/
def cmdDie : Event → Option Nat
  | .cmdNop q _ _ | .cmdResume q _ _ | .cmdPreempt q _ _ | .cmdDrainPlan q _ _ | .cmdIndirect q _ _ | .cmdReturn q _ _
  | .cmdSignal q _ _ | .cmdWaitTime q _ _ | .cmdFence q _ _ => some q.die
  | _ => none

def fourDies : List Nat := [0, 1, 2, 3]

/-- FIFO entries that the firmware evaluates, at most one command of each die, and queues that wait and can go on (R56, R63). -/
def State.queueEvents (s : State) : List Event :=
  let fifo := (fourDies.filter fun d => s.fwRuns d && !(s.die d).fifo.isEmpty).map Event.fifoEntryEvaluation
  let cmds := (fourDies.filter fun d => !s.acted.any fun e => cmdDie e == some d).filterMap fun d =>
    (s.nextQueue d).map s.cmdEvent
  let waits := fourDies.flatMap fun d => ((s.die d).queues.zipIdx).filterMap fun (x, n) =>
    let q : QRef := ⟨d, n⟩
    match x.block with
    | .resume _ => if s.freeIds.isEmpty then none else some (.ctxidWrite q)
    | .fence => if x.plans.isEmpty && s.qEn q && !s.isDue (· == .fenceCommit q) then some (.fenceCommit q) else none
    | _ => none
  fifo ++ cmds ++ waits

/-- Engines that take or dispose of a job in this cycle. -/
def State.jobEvents (s : State) : List Event :=
  (s.clusters.filter fun c => !c.queue.isEmpty).flatMap fun c =>
    ([0, 1].filter fun e => (s.jobPick c.die c.ix e).isSome).map fun e => .jobStart c.die c.ix e

/-- Number of a team's quad among those of the package: the firmware core comes after the work cores of its die. -/
def State.quadKey (s : State) (t : TeamRef) : Nat :=
  (((s.isFw t).toNat * 4 + t.die) * 128 + t.core) * 8 + t.slot / 8

/-- The quads that hold teams, in order. -/
def State.quadEvents (s : State) : List Event :=
  (sortBy s.quadKey (s.teams.map fun t => ({ t.ref with slot := t.ref.slot / 8 * 8 } : TeamRef)).dedup).map fun t =>
    .quadIssue t.die t.core (t.slot / 8)

def isQuiesce : Event → Bool
  | .quiesce _ => true
  | _ => false

/-- What could happen in this cycle beside what the schedule holds, in order. A save is written last: the units that go on after one
that does not fit its area act in the next cycle (R430). -/
def State.candidates (s : State) : List Event :=
  let units (l : List Event) : List Event := if s.acted.any isQuiesce then [] else l
  s.queueEvents ++ s.drainEvents ++ s.placeEvent.toList ++ s.slotCandidates ++ units s.jobEvents ++
  ((fourDies.filter s.invDone).map Event.invalidationComplete) ++ s.deadlockEvents ++ s.retireEvents ++ units s.quadEvents ++
  s.quiesceEvents

/-- A candidate may happen: each happens once in a cycle, but for the evaluation of FIFO entries. -/
def State.mayAct (s : State) (e : Event) : Bool := match e with
  | .fifoEntryEvaluation _ => true
  | _ => !s.acted.contains e

/-- The first scheduled event that is due, and the rest of the schedule. -/
def dueFirst (clock : Nat) : List (Nat × Event) → Option (Event × List (Nat × Event))
  | [] => none
  | (c, e) :: t => if c ≤ clock then some (e, t) else (dueFirst clock t).map fun r => (r.1, (c, e) :: r.2)

/-- The event that happens next, and the state without it: what came from outside, what is due, what can happen, and at the
cycle's end what is left for it. None where the cycle has nothing more. -/
def State.pickEvent (s : State) : Option (Event × State) :=
  match s.inputs with
  | e :: rest => some (e, { s with inputs := rest })
  | [] =>
    match dueFirst s.clock s.agenda with
    | some (e, rest) => some (e, { s with agenda := rest })
    | none =>
      if s.closing then
        match s.eoc with
        | e :: rest => some (e, { s with eoc := rest })
        | [] => s.freeEvents.head?.map fun e => (e, s)
      else (s.candidates.find? s.mayAct).map fun e => (e, { s with acted := s.acted ++ [e] })

/-! ### The order of the issues of a cycle -/

/-- A root operation: class 13, operations 18 and 19, with option bit 0 (R370). -/
def rootOp (w : W96) : Bool := match splitWord w with
  | some v => v.cls == 13 && (v.opn == 18 || v.opn == 19) && (match v.b with
    | .reg c _ => c.opt.testBit 0
    | _ => false)
  | none => false

/-- Global identifier of the lowest lane of an issue's E. -/
def State.issueKey (s : State) (i : Issue) : Nat := match s.team? i.team with
  | some tm => tm.key (lowest (pick i.lanes fun l => guardOf (hdrOf (s.wordAt tm i.pc)) (tm.lane l)))
  | none => 0

/-- A word whose issues of one cycle act in ascending quad number: `cfetch` (R163), posts of jobs (R311), and what takes a timeline
number, `tl.sig` and `fx.send` too (R353). -/
def quadOp (w : W96) : Bool := match splitWord w with
  | some v => (v.cls == 0 && v.opn == 12) || v.cls == 12 || (v.cls == 13 && v.opn == 8) || (v.cls == 14 && v.opn == 0)
  | none => false

/-- Issues of a cycle in the order they take effect: those that act by quad number first, the others by the global identifier of the
lowest lane (R253), root operations last (R370). -/
def State.orderIssues (s : State) : State :=
  let kind (i : Issue) : Nat := match s.team? i.team with
    | some tm => if i.post.isSome || quadOp (s.wordAt tm i.pc) then 0 else if rootOp (s.wordAt tm i.pc) then 2 else 1
    | none => 1
  let some_ (k : Nat) : List Issue := s.chosen.filter fun i => kind i == k
  { s with chosen := [], issues := sortBy (fun (i : Issue) => s.quadKey i.team) (some_ 0) ++ sortBy s.issueKey (some_ 1) ++ sortBy s.issueKey (some_ 2) }

/-! ### The end of a cycle -/

/-- Every team's join points are tested against one state (R138). -/
def State.joinAll (s : State) : State := s.teams.foldl State.joinTest s
def State.watchAll (s : State) : State := s.teams.foldl State.watchdogTick s

/-- Barriers that can advance again, or still hold events, are looked at in the next cycle (R350). -/
def State.pushBars (s : State) : State :=
  (s.bars.filter fun b => b.2.full || !b.2.arrs.isEmpty || !b.2.counts.isEmpty || !b.2.mems.isEmpty || !b.2.asks.isEmpty).foldl
    (fun s b => s.atEnd (.barrierPhaseAdvance b.1)) s

/-- Cycles in which batches are held back (R374). -/
def State.countHeld (s : State) : State :=
  fourDies.foldl (fun s d => if (s.die d).held.isEmpty then s else s.bump d 0xD08 63 32) s

/-- CLOCK, C(d) and FXTIME advance: the core clock has 3 cycles in 2 ns (R190, R334, R394). -/
def State.tick (s : State) : State :=
  let f := s.fab
  let die (x : Die) : Die := { x with c := x.c + 1, claimed := [], banks := x.banks.filter fun b => 64 * (s.clock + 1) ≤ b.1 }
  { s with clock := s.clock + 1, dies := s.dies.map die, acted := [], closing := false, watched := false
           fab := { f with ftime := f.ftime + (f.phase + 2) / 3, phase := (f.phase + 2) % 3 } }

/-- What follows the waits that a cycle serves (R137, R147, R439): parks and unparks, the join test and the watchdogs, whose expiries
still happen in the cycle (R148). -/
def State.watch (s : State) : State := { s.wakeHalts.retryReplies.endOps.joinAll.watchAll with watched := true }

/-- The end of a cycle. -/
def State.endCycle (s : State) : State :=
  let s := (s.freeGroups.freeSets.sweepGroups).settleCores.retireCtxs
  ((s.deadlockTick.wakeHalts.retryReplies.countWaiting).pushBars.countHeld).tick.firesDue

end Sys2Proof.Machine
end

