-- ==== Sys2Proof/Machine/Step.lean ====
section
/-! DEFINITION. One step of the package: one issued word, one event, or the end of a cycle (log entry 1). -/

namespace Sys2Proof.Machine

/-- Lanes of an issue that still stand at its address. -/
def State.stillThere (s : State) (i : Issue) : Lanes := match s.team? i.team with
  | some tm => pick i.lanes fun l => (tm.lane l).st == .runnable && (tm.lane l).pc == i.pc
  | none => 0

/-- The word of the issue `i`, read where its lanes fetch it. -/
def State.issuedWord (s : State) (i : Issue) : W96 := match s.team? i.team with
  | some tm => wordOfBytes (s.fetchBytes i tm)
  | none => 0

/-- Run the issued word: the instruction it decodes to, or the trap of a word that is none (R117). -/
def stepIssue (s : State) (i : Issue) (tm : Team) : Host.Outcome State Fault Refusal :=
  let w := s.issuedWord i
  match decode w with
  | .ok ins => exec ins { s with cur := some i }
  | .error r => .next (badWord (hdrOf w) (clsOf w) (opnOf w) r.check i tm s)

/-- Run the event `e`. -/
def stepEvent (s : State) (e : Event) : Host.Outcome State Fault Refusal := exec e.instr { s with ev := some e }

/-- A step with no issue left: the next event of the cycle, the issues that the quads have chosen, what follows the waits of the cycle, or
the cycle's end. -/
def stepIdle (s : State) : Host.Outcome State Fault Refusal :=
  match s.pickEvent with
  | some (e, s) => stepEvent s e
  | none =>
    if !s.chosen.isEmpty then .next s.orderIssues
    else if !s.closing then .next { s with closing := true }
    else if !s.watched then .next s.watch
    else .next s.endCycle

/-- One step. -/
def step (s : State) : Host.Outcome State Fault Refusal :=
  match s.issues with
  | [] => stepIdle s
  | i :: rest =>
    match i.post with
    | some a => stepEvent { s with issues := rest, cur := some i } (.memoryAccessPerform a)
    | none =>
      let i := { i with lanes := s.stillThere i }
      let s := { s with issues := rest }
      match s.team? i.team with
      | some tm => if i.lanes = 0 then .next s else stepIssue s i tm
      | none => .next s

/-! ### Placing one instruction (log entry 11) -/

/-- Where the host's instruction stands: an address of local HBM4E. -/
def fetchPlace : Nat := 0x10000

/-- A team of the firmware core of die 0, with one Runnable lane at the place. -/
def fetchTeam (s : State) : Team :=
  let tm := Team.init ⟨0, (s.die 0).fwcore, 0⟩ ⟨8192, 0, 0⟩ 0 (BitVec.ofNat 48 fetchPlace) [] 0
  let lane (l : Lane) : Lane := { l with st := .exited }
  { tm with lanes := tm.lanes.zipIdx.map fun x => if x.2 = 0 then x.1 else lane x.1 }

/-- The state with an instruction where the next step fetches it: a firmware team whose lane 0 has been chosen to issue at the
place. -/
def State.withFetchWord (s : State) (nbits w : Nat) : State :=
  let tm := fetchTeam s
  let ws := bytesOfWord (BitVec.ofNat 96 (w % 2 ^ nbits))
  let cold (c : Cluster) : Cluster := { c with icache := [] }
  { (s.memPut fetchPlace ws).modCluster 0 (tm.ref.core / 4) cold with
    teams := tm :: s.teams.filter (·.ref != tm.ref)
    issues := [⟨tm.ref, BitVec.ofNat 48 fetchPlace, 1, none⟩] }

end Sys2Proof.Machine
end

