-- ==== Sys2Proof/Safety.lean ====
section
/-! DEFINITION. What a safe run is, and the words in which the statements speak of one issue: lanes that can execute
(R145), how they go on, and what an issue leaves alone. -/

namespace Sys2Proof.Machine

/-! ### Safe runs -/

/-- Memory and scratchpad stand in their canonical form. -/
def State.memOk (s : State) : Bool := Memory.wf s.mem && Memory.wf s.scratch

/-- A step goes on, or stops at an event that names a unit which the package does not have. -/
def SafeStep (s : State) : Prop := (∃ t, step s = .next t) ∨ step s = .fault .noUnit

/-! ### One issue -/

/-- E of an issue whose lanes pass the checks of R145: the lanes whose guard is true. -/
def issueE (iss : Issue) (tm : Team) (v : View) : Lanes := pick iss.lanes fun l => guardOf v.h (tm.lane l)

/-- Lanes whose guard is false. -/
def issueOff (iss : Issue) (tm : Team) (v : View) : Lanes := pick iss.lanes fun l => !guardOf v.h (tm.lane l)

/-- What the operands are read from. -/
def envOf (iss : Issue) (tm : Team) (v : View) : Env := ⟨iss.team, tm, issueE iss tm v, iss.pc, v⟩

/-- The issue `iss` of the team `tm` is under way, and no check of R145 fails: no lane names in its guard or its operands a
register that an open window's instruction writes, no register number reaches the bound of the role, and a firmware
instruction stands on the firmware core. -/
structure Ready (s : State) (iss : Issue) (tm : Team) (v : View) : Prop where
  cur : s.cur = some iss
  team : s.team? iss.team = some tm
  check : issueCheck s iss.team v (s.regsOf tm) = none
  guards : ∀ l, iss.lanes.getLsbD l = true → guardViolation tm v.h l = none
  operands : ∀ l, (issueE iss tm v).getLsbD l = true → operandViolation (envOf iss tm v) l = none

/-- The state in which an instruction's effect is made: its unit is occupied, and nothing else has changed. -/
def begun (s : State) (iss : Issue) (v : View) : State := ({ s with cur := none }.occupy iss.team v).1

/-- The state with an instruction's effect made, its k results as late as contention makes them (Table 5-6). -/
def settled (s : State) (iss : Issue) (tm : Team) (v : View) (u : State) : State :=
  u.lateK iss.team tm.kpend.length ((({ s with cur := none } : State).occupy iss.team v).2 + bankExtra v.gReads)

/-- A lane has gone on to `a`: nothing of it has changed but its address, its windows, its next issue cycle, and the resume
address, which is no longer valid. -/
def Passed (y y' : Lane) (a : Addr) : Prop := y' = { y with pc := a, win := y'.win, hold := y'.hold, ra := none }

/-- `t` is `u`, the state with an instruction's effect made, after the lanes of the issue have gone on: each lane of E to the
address that `to` gives it (none: it stays), the suppressed lanes to the next instruction, the others not at all. -/
structure GoesTo (u t : State) (iss : Issue) (tm : Team) (v : View) (to_ : Nat → Option Addr) : Prop where
  rest : t = { u with teams := t.teams }
  others : ∀ r, r ≠ iss.team → t.team? r = u.team? r
  team : ∀ um, u.team? iss.team = some um →
    ∃ tm', t.team? iss.team = some tm' ∧ tm' = { um with lanes := tm'.lanes, yldTo := tm'.yldTo } ∧
      tm'.lanes.length = um.lanes.length ∧
      ∀ l y, um.lanes[l]? = some y → ∃ y', tm'.lanes[l]? = some y' ∧
        ((issueE iss tm v).getLsbD l = true → match to_ l with
          | some a => Passed y y' a
          | none => y' = y) ∧
        ((issueOff iss tm v).getLsbD l = true → Passed y y' (nextPc iss.pc)) ∧
        (iss.lanes.getLsbD l = false → y' = y)

/-- Every lane of E goes on to the next instruction. -/
abbrev GoesOn (u t : State) (iss : Issue) (tm : Team) (v : View) : Prop :=
  GoesTo u t iss tm v fun _ => some (nextPc iss.pc)

/-- An instruction completes: where an issue of it is under way with no check failing, some lane executes and `ok` holds, the
next state is the effect `eff` with the lanes gone on, those of E to the addresses that `to_` gives. -/
def CompletesTo (i : Instr) (v : View) (ok : Env → State → Prop) (eff : Env → State → State)
    (to_ : Env → Nat → Option Addr) : Prop :=
  ∀ s iss tm, Ready s iss tm v → issueE iss tm v ≠ 0 → ok (envOf iss tm v) (begun s iss v) →
    ∃ t, exec i s = .next t ∧ GoesTo (settled s iss tm v (eff (envOf iss tm v) (begun s iss v))) t iss tm v (to_ (envOf iss tm v))

/-- An instruction completes, and its lanes go on to the next one. -/
def Completes (i : Instr) (v : View) (ok : Env → State → Prop) (eff : Env → State → State) : Prop :=
  CompletesTo i v ok eff fun x _ => some (nextPc x.pc)

/-- No condition. -/
def always (_ : Env) (_ : State) : Prop := True

/-- The state once an issue's traps have been raised on `t0`, in which its lanes have gone on; Y set, the team is passed over for
8 cycles (R130). -/
def afterRaise (t0 : State) (x : Env) (l : List (Nat × TrapInfo)) : State :=
  let t1 := t0.raise x.t x.pc x.key l
  if x.v.h.yld then t1.modTeam x.t fun tm => { tm with yldTo := max tm.yldTo (t0.clock + 8) } else t1

/-- The lines that a `cctl` names pass translation: a migration holds the walk of none (R241). -/
def LinesPass (x : Env) (s : State) : Prop := ∃ ls w t, s.cctlLines x = (.ok ls, w, t)

/-- Every lane's access passes the checks of Table 8-9. -/
def Passes (x : Env) (need : Nat) (plain reads : Bool) (as : List (Nat × Int)) (s : State) : Prop :=
  ∀ c ∈ (x.checks x.v.space x.v.bytes need plain reads as s).1, ∃ p, c.res = .ok p

/-- Every lane of E takes the trap `info`, after the effect `eff` (R420, R421). -/
def TrapsWith (i : Instr) (v : View) (ok : Env → State → Prop) (eff : Env → State → State) (info : Env → TrapInfo) : Prop :=
  ∀ s iss tm, Ready s iss tm v → issueE iss tm v ≠ 0 → ok (envOf iss tm v) (begun s iss v) →
    ∃ t0, GoesTo (settled s iss tm v (eff (envOf iss tm v) (begun s iss v))) t0 iss tm v (fun _ => none) ∧
      exec i s = .next (afterRaise t0 (envOf iss tm v) ((envOf iss tm v).lanes.map fun l => (l, info (envOf iss tm v))))

/-- Every lane of E writes `f` to the `r` registers of D, and nothing else changes. -/
def LaneResult (i : Instr) (v : View) (r : Nat) (f : Env → Nat → Nat) : Prop :=
  Completes i v always fun x s => s.modLanes x.t x.e fun l y => writeG x.v.d r (f x l) y

/-- A packed operation: both halves of one register (R213). -/
def PackedResult (i : Instr) (v : View) (f : Env → Nat → Nat → Nat) : Prop :=
  LaneResult i v 1 fun x l => f x l 0 + 2 ^ 16 * f x l 1

/-- The predicate pair (D, `pe`) of R135 is written in every lane of E, with the liveness bits of R432, and nothing else
changes. -/
def PairResult (i : Instr) (v : View) (pe cm : Nat) (f : Env → Nat → Bool) : Prop :=
  Completes i v always fun x s =>
    (s.live x.t [x.v.d.idx, pe]).modLanes x.t x.e fun l y => writePair x.v.d.idx pe cm (f x l) y

/-- A g destination is written in every lane of E, each its own `f`; a k destination once, with the lowest lane's, at the end
of the result latency (R155); and nothing else changes. -/
def UniformResult (i : Instr) (v : View) (r : Nat) (f : Env → State → Nat → Nat) : Prop :=
  Completes i v always fun x s =>
    match x.v.d with
    | .k _ _ n => s.writeK x.t x.e x.pc n.toNat r (f x s x.l0) x.v.latency
    | _ => s.modLanes x.t x.e fun l y => writeG x.v.d r (f x s l) y

/-- The byte at `a` lies in no die's ring of hotness records, which an access served to another die may add to (R240). -/
def State.ringFree (s : State) (a : Nat) : Prop := ∀ d < 4, s.fld d 0x920 15 0 = 0 ∨ a < s.fld d 0x928 47 0 ∨
  s.fld d 0x928 47 0 + 2 ^ (s.fld d 0x928 55 48 + 4) ≤ a

/-- What an access instruction that stores leaves alone, whatever its lanes' checks say, where no lane names a device register and the die
walks by the stock routines, which write nothing: memory and
scratchpad outside the bytes that pass and the rings of hotness records, groups, barriers, contexts and plans; and the registers of its
lanes, but for D where it returns the old value. A run of lanes `stops` at the first that fails (R249). -/
def StoresOnly (i : Instr) (v : View) (need : Nat) (plain reads : Bool) (as : Env → List (Nat × Int)) (ret stops : Bool) : Prop :=
  ∀ s iss tm t, s.memOk = true → (s.die iss.team.die).rv = none → Ready s iss tm v →
    let x := envOf iss tm v
    let ps := okPlaces (x.checks v.space v.bytes need plain reads (as x) (begun s iss v) stops).1
    (∀ p ∈ ps, ∀ pa, p.2 ≠ .dev pa) → exec i s = .next t →
    (∀ a, s.ringFree a → (∀ p ∈ ps, ∀ pa, p.2 = .mem pa → a < pa ∨ pa + v.bytes ≤ a) → cellGet t.mem a = cellGet s.mem a) ∧
    (∀ a, (∀ p ∈ ps, ∀ b, p.2 = .scr b → a < b ∨ b + v.bytes ≤ a) → cellGet t.scratch a = cellGet s.scratch a) ∧
    ((∀ p ∈ ps, ∀ q off, p.2 ≠ .pipe q off) → t.pipes = s.pipes) ∧
    t.groups = s.groups ∧ t.bars = s.bars ∧ t.ctxs = s.ctxs ∧ t.plans = s.plans ∧
    ∃ tm', t.team? iss.team = some tm' ∧ ∀ (l : Nat) (y : Lane), tm.lanes[l]? = some y → ∃ y' : Lane, tm'.lanes[l]? = some y' ∧ y'.p = y.p ∧
      y'.ltnow = y.ltnow ∧ (if ret then ∃ z, y'.g = (writeG v.d v.ty.regs z y).g else y'.g = y.g)

/-- What an access instruction that loads leaves alone, whatever its lanes' checks say, where the die walks by the stock routines: all of
memory but the rings of hotness records, scratchpad and pipe tiles, groups, barriers, contexts and plans; and the registers of its lanes,
but for the `r` registers of D. -/
def LoadsOnly (i : Instr) (v : View) (r : Nat) : Prop :=
  ∀ s iss tm t, (s.die iss.team.die).rv = none → Ready s iss tm v → exec i s = .next t →
    (∀ a, s.ringFree a → cellGet t.mem a = cellGet s.mem a) ∧ t.scratch = s.scratch ∧
    (t.pipes.map fun p => (p.ref, p.slots, p.data)) = (s.pipes.map fun p => (p.ref, p.slots, p.data)) ∧
    t.groups = s.groups ∧ t.bars = s.bars ∧ t.ctxs = s.ctxs ∧ t.plans = s.plans ∧
    ∃ tm', t.team? iss.team = some tm' ∧ ∀ (l : Nat) (y : Lane), tm.lanes[l]? = some y → ∃ y' : Lane, tm'.lanes[l]? = some y' ∧ y'.p = y.p ∧
      y'.ltnow = y.ltnow ∧ ∃ z, y'.g = (writeG v.d r z y).g

/-- Scratchpad byte of the package where a lane's access begins (R227). -/
def Env.scrAddr (x : Env) (g : Group) (l : Nat) : Nat := scrBase g.die g.core + g.winBase + (x.ea l).toNat

/-- Every lane's access lies in the group's window, aligned, and races with none (R227, R344). -/
def InWindow (s : State) (x : Env) (g : Group) (need : Nat) : Prop :=
  ∀ l ∈ x.lanes, x.ea l % (x.v.bytes : Int) = 0 ∧ 0 ≤ x.ea l ∧ x.ea l + x.v.bytes ≤ g.winLim ∧
    (x.v.plain = true → x.raceCheck s l (.scr (x.scrAddr g l)) (wrap 64 (x.ea l)) x.v.bytes (need == 2) = none)

/-- The event `e`, of a unit that the package has, is over, and its operation has been made. -/
def EventRuns (i : Instr) (e : Event) (ok : Prop) (op : State → State) : Prop :=
  ∀ s, s.ev = some e → ok → exec i s = .next (op { s with ev := none })

end Sys2Proof.Machine
end

