-- ==== Sys2Proof/Certificates/Slice0/Obligations.lean ====
section
/-! DEFINITION. The statements for the provers. Each docstring names the rules of the spec that it formalises. -/

open Sys2Proof Sys2Proof.Machine

/-! ### Class 1: integer and address instructions -/

/-- R165, R166, R167, R168: the integer instructions write each lane of E its result. With t the type, A, B and C the sources
after their negation, read under the type's signedness: the exact result reduced to the type's width, saturated instead where
SAT is set. -/
def Obligations.IntegerResults : Prop := ∀ (h : Hdr) (o : RegForm),
  LaneResult (.iadd h o) (o.view 1 0 h) (o.view 1 0 h).ty.regs (fun x l =>
    narrow x.ty x.v.satBit (x.intSrc l x.v.a x.ty + x.intSrc l x.v.bOpd x.ty)) ∧
  LaneResult (.isub h o) (o.view 1 1 h) (o.view 1 1 h).ty.regs (fun x l =>
    narrow x.ty x.v.satBit (x.intSrc l x.v.a x.ty - x.intSrc l x.v.bOpd x.ty)) ∧
  LaneResult (.imul h o) (o.view 1 2 h) (o.view 1 2 h).ty.regs (fun x l =>
    wrap x.ty.width (x.intSrc l x.v.a x.ty * x.intSrc l x.v.bOpd x.ty)) ∧
  LaneResult (.imulhi h o) (o.view 1 3 h) (o.view 1 3 h).ty.regs (fun x l =>
    wrap x.ty.width (x.intSrc l x.v.a x.ty * x.intSrc l x.v.bOpd x.ty / (2 ^ x.ty.width : Nat))) ∧
  LaneResult (.imad h o) (o.view 1 4 h) (o.view 1 4 h).ty.regs (fun x l =>
    wrap x.ty.width (x.intSrc l x.v.a x.ty * x.intSrc l x.v.bOpd x.ty + x.intSrc l x.v.cOpd x.ty)) ∧
  LaneResult (.imadw h o) (o.view 1 5 h) (o.view 1 5 h).ty.regs (fun x l =>
    wrap 64 ((half32 x.ty).val (x.a l 32) * (half32 x.ty).val (x.b l 32) + x.ty.val (x.c l 64))) ∧
  LaneResult (.idiv h o) (o.view 1 6 h) (o.view 1 6 h).ty.regs (fun x l =>
    (divRem x.ty (x.intSrc l x.v.a x.ty) (x.intSrc l x.v.bOpd x.ty)).1) ∧
  LaneResult (.irem h o) (o.view 1 7 h) (o.view 1 7 h).ty.regs (fun x l =>
    (divRem x.ty (x.intSrc l x.v.a x.ty) (x.intSrc l x.v.bOpd x.ty)).2) ∧
  LaneResult (.ineg h o) (o.view 1 8 h) (o.view 1 8 h).ty.regs (fun x l =>
    narrow x.ty x.v.satBit (-x.intSrc l x.v.a x.ty)) ∧
  LaneResult (.iabs h o) (o.view 1 9 h) (o.view 1 9 h).ty.regs (fun x l =>
    narrow x.ty x.v.satBit |x.intSrc l x.v.a x.ty|) ∧
  LaneResult (.imin h o) (o.view 1 10 h) (o.view 1 10 h).ty.regs (fun x l =>
    wrap x.ty.width (min (x.intSrc l x.v.a x.ty) (x.intSrc l x.v.bOpd x.ty))) ∧
  LaneResult (.imax h o) (o.view 1 11 h) (o.view 1 11 h).ty.regs (fun x l =>
    wrap x.ty.width (max (x.intSrc l x.v.a x.ty) (x.intSrc l x.v.bOpd x.ty))) ∧
  LaneResult (.iclamp h o) (o.view 1 12 h) (o.view 1 12 h).ty.regs (fun x l =>
    wrap x.ty.width (min (max (x.intSrc l x.v.a x.ty) (x.intSrc l x.v.bOpd x.ty)) (x.intSrc l x.v.cOpd x.ty))) ∧
  LaneResult (.isad h o) (o.view 1 13 h) (o.view 1 13 h).ty.regs (fun x l =>
    wrap x.ty.width (|x.intSrc l x.v.a x.ty - x.intSrc l x.v.bOpd x.ty| + x.intSrc l x.v.cOpd x.ty))

/-- R167 (Table 6-1): division truncates toward zero, and its three corners. -/
def Obligations.DivisionRule : Prop := ∀ (t : Ty) (a b : Int), t.min ≤ a → a ≤ t.max → t.min ≤ b → b ≤ t.max →
  (b = 0 → divRem t a b = (2 ^ t.width - 1, wrap t.width a)) ∧
  (t.signed = true → a = t.min → b = -1 → divRem t a b = (wrap t.width t.min, 0)) ∧
  (b ≠ 0 → ¬(t.signed = true ∧ a = t.min ∧ b = -1) → ∃ q r : Int, a = q * b + r ∧ |r| < |b| ∧ (r = 0 ∨ (r < 0 ↔ a < 0)) ∧
    t.min ≤ q ∧ q ≤ t.max ∧ divRem t a b = (wrap t.width q, wrap t.width r))

/-- R169, R170: address arithmetic modulo 2^48, moves and selection. -/
def Obligations.AddressAndMoveResults : Prop := ∀ (h : Hdr) (o : RegForm) (m : ImmForm),
  LaneResult (.aadd h o) (o.view 1 14 h) (o.view 1 14 h).ty.regs (fun x l =>
    wrap 48 (((x.a l 64 % 2 ^ 48 : Nat) : Int) + toSigned 32 (x.b l 32))) ∧
  LaneResult (.lea h o) (o.view 1 15 h) (o.view 1 15 h).ty.regs (fun x l =>
    wrap 48 (((x.a l 64 % 2 ^ 48 : Nat) : Int) + toSigned 32 (x.b l 32) * (2 ^ x.v.cOpd.opt : Nat))) ∧
  LaneResult (.mov h o) (o.view 1 16 h) (o.view 1 16 h).ty.regs (fun x l => x.a l x.ty.width) ∧
  LaneResult (.sel h o) (o.view 1 19 h) (o.view 1 19 h).ty.regs (fun x l =>
    if x.c l 1 = 1 then x.a l x.ty.width else x.b l x.ty.width) ∧
  LaneResult (.movi h m) (m.view 1 17 h) (m.view 1 17 h).ty.regs (fun x _ =>
    if x.ty = .s64 then wrap 64 (toSigned 32 m.imm.toNat) else m.imm.toNat) ∧
  Completes (.movk h m) (m.view 1 18 h) always (fun x s => s.modLanes x.t x.e fun _ y => match m.d with
    | .g _ _ n => y.wg (n.toNat + 1) m.imm
    | _ => y)

/-! ### Class 2: logic and bit instructions -/

/-- R171, R172: bitwise operations, shifts and rotations. -/
def Obligations.LogicResults : Prop := ∀ (h : Hdr) (o : RegForm) (m : ImmForm),
  LaneResult (.and h o) (o.view 2 0 h) (o.view 2 0 h).ty.regs (fun x l => x.a l x.ty.width &&& x.b l x.ty.width) ∧
  LaneResult (.or h o) (o.view 2 1 h) (o.view 2 1 h).ty.regs (fun x l => x.a l x.ty.width ||| x.b l x.ty.width) ∧
  LaneResult (.xor h o) (o.view 2 2 h) (o.view 2 2 h).ty.regs (fun x l => x.a l x.ty.width ^^^ x.b l x.ty.width) ∧
  LaneResult (.not h o) (o.view 2 3 h) (o.view 2 3 h).ty.regs (fun x l => 2 ^ x.ty.width - 1 - x.a l x.ty.width) ∧
  LaneResult (.lop3 h m) (m.view 2 4 h) (m.view 2 4 h).ty.regs (fun x l =>
    lop3Val x.ty.width (bits m.imm.toNat 31 24) (x.a l x.ty.width)
      ((x.tm.lane l).rgs (bits m.imm.toNat 23 16) x.ty.regs) ((x.tm.lane l).rgs (bits m.imm.toNat 15 8) x.ty.regs)) ∧
  LaneResult (.shl h o) (o.view 2 5 h) (o.view 2 5 h).ty.regs (fun x l =>
    if x.b l 32 ≥ x.ty.width then 0 else x.a l x.ty.width * 2 ^ x.b l 32 % 2 ^ x.ty.width) ∧
  LaneResult (.shr h o) (o.view 2 6 h) (o.view 2 6 h).ty.regs (fun x l =>
    if x.b l 32 ≥ x.ty.width then 0 else x.a l x.ty.width % 2 ^ x.ty.width / 2 ^ x.b l 32) ∧
  LaneResult (.sar h o) (o.view 2 7 h) (o.view 2 7 h).ty.regs (fun x l =>
    wrap x.ty.width (toSigned x.ty.width (x.a l x.ty.width) / (2 ^ min (x.b l 32) x.ty.width : Nat))) ∧
  LaneResult (.rot h o) (o.view 2 8 h) (o.view 2 8 h).ty.regs (fun x l =>
    rotVal x.ty.width (x.a l x.ty.width) (x.b l 32)) ∧
  LaneResult (.shf h o) (o.view 2 9 h) (o.view 2 9 h).ty.regs (fun x l =>
    (x.a l 32 * 2 ^ 32 + x.b l 32) / 2 ^ (x.c l 32 % 64) % 2 ^ 32)

/-- R173, R174, R175: counts, bit reversal, fields, byte permutation and sign extension. -/
def Obligations.BitFieldResults : Prop := ∀ (h : Hdr) (o : RegForm),
  LaneResult (.popc h o) (o.view 2 10 h) 1 (fun x l => popcVal x.ty.width (x.a l x.ty.width)) ∧
  LaneResult (.clz h o) (o.view 2 11 h) 1 (fun x l => clzVal x.ty.width (x.a l x.ty.width)) ∧
  LaneResult (.ctz h o) (o.view 2 12 h) 1 (fun x l => ctzVal x.ty.width (x.a l x.ty.width)) ∧
  LaneResult (.brev h o) (o.view 2 13 h) (o.view 2 13 h).ty.regs (fun x l => brevVal x.ty.width (x.a l x.ty.width)) ∧
  LaneResult (.bfe h o) (o.view 2 14 h) (o.view 2 14 h).ty.regs (fun x l => bfeVal x.ty (x.a l x.ty.width) (x.b l 32)) ∧
  LaneResult (.bfi h o) (o.view 2 15 h) (o.view 2 15 h).ty.regs (fun x l =>
    bfiVal x.ty.width (x.a l x.ty.width) (x.b l x.ty.width) (x.c l 32)) ∧
  LaneResult (.prmt h o) (o.view 2 16 h) (o.view 2 16 h).ty.regs (fun x l => prmtVal (x.a l 32) (x.b l 32) (x.c l 32)) ∧
  LaneResult (.sext h o) (o.view 2 17 h) (o.view 2 17 h).ty.regs (fun x l =>
    sextVal x.ty.width (x.a l x.ty.width) (x.b l 32))

/-- R171, R173, R174: what the results of `lop3`, `popc`, `clz`, `ctz`, `brev`, `bfe` and `bfi` are, bit by bit. -/
def Obligations.BitRules : Prop := ∀ (w a b c tt i : Nat), w ≤ 64 → i < w →
  ((lop3Val w tt a b c).testBit i = tt.testBit (4 * (a.testBit i).toNat + 2 * (b.testBit i).toNat + (c.testBit i).toNat)) ∧
  ((brevVal w a).testBit i = a.testBit (w - 1 - i)) ∧
  (popcVal w a = ((List.range w).map fun j => (a.testBit j).toNat).sum) ∧
  ((∀ j, i < j → j < w → a.testBit j = false) → a.testBit i = true → clzVal w a = w - 1 - i) ∧
  ((∀ j, j < i → a.testBit j = false) → a.testBit i = true → ctzVal w a = i) ∧
  (a % 2 ^ w = 0 → clzVal w a = w ∧ ctzVal w a = w)

/-! ### Class 3: compares and predicates -/

/-- R176, R177, R178, R180: compares, `pset` and `vote` write the pair of R135; R179: `p2g`, `g2p`, and `ballot`. -/
def Obligations.PredicateResults : Prop := ∀ (h : Hdr) (o : RegForm) (m : ImmForm),
  PairResult (.icmp h o) (o.view 3 0 h) ((o.view 3 0 h).pe.getD 7) (bits o.c.opt 9 8) (fun x l =>
    intCond (bits o.c.opt 13 10) ((cmpTy o.c.opt).val (x.a l (cmpTy o.c.opt).width))
      ((cmpTy o.c.opt).val (x.b l (cmpTy o.c.opt).width))) ∧
  PairResult (.fcmp h o) (o.view 3 1 h) ((o.view 3 1 h).pe.getD 7) (bits o.c.opt 9 8) (fun x l =>
    fltCond (bits o.c.opt 13 10) (cmpSrc x l x.v.a) (cmpSrc x l x.v.bOpd)) ∧
  PairResult (.pset h m) (m.view 3 2 h) ((m.view 3 2 h).pe.getD 7) (bits m.imm.toNat 21 20) (fun x l =>
    ttBit (m.imm.toNat % 256) ((x.tm.lane l).rp (bits m.imm.toNat 10 8)) ((x.tm.lane l).rp (bits m.imm.toNat 13 11))
      ((x.tm.lane l).rp (bits m.imm.toNat 16 14))) ∧
  PairResult (.vote h m) (m.view 3 6 h) ((m.view 3 6 h).pe.getD 7) (bits m.imm.toNat 6 5) (fun x _ =>
    voteVal (bits m.imm.toNat 1 0) (lanesOf x.trueLanes).length (lanesOf x.e).length) ∧
  LaneResult (.p2g h o) (o.view 3 3 h) 1 (fun x l =>
    ((List.range 8).map fun i => ((x.tm.lane l).rp i).toNat * 2 ^ i).sum) ∧
  Completes (.g2p h o) (o.view 3 4 h) always (fun x s =>
    (s.live x.t ((List.range 7).filter fun i => x.lanes.any fun l => (x.b l 32).testBit i)).modLanes x.t x.e
      fun l y => g2pLane (x.a l 32) (x.b l 32) y) ∧
  UniformResult (.ballot h o) (o.view 3 5 h) 1 (fun x _ _ => (pick x.e fun l => x.a l 1 == 1).toNat)

/-- R9, R135, R179: p7 reads true and is never written; a written predicate reads back; the pair combines with the old values,
its first predicate alone written where both are one; `g2p` writes the predicates of its mask. -/
def Obligations.PredicateRules : Prop := ∀ (y : Lane) (n m : Nat) (v : Bool),
  y.rp 7 = true ∧ y.wp 7 v = y ∧ (n < 7 → (y.wp n v).rp n = v) ∧ (m ≠ n → (y.wp n v).rp m = y.rp m) ∧
  (y.wp n v = { y with p := (y.wp n v).p }) ∧
  (∀ old r, comb 0 old r = r ∧ comb 1 old r = (old && r) ∧ comb 2 old r = (old || r) ∧ comb 3 old r = (old != r)) ∧
  (∀ cm r, n < 7 → (writePair n m cm r y).rp n = comb cm (y.rp n) r) ∧
  (∀ cm r j, j ≠ n → j ≠ m → (writePair n m cm r y).rp j = y.rp j) ∧ (∀ cm r, writePair 7 7 cm r y = y) ∧
  (∀ cm r, m < 7 → m ≠ n → (writePair n m cm r y).rp m = comb cm (y.rp m) (!r)) ∧
  (∀ a k, n < 7 → (g2pLane a k y).rp n = if k.testBit n then a.testBit n else y.rp n)

/-! ### Class 4: cross-lane, uniform and special-register instructions -/

/-- R182 to R186: shuffles, broadcasts, reductions, scans and matches. -/
def Obligations.CrossLaneResults : Prop := ∀ (h : Hdr) (o : RegForm),
  LaneResult (.shfl h o) (o.view 4 0 h) (o.view 4 0 h).ty.regs shflVal ∧
  UniformResult (.bcast h o) (o.view 4 1 h) (o.view 4 1 h).ty.regs (fun x _ _ => x.a (bcastLane x) x.ty.width) ∧
  UniformResult (.tred h o) (o.view 4 2 h) (o.view 4 2 h).ty.regs (fun x _ _ =>
    treeRed (redOp (o.c.opt % 16) x.ty) x.present) ∧
  LaneResult (.tscan h o) (o.view 4 3 h) (o.view 4 3 h).ty.regs scanVal ∧
  LaneResult (.matchLanes h o) (o.view 4 4 h) 1 (fun x l =>
    (pick x.e fun m => x.a m x.ty.width == x.a l x.ty.width).toNat)

/-- R182, R183, R185: which lane `shfl` and `bcast` read, and how a scan runs over E. -/
def Obligations.CrossLaneRules : Prop := ∀ (x : Env) (l : Nat), x.e.getLsbD l = true →
  (∀ src, shflSrc (x.v.opt % 4) (32 / 2 ^ bits x.v.opt 4 2) l (x.b l 32) = some src → x.e.getLsbD src = true →
    shflVal x l = x.a src x.ty.width) ∧
  (∀ src, shflSrc (x.v.opt % 4) (32 / 2 ^ bits x.v.opt 4 2) l (x.b l 32) = some src → x.e.getLsbD src = false →
    shflVal x l = x.a l x.ty.width) ∧
  (shflSrc (x.v.opt % 4) (32 / 2 ^ bits x.v.opt 4 2) l (x.b l 32) = none → shflVal x l = x.a l x.ty.width) ∧
  (∀ mode seg n src, 0 < seg → shflSrc mode seg l n = some src → mode < 3 → src / seg = l / seg) ∧
  (∀ seg j n, shflSrc 0 seg j n = some (j - j % seg + n % seg) ∧
    shflSrc 1 seg j n = (if n ≤ j % seg then some (j - j % seg + j % seg - n) else none) ∧
    shflSrc 2 seg j n = (if j % seg + n < seg then some (j - j % seg + j % seg + n) else none) ∧
    shflSrc 3 seg j n = some (j - j % seg + (j % seg ^^^ (n % seg)))) ∧
  (bcastLane x = if x.e.getLsbD (x.b0 32 % 32) = true then x.b0 32 % 32 else x.l0) ∧ (x.e.getLsbD (bcastLane x) = true) ∧ (∀ k < x.l0, x.e.getLsbD k = false) ∧
  ((∀ k, k < l → x.e.getLsbD k = false) → x.v.opt.testBit 4 = true → scanVal x l = redStart (x.v.opt % 16) x.ty) ∧
  ((∀ k, k < l → x.e.getLsbD k = false) → x.v.opt.testBit 4 = false → scanVal x l = x.a l x.ty.width)

/-- R155, R187, R189, R190: k registers, special registers and the clock. -/
def Obligations.UniformAndSpecialResults : Prop := ∀ (h : Hdr) (o : RegForm),
  UniformResult (.kmov h o) (o.view 4 5 h) (o.view 4 5 h).ty.regs (fun x _ l => x.a l x.ty.width) ∧
  UniformResult (.kadd h o) (o.view 4 6 h) (o.view 4 6 h).ty.regs (fun x _ l =>
    narrow x.ty x.v.satBit (x.ty.val (x.a l x.ty.width) + x.ty.val (x.b l x.ty.width))) ∧
  PairResult (.kcmp h o) (o.view 4 7 h) ((o.view 4 7 h).pe.getD 7) (bits o.c.opt 9 8) (fun x _ =>
    intCond (bits o.c.opt 13 10) ((cmpTy o.c.opt).val (x.a x.l0 (cmpTy o.c.opt).width))
      ((cmpTy o.c.opt).val (x.b x.l0 (cmpTy o.c.opt).width))) ∧
  UniformResult (.rdsr h o) (o.view 4 9 h) (o.view 4 9 h).ty.regs (fun x s l => specialVal s x l) ∧
  Completes (.wrsr h o) (o.view 4 10 h) always (fun x s =>
    s.modLanes x.t x.e fun l y => { y with tag := BitVec.ofNat 32 (x.a l 32) }) ∧
  UniformResult (.clk h o) (o.view 4 11 h) 2 (fun _ s _ => s.clock % 2 ^ 64)

/-! ### Classes 5, 6 and 7: floating point and conversion -/

/-- R204 to R212: the f32 instructions. Sources pass MOD (R113); the exact value is rounded once in the mode of A's SUB. The
values of the approximate functions (R208) are free within their ranges. -/
def Obligations.FloatResults : Prop := ∀ (h : Hdr) (o : RegForm),
  LaneResult (.fadd h o) (o.view 5 0 h) 1 (fun x l => f32F.sum x.rm x.ftz [x.fl l x.v.a, x.fl l x.v.bOpd]) ∧
  LaneResult (.fsub h o) (o.view 5 1 h) 1 (fun x l => f32F.sum x.rm x.ftz [x.fl l x.v.a, (x.fl l x.v.bOpd).neg]) ∧
  LaneResult (.fmul h o) (o.view 5 2 h) 1 (fun x l => f32F.write x.rm x.ftz ((x.fl l x.v.a).mul (x.fl l x.v.bOpd))) ∧
  LaneResult (.ffma h o) (o.view 5 3 h) 1 (fun x l =>
    f32F.sum x.rm x.ftz [(x.fl l x.v.a).mul (x.fl l x.v.bOpd), x.fl l x.v.cOpd]) ∧
  LaneResult (.fmin h o) (o.view 5 4 h) 1 (fun x l => f32F.minMax x.ftz false (x.f32src l x.v.a) (x.f32src l x.v.bOpd)) ∧
  LaneResult (.fmax h o) (o.view 5 5 h) 1 (fun x l => f32F.minMax x.ftz true (x.f32src l x.v.a) (x.f32src l x.v.bOpd)) ∧
  LaneResult (.frcp h o) (o.view 5 6 h) 1 (fun x l => approxVal 6 x.ftz (x.f32src l x.v.a)) ∧
  LaneResult (.frsq h o) (o.view 5 7 h) 1 (fun x l => approxVal 7 x.ftz (x.f32src l x.v.a)) ∧
  LaneResult (.fsqrt h o) (o.view 5 8 h) 1 (fun x l => f32F.sqrt x.rm x.ftz (x.fl l x.v.a)) ∧
  LaneResult (.fdiv h o) (o.view 5 9 h) 1 (fun x l => f32F.div x.rm x.ftz (x.fl l x.v.a) (x.fl l x.v.bOpd)) ∧
  LaneResult (.fex2 h o) (o.view 5 10 h) 1 (fun x l => approxVal 10 x.ftz (x.f32src l x.v.a)) ∧
  LaneResult (.flg2 h o) (o.view 5 11 h) 1 (fun x l => approxVal 11 x.ftz (x.f32src l x.v.a)) ∧
  LaneResult (.fsin h o) (o.view 5 12 h) 1 (fun x l => approxVal 12 x.ftz (x.f32src l x.v.a)) ∧
  LaneResult (.fcos h o) (o.view 5 13 h) 1 (fun x l => approxVal 13 x.ftz (x.f32src l x.v.a)) ∧
  LaneResult (.ftanh h o) (o.view 5 14 h) 1 (fun x l => approxVal 14 x.ftz (x.f32src l x.v.a)) ∧
  LaneResult (.fclass h o) (o.view 5 15 h) 1 (fun x l => classOf (x.a l 32)) ∧
  LaneResult (.fscale h o) (o.view 5 16 h) 1 (fun x l =>
    scaleVal x.rm x.ftz (x.f32src l x.v.a) (toSigned 32 (x.b l 32))) ∧
  LaneResult (.frnd h o) (o.view 5 17 h) 1 (fun x l => rndVal x.rm x.ftz (x.f32src l x.v.a))

/-- R213, R214: the packed instructions of both formats act on each half alone; `hdot2` rounds its sum once to f32. -/
def Obligations.PackedResults : Prop := ∀ (h : Hdr) (o : RegForm),
  PackedResult (.hadd2F16 h o) (o.view 6 0 h) (hadd f16F) ∧ PackedResult (.hmul2F16 h o) (o.view 6 1 h) (hmul f16F) ∧
  PackedResult (.hfma2F16 h o) (o.view 6 2 h) (hfma f16F) ∧
  PackedResult (.hmin2F16 h o) (o.view 6 3 h) (hminmax f16F false) ∧
  PackedResult (.hmax2F16 h o) (o.view 6 4 h) (hminmax f16F true) ∧
  LaneResult (.hdot2F16 h o) (o.view 6 5 h) 1 (hdot f16F) ∧
  PackedResult (.hadd2Bf16 h o) (o.view 6 8 h) (hadd bf16F) ∧ PackedResult (.hmul2Bf16 h o) (o.view 6 9 h) (hmul bf16F) ∧
  PackedResult (.hfma2Bf16 h o) (o.view 6 10 h) (hfma bf16F) ∧
  PackedResult (.hmin2Bf16 h o) (o.view 6 11 h) (hminmax bf16F false) ∧
  PackedResult (.hmax2Bf16 h o) (o.view 6 12 h) (hminmax bf16F true) ∧
  LaneResult (.hdot2Bf16 h o) (o.view 6 13 h) 1 (hdot bf16F)

/-- R216 to R221: conversion, quantization, packing and the block maximum. -/
def Obligations.ConversionResults : Prop := ∀ (h : Hdr) (o : RegForm),
  LaneResult (.cvt h o) (o.view 7 0 h) (o.view 7 0 h).ty.regs (fun x l =>
    cvtVal (Ty.ofCode x.v.a.sub) x.ty (o.c.opt % 8) (o.c.opt.testBit 4) (o.c.opt.testBit 3)
      (x.a l (Ty.ofCode x.v.a.sub).width)) ∧
  LaneResult (.quant h o) (o.view 7 1 h) 1 (fun x l =>
    quantVal (bits o.c.opt 9 5) (f32F.read (o.c.opt.testBit 3) (x.a l 32)) (x.scale l)) ∧
  LaneResult (.dequant h o) (o.view 7 2 h) 1 (fun x l =>
    dequantVal (o.c.opt % 8) (o.c.opt.testBit 4) (o.c.opt.testBit 3) (o.c.opt.testBit 13) (bits o.c.opt 12 10)
      (toSigned 32 (x.a l 32)) (x.scale l)) ∧
  LaneResult (.packPlanes h o) (o.view 7 3 h) 1 (fun x l => planeWord x (bits o.c.opt 9 5) (x.place l)) ∧
  LaneResult (.packPair h o) (o.view 7 3 h) 1 (fun x l =>
    packPairVal (bits o.c.opt 12 10) (o.c.opt % 8) (o.c.opt.testBit 4) (o.c.opt.testBit 3) (x.a l 32) (x.f32b l)) ∧
  LaneResult (.unpackPlanes h o) (o.view 7 4 h) 1 (fun x l => unplane x (bits o.c.opt 9 5) l) ∧
  LaneResult (.unpackPair h o) (o.view 7 4 h) 2 (fun x l =>
    unpackPairVal (bits o.c.opt 12 10) (o.c.opt.testBit 3) (x.a l 32)) ∧
  UniformResult (.scalmax h o) (o.view 7 5 h) 1 (fun x _ _ => ((lanesOf x.e).flatMap (scalElems x)).foldl max 0)

/-! ### Class 0: transfers, joins, exit, sleep and frames -/

/-- R157, R158, R159, R108: where the lanes of a transfer go, and the link that `call`, `brx` and `ret` leave in D; `nop`
and `yield` (R130) only pass. A `brx` or `ret` names a valid instruction address in every lane here, and a `fjmp` in overlay
mode a landed segment; otherwise they trap. -/
def Obligations.TransferResults : Prop := ∀ (h : Hdr) (o : RegForm) (m : ImmForm),
  Completes (.nop h o) (o.view 0 0 h) always (fun _ s => s) ∧
  CompletesTo (.bra h m) (m.view 0 1 h) always (fun _ s => s) (fun x _ => some (relPc x.pc m.imm)) ∧
  CompletesTo (.call h m) (m.view 0 3 h) always
    (fun x s => s.modLanes x.t x.e fun _ y => writeG m.d 2 (nextPc x.pc).toNat y) (fun x _ => some (relPc x.pc m.imm)) ∧
  CompletesTo (.brx h o) (o.view 0 2 h) (fun x _ => ∀ l ∈ x.lanes, validAddr (x.a l 64) = true)
    (fun x s => if o.d.isNone then s else s.modLanes x.t x.e fun _ y => writeG o.d 2 (nextPc x.pc).toNat y)
    (fun x l => some (BitVec.ofNat 48 (x.a l 64))) ∧
  CompletesTo (.ret h o) (o.view 0 4 h) (fun x _ => ∀ l ∈ x.lanes, validAddr (x.a l 64) = true)
    (fun x s => if o.d.isNone then s else s.modLanes x.t x.e fun _ y => writeG o.d 2 (nextPc x.pc).toNat y)
    (fun x l => some (BitVec.ofNat 48 (x.a l 64))) ∧
  CompletesTo (.fjmp h m) (m.view 0 11 h)
    (fun x s => s.overlay x.ctx = false ∨ ((x.group s).landed (relPc x.pc m.imm)).isSome = true) (fun _ s => s)
    (fun x _ => some (relPc x.pc m.imm)) ∧
  Completes (.yield h o) (o.view 0 9 h) always
    (fun x s => s.modTeam x.t fun t => { t with yldTo := max t.yldTo (s.clock + 8) })

/-- R136, R160, R161, R162, R163, R164: `join` and `sleep` leave their lanes waiting at the instruction, `exit` makes them
Exited; `jset` and `jclr` write a MASK; `cfetch` makes its frame PENDING and queues the copy of its segment; `prefi` fetches each
line ahead once. -/
def Obligations.JoinExitAndFrameResults : Prop := ∀ (h : Hdr) (o : RegForm) (m : ImmForm),
  CompletesTo (.join h o) (o.view 0 5 h) always (fun x s =>
    (s.modLanes x.t x.e fun _ y =>
      { (y.pass s.clock ⟨x.pc, some s.clock, 0, [], [], false, false⟩) with st := .join o.a.idx, wait := .none, ra := none }).modTeam x.t
        fun t => { t with wdzero := true }) (fun _ _ => none) ∧
  Completes (.jset h o) (o.view 0 6 h) always (fun x s => s.modTeam x.t fun t =>
    { t with mask := updAt t.mask o.d.idx fun _ => if o.a.isNone then x.e else BitVec.ofNat 32 (x.a0 32) }) ∧
  Completes (.jclr h o) (o.view 0 7 h) always (fun x s => s.modTeam x.t fun t =>
    { t with mask := updAt t.mask o.d.idx fun _ => 0 }) ∧
  CompletesTo (.exit h o) (o.view 0 8 h) always (fun x s => s.exitLanes x.t x.e x.pc) (fun _ _ => none) ∧
  Completes (.sleep h m) (m.view 0 10 h) (fun _ _ => m.imm = 0) (fun _ s => s) ∧
  CompletesTo (.sleep h m) (m.view 0 10 h) (fun _ _ => m.imm ≠ 0)
    (fun x s => (s.after m.imm.toNat (.sleepExpiry x.t x.l0)).waitLanes x.t x.e (.sleep (s.clock + m.imm.toNat)))
    (fun _ _ => none) ∧
  Completes (.cfetch h o) (o.view 0 12 h)
    (fun x s => s.overlay x.ctx = true ∧ x.b0 32 * 4096 % 2 ^ 32 + 4096 ≤ (x.group s).winLim) (fun x s => (cfetchBody x s).s) ∧
  Completes (.prefi h m) (m.view 0 13 h) (fun x s => s.overlay x.ctx = false) (fun x s =>
    ((x.lanes.flatMap fun l => prefiLines (x.a l 64) m.imm.toNat).dedup).foldl
      (fun s a => s.fetchAhead x.tm (BitVec.ofNat 48 a)) s)

/-! ### Classes 8 and 9: memory -/

/-- R247 to R252, R188: loads, stores and the instructions on lines complete where every lane passes the checks of Table 8-9;
`ldk` traps in no lane, and `prefd` and `cctl` need no check. -/
def Obligations.MemoryCompletes : Prop := ∀ (h : Hdr) (o : MemForm),
  Completes (.ld h o) (o.view 8 0 h) (fun x s => Passes x 1 x.v.plain true x.eas s) (fun x s => (ldBody x s).s) ∧
  Completes (.st h o) (o.view 8 1 h) (fun x s => Passes x 2 x.v.plain false x.eas s) (fun x s => (stBody x s).s) ∧
  Completes (.ldk h o) (o.view 8 2 h)
    (fun x s => ∀ c ∈ (x.checks x.v.space x.v.bytes 1 false true x.eas s).1, ∀ w, c.res ≠ .hold w)
    (fun x s => (ldkBody x s).s) ∧
  Completes (.stc h o) (o.view 8 3 h) (fun x s => Passes x 2 x.v.plain false x.runAddrs s) (fun x s => (stcBody x s).s) ∧
  Completes (.lde h o) (o.view 8 4 h) (fun x s => Passes x 1 x.v.plain true x.runAddrs s) (fun x s => (ldeBody x s).s) ∧
  Completes (.kld h o) (o.view 4 8 h) (fun x s => Passes x 1 x.v.plain true [(x.l0, x.ea x.l0)] s)
    (fun x s => (kldBody x s).s) ∧
  Completes (.prefd h o) (o.view 8 5 h) always (fun x s =>
    (x.lineVas.foldl (fun (acc : List Looked × State) a => acc.2.prefLine x a acc.1) ([], s)).2) ∧
  Completes (.cctlIcinv h o) (o.view 8 6 h) LinesPass (fun x s => (cctlBody 0 x s).s) ∧
  Completes (.cctlRdcinv h o) (o.view 8 6 h) LinesPass (fun x s => (cctlBody 1 x s).s) ∧
  Completes (.cctlWb h o) (o.view 8 6 h) LinesPass (fun x s => (cctlBody 2 x s).s) ∧
  Completes (.cctlWbinv h o) (o.view 8 6 h) LinesPass (fun x s => (cctlBody 3 x s).s)

/-- R253, R254, R255, R257, R259: atomics, ordered additions and fences complete where every lane passes its checks. -/
def Obligations.AtomicCompletes : Prop := ∀ (h : Hdr) (o : MemForm) (r : RegForm) (m : ImmForm),
  Completes (.atom h o) (o.view 9 0 h) (fun x s => Passes x 3 false true x.eas s) (fun x s => (atomBody true atomStep x s).s) ∧
  Completes (.red h o) (o.view 9 1 h) (fun x s => Passes x 3 false true x.eas s) (fun x s => (atomBody false atomStep x s).s) ∧
  Completes (.cas h o) (o.view 9 2 h) (fun x s => Passes x 3 false true x.eas s) (fun x s => (atomBody true casStep x s).s) ∧
  Completes (.ordadd h o) (o.view 9 3 h) (fun x s => (∃ p l, s.launchOf x.tm.grp = some (p, l) ∧ ∀ a ∈ x.eas, inTarget l a.2.toNat = true) ∧
      (∀ c ∈ (x.checks false 4 2 false true x.eas s).1, ∃ pa, c.res = .ok (.mem pa)) ∧
      ∀ d, ((x.checks false 4 2 false true x.eas s).2.2.die d).ords.length + 32 ≤ ordCap)
    (fun x s => (ordaddBody x s).s) ∧
  Completes (.flushord h r) (r.view 9 4 h) always (fun x s => (flushordBody x s).s) ∧
  Completes (.fence h m) (m.view 9 5 h) always (fun x s => (fenceBody x s).s)

/-! ### Classes 10 and 11: copies, handles and pipes -/

/-- R273 to R276, R268: a copy instruction queues one descriptor at the channel of its handle (R260) where the handle stands in
the state that Table 9-2 asks for; an out-copy leaves the handle DRAINING with one more in OUTS. -/
def Obligations.CopyResults : Prop := ∀ (h : Hdr) (o : RegForm) (m : MemForm),
  Completes (.cpy h m) (m.view 10 0 h)
    (fun x s => (s.handle x.tm.grp m.d.idx).st = .filling ∧
      ∀ s1, s1 = (s.modHandle x.tm.grp m.d.idx fun y =>
          y.reserve ((cpyPlaces x (s.handle x.tm.grp m.d.idx)).2 * x.v.bytes)) →
        (cpyRun x (x.group s) (s.handle x.tm.grp m.d.idx) m.d.idx s1 (cpyPlaces x (s.handle x.tm.grp m.d.idx)).1 [] s1).2.1 = none)
    (fun x s => (cpyBody x s).s) ∧
  Completes (.cpytIn h o) (o.view 10 1 h)
    (fun x s => ∃ a s', x.cpytSlots s = (.ok a, s') ∧ (s'.handle x.tm.grp o.d.idx).st = .filling ∧
      (s'.handle x.tm.grp o.d.idx).res + tileUnits a.1.1 a.1.2 * unitBytes a.2.1 ≤ (s'.handle x.tm.grp o.d.idx).len)
    (fun x s => (cpytInBody x s).s) ∧
  Completes (.cpytOut h o) (o.view 10 1 h)
    (fun x s => ∃ a s', x.cpytSlots s = (.ok a, s') ∧ ((s'.handle x.tm.grp o.d.idx).st = .full ∨
      (s'.handle x.tm.grp o.d.idx).st = .draining))
    (fun x s => (cpytOutBody x s).s) ∧
  Completes (.cpycsr h o) (o.view 10 2 h)
    (fun x s => (s.handle x.tm.grp o.d.idx).st = .filling ∧ (s.handle x.tm.grp o.c.idx).st = .filling)
    (fun x s => (x.release0 s).2.enqueue x.t.die x.t.core (o.d.idx % 2)
      (.make (.csr (x.a0 64 % 2 ^ 48) (x.b0 64 % 2 ^ 32) (x.b0 64 / 2 ^ 32) o.c.idx (s.handle x.tm.grp o.c.idx).serial.toNat)
        x.tm.grp o.d.idx (s.handle x.tm.grp o.d.idx).serial false [] s.clock (x.release0 s).1 none))

/-- R277 to R281 and Table 9-2: `bset`, `bwait`, `bquery` and `wptr`. -/
def Obligations.HandleResults : Prop := ∀ (h : Hdr) (o : RegForm),
  Completes (.bsetArm h o) (o.view 10 3 h)
    (fun x s => x.a0 32 % 16 = 0 ∧ x.b0 32 % 4 = 0 ∧ x.a0 32 + x.b0 32 ≤ (x.group s).winLim ∧
      (s.handle x.tm.grp o.d.idx).st = .free)
    (fun x s => s.setHandle x.tm.grp o.d.idx fun y =>
      y.armed (x.a0 32) (x.b0 32) (o.c.opt.testBit 3) (bits o.c.opt 7 4)) ∧
  Completes (.bsetClose h o) (o.view 10 3 h) always (fun x s => s.setHandle x.tm.grp o.d.idx Handle.close) ∧
  Completes (.bsetDrain h o) (o.view 10 3 h)
    (fun x s => (s.handle x.tm.grp o.d.idx).st = .full ∨ (s.handle x.tm.grp o.d.idx).st = .draining)
    (fun x s => s.setHandle x.tm.grp o.d.idx fun y => { y with st := .draining }) ∧
  Completes (.bsetFree h o) (o.view 10 3 h)
    (fun x s => (s.handle x.tm.grp o.d.idx).st = .free ∨ (s.handle x.tm.grp o.d.idx).st = .full ∨
      ((s.handle x.tm.grp o.d.idx).st = .draining ∧ (s.handle x.tm.grp o.d.idx).outs = 0))
    (fun x s => s.setHandle x.tm.grp o.d.idx fun y => { y with st := .free, ending := false, rstamp := 0 }) ∧
  Completes (.bsetReset h o) (o.view 10 3 h) always (fun x s => (bsetResetBody x s).s) ∧
  Completes (.bwait h o) (o.view 10 4 h)
    (fun x s => (s.handle x.tm.grp o.d.idx).st = HSt.ofCode (bits o.c.opt 1 0) ∧
      ((s.handle x.tm.grp o.d.idx).st = .full → (s.handle x.tm.grp o.d.idx).err = 0))
    (fun x s => s.modLanes x.t x.e fun _ y => y.acquire (match HSt.ofCode (bits o.c.opt 1 0) with
      | .full => (s.handle x.tm.grp o.d.idx).stamp
      | .free => (s.handle x.tm.grp o.d.idx).rstamp
      | .filling | .draining => 0)) ∧
  Completes (.bquery h o) (o.view 10 5 h) always (fun x s => (bqueryBody x s).s) ∧
  Completes (.wptr h o) (o.view 10 6 h) always (fun x s =>
    (x.putOne s o.d 1 (s.handle x.tm.grp o.a.idx).wptr 4).modLanes x.t x.e
      fun _ y => y.acquire (s.handle x.tm.grp o.a.idx).stamp) ∧
  Completes (.wptrGe h o) (o.view 10 6 h)
    (fun x s => x.b0 32 ≤ (s.handle x.tm.grp o.a.idx).wptr ∨ (s.handle x.tm.grp o.a.idx).st ≠ .filling)
    (fun x s => (x.putOne s o.d 1 (s.handle x.tm.grp o.a.idx).wptr 4).modLanes x.t x.e
      fun _ y => y.acquire (s.handle x.tm.grp o.a.idx).stamp)

/-- R287 to R293: `pres` and `ptake` queue a request at the pipe's home and wait there; `pcom` and `prel` issue the change of a
slot that the group holds; the copies, `pquery`, `pspill` and `pdrain` complete where the group's stage has the side. -/
def Obligations.PipeResults : Prop := ∀ (h : Hdr) (o : RegForm),
  CompletesTo (.pres h o) (o.view 11 0 h) (fun x s => (x.port .prod s).isSome = true) (fun x s => (presBody x s).s)
    (fun _ _ => none) ∧
  CompletesTo (.ptake h o) (o.view 11 2 h) (fun x s => (x.port .cons s).isSome = true) (fun x s => (ptakeBody x s).s)
    (fun _ _ => none) ∧
  Completes (.pcom h o) (o.view 11 1 h)
    (fun x s => ∃ p i u, x.reserved s = some (p, i) ∧ s.covered (x.group s) (x.tm.lane x.l0).ltnow = true ∧
      summary p.path (x.tm.lane x.l0).ltnow = some u ∧ u ≠ noTime)
    (fun x s => (pcomBody x s).s) ∧
  Completes (.prel h o) (o.view 11 3 h) (fun x s => (x.taken s).isSome = true) (fun x s => (prelBody x s).s) ∧
  Completes (.pcpyIn h o) (o.view 11 4 h)
    (fun x s => ∃ q, x.taken s = some q ∧ (s.handle x.tm.grp o.d.idx).st = .filling ∧
      (s.handle x.tm.grp o.d.idx).res + q.1.slotSize ≤ (s.handle x.tm.grp o.d.idx).len)
    (fun x s => (pcpyInBody x s).s) ∧
  Completes (.pcpyOut h o) (o.view 11 4 h)
    (fun x s => (x.reserved s).isSome = true ∧ ((s.handle x.tm.grp o.d.idx).st = .full ∨
      (s.handle x.tm.grp o.d.idx).st = .draining))
    (fun x s => (pcpyOutBody x s).s) ∧
  Completes (.pquery h o) (o.view 11 5 h) (fun x s => (x.port .either s).isSome = true) (fun x s => (pqueryBody x s).s) ∧
  Completes (.pspill h o) (o.view 11 6 h) (fun x s => (x.port .either s).isSome = true) (fun x s => (pspillBody x s).s) ∧
  Completes (.pdrain h o) (o.view 11 7 h) (fun x s => (x.port .prod s).isSome = true) (fun x s => (pdrainBody x s).s)

/-! ### Class 12: matrix engines -/

/-- R310, R311: a record that passes the checks puts one job at the end of its cluster's queue; `mx.post` waits until its record
has been read; `mx.ring` binds a barrier (R319) and `mx.stat` reads (Table 10-8). -/
def Obligations.MatrixResults : Prop := ∀ (h : Hdr) (o : RegForm) (m : ImmForm) (q : MemForm),
  (∀ i v, (i, v) ∈ [(Instr.mxLdb h o, o.view 12 0 h), (.mxMma h o, o.view 12 1 h), (.mxGmma h o, o.view 12 2 h),
      (.mxRd h o, o.view 12 3 h), (.mxClr h o, o.view 12 4 h)] →
    Completes i v
      (fun x s => ∃ r l ts, (s.checkJob x.t.die (x.group s) (shortRecord v.opn v.sig (x.a0 128)
        (if v.opn = 4 then 0 else x.b0 64) (if o.c.isNone then 0 else x.c0 64))).1 = .ok r l ts)
      (fun x s => (shortBody x s).s)) ∧
  CompletesTo (.mxPost h q) (q.view 12 5 h)
    (fun x s => ∃ p, (x.check s x.v.space 64 1 false true x.l0 (x.ea x.l0) [] s).1.res = .ok p)
    (fun x s => (mxPostBody x s).s) (fun _ _ => none) ∧
  Completes (.mxRing h o) (o.view 12 6 h) always (fun x s => s.modHandle x.tm.grp o.d.idx fun y =>
    { y with ring := if o.a.isNone then none else some o.a.idx }) ∧
  Completes (.mxStat h m) (m.view 12 7 h) always (fun x s => x.putOne
    (if m.imm = 3 then s.modGroup x.tm.grp fun g => { g with mxErr := ⟨0, 0, 0⟩ } else s) m.d 2 (mxStatVal x s m.imm.toNat) 4)

/-! ### Class 13: barriers, timelines, logical time and tasks -/

/-- R347, R356 to R359: barrier instructions on a barrier whose scope has the team in it. A `bar.arr` counts each lane that has not
yet arrived; a `bar.sync` waits; a `bar.wait` goes on where every lane's generation has passed. -/
def Obligations.BarrierResults : Prop := ∀ (h : Hdr) (o : RegForm),
  CompletesTo (.barArr h o) (o.view 13 0 h) (fun x s => s.barExcludes (x.bar s) x.t = false) (fun x s => (barArrBody x s).s)
    (fun x l => if ((x.tm.arrOf o.a.idx).1).getLsbD l then none else some (nextPc x.pc)) ∧
  Completes (.barWait h o) (o.view 13 1 h)
    (fun x s => s.barExcludes (x.bar s) x.t = false ∧
      ∀ l ∈ x.lanes, genPassed (s.bar (x.bar s)).gen (BitVec.ofNat 16 (x.b l 32)) = true)
    (fun x s => s.barAcquire (x.bar s) x.t x.e) ∧
  CompletesTo (.barSync h o) (o.view 13 2 h) (fun x s => s.barExcludes (x.bar s) x.t = false) (fun x s => (barSyncBody x s).s)
    (fun _ _ => none) ∧
  Completes (.barBytes h o) (o.view 13 3 h) (fun x s => s.barExcludes (x.bar s) x.t = false ∧ x.b0 32 ≤ 2 ^ 24)
    (fun x s => (x.release0 s).2.atBar (x.bar s) fun y =>
      { y with counts := y.counts ++ [((x.b0 32 : Int), (x.release0 s).1)] }) ∧
  Completes (.barMem h o) (o.view 13 4 h)
    (fun x s => s.barExcludes (x.bar s) x.t = false ∧ x.b0 32 ≤ s.barLimit (x.bar s))
    (fun x s => s.atBar (x.bar s) fun y => { y with mems := y.mems ++ [(x.key, x.b0 32)] }) ∧
  Completes (.barMemBind h o) (o.view 13 4 h) (fun x s => x.b0 32 ≤ 63 ∧ s.barBusy (x.bar s) = false)
    (fun x s => (barMemBindBody x s).s) ∧
  Completes (.barMemUnbind h o) (o.view 13 4 h) (fun x s => s.barBusy (x.bar s) = false)
    (fun x s => { s with binds := s.binds.filter (·.who != (x.group s).ownBar o.a.idx) })

/-- R353, R360, R361: `tl.sig` issues the next number, `tl.wait` goes on where the value has reached each lane's, `tl.rd` reads. -/
def Obligations.TimelineResults : Prop := ∀ (h : Hdr) (o : RegForm),
  Completes (.tlSig h o) (o.view 13 8 h) always (fun x s => (tlSigBody x s).s) ∧
  Completes (.tlWait h o) (o.view 13 9 h)
    (fun x s => ∀ l ∈ x.lanes, BitVec.ofNat 64 (x.b l 64) ≤ ((x.group s).tc o.a.idx).v)
    (fun x s => s.modLanes x.t x.e fun _ y => y.acquire ((x.group s).tc o.a.idx).stamp) ∧
  Completes (.tlRd h o) (o.view 13 10 h) always (fun x s => (tlRdBody x s).s)

/-- R383 to R386, R369, R370: LTNOW is set and advanced; holds and the root take and leave their counts; the frontier is read and
awaited. -/
def Obligations.LogicalTimeResults : Prop := ∀ (h : Hdr) (o : RegForm),
  Completes (.ltSet h o) (o.view 13 16 h) (fun x _ => ∀ l ∈ x.lanes, BitVec.ofNat 64 (x.a l 64) ≠ noTime)
    (fun x s => s.modLanes x.t x.e fun l y => { y with ltnow := BitVec.ofNat 64 (x.a l 64) }) ∧
  Completes (.ltAdv h o) (o.view 13 17 h)
    (fun x _ => ∀ l ∈ x.lanes, ∃ t, advance o.a.opt (x.b l 32) (x.tm.lane l).ltnow = some t ∧ t ≠ noTime)
    (fun x s => s.modLanes x.t x.e fun l y =>
      { y with ltnow := (advance o.a.opt (x.b l 32) (x.tm.lane l).ltnow).getD y.ltnow }) ∧
  Completes (.ltHold h o) (o.view 13 18 h)
    (fun x s => x.time0 o.a ≠ noTime ∧ s.covered (x.group s) (x.time0 o.a) = true ∧
      (∀ c, (x.group s).holds.find? (·.1 == x.time0 o.a) = some c → c.2 ≠ 65535) ∧
      ((x.group s).holds.find? (·.1 == x.time0 o.a) = none → (x.group s).holds.length < 8))
    (fun x s => (s.modGroup (x.group s).ref fun y => { y with
        holds := upsert y.holds (·.1 == x.time0 o.a) (x.time0 o.a, 0) fun h => (h.1, h.2 + 1) }).formBatch
      x.t.die (x.group s).plan [(.stage (x.group s).stage, x.time0 o.a)] [] 0 x.key) ∧
  Completes (.ltHoldRoot h o) (o.view 13 18 h)
    (fun x s => x.time0 o.a ≠ noTime ∧ ∃ old, (s.stageOf (x.group s)).root = some old ∧ old ≤ x.time0 o.a)
    (fun x s => (ltHoldRootBody x s).s) ∧
  Completes (.ltDrop h o) (o.view 13 19 h) (fun x s => (x.group s).holds.any (·.1 == x.time0 o.a) = true)
    (fun x s => (ltDropBody x s).s) ∧
  Completes (.ltDropRoot h o) (o.view 13 19 h) (fun x s => (s.stageOf (x.group s)).root.isSome = true)
    (fun x s => (ltDropRootBody x s).s) ∧
  Completes (.ltFront h o) (o.view 13 20 h) (fun x s => ∃ l, x.location s = .ok l) (fun x s => (ltFrontBody x s).s) ∧
  Completes (.ltAwait h o) (o.view 13 21 h)
    (fun x s => ∃ loc, x.location s = .ok loc ∧
      ∀ l ∈ x.lanes, BitVec.ofNat 64 (x.b l 64) < s.frontier x.t.die x.ctx (x.group s).rcb loc)
    (fun x s => (s.acquireDrop x.t.die 2 5).modLanes x.t x.e fun _ y => y.acquire (s.tlStamp x.t.die x.ctx (x.group s).rcb))

/-- R388, R389, R468, R480: `tk.post`, `tk.done` and a direct take send one request to the ready queue's node and wait; the shadow
slots are bound, unbound and taken from. -/
def Obligations.TaskResults : Prop := ∀ (h : Hdr) (o : RegForm),
  CompletesTo (.tkPost h o) (o.view 13 24 h) (fun x _ => x.a0 32 ≤ 4095) (fun x s => (tkPostBody x s).s) (fun _ _ => none) ∧
  CompletesTo (.tkDone h o) (o.view 13 25 h) (fun x _ => x.a0 32 ≤ 4095) (fun x s => (tkDoneBody x s).s) (fun _ _ => none) ∧
  Completes (.tkArmBind h o) (o.view 13 26 h)
    (fun x s => ∃ r s', s.readSlot x.t.die x.ctx o.a.tsNum = (.ok r, s') ∧ ∀ sh, x.shadow s' = some sh → sh.grp = x.tm.grp)
    (fun x s => (tkArmBindBody x s).s) ∧
  Completes (.tkArmUnbind h o) (o.view 13 26 h) (fun x s => ∀ sh, x.shadow s = some sh → sh.grp = x.tm.grp)
    (fun x s => (tkArmUnbindBody x s).s) ∧
  CompletesTo (.tkArmTake h o) (o.view 13 26 h) (fun x s => ∀ sh, x.shadow s = some sh → sh.grp = x.tm.grp)
    (fun x s => (tkArmTakeBody x s).s) (fun _ _ => none) ∧
  CompletesTo (.tkArmTakeDirect h o) (o.view 13 26 h) always (fun x s => (tkArmTakeDirectBody x s).s) (fun _ _ => none)

/-! ### Class 14: the optical fabric and collectives -/

/-- R402, R410 to R414: the fabric instructions. -/
def Obligations.FabricResults : Prop := ∀ (h : Hdr) (o : RegForm),
  Completes (.fxSend h o) (o.view 14 0 h)
    (fun x s => s.stale (x.b0 32 % 65536) = none ∧
      sendField s (bits (x.a0 128) 95 64) (bits (x.a0 128) 127 96) (x.c0 64) = none ∧
      s.routed (bits (bits (x.a0 128) 127 96) 9 0) = true)
    (fun x s => (fxSendBody x s).s) ∧
  Completes (.fxCirc h o) (o.view 14 1 h)
    (fun x s => x.fxOwner s = true ∧ s.stale (x.a0 32 % 65536) = none ∧ (s.fab.circ.isSome = true ∨ s.fab.staged.isNone = true))
    (fun x s => x.putOne s o.d 1 (if s.fab.circ.isSome then 2 else 3) 4) ∧
  CompletesTo (.fxCirc h o) (o.view 14 1 h)
    (fun x s => x.fxOwner s = true ∧ s.stale (x.a0 32 % 65536) = none ∧ s.fab.circ.isNone = true ∧ s.fab.staged.isSome = true)
    (fun x s => (fxCircBody x s).s) (fun _ _ => none) ∧
  Completes (.fxGen h o) (o.view 14 2 h) always (fun x s => x.putOne s o.d 1 s.topoGen 4) ∧
  Completes (.fxGenNe h o) (o.view 14 2 h) (fun x s => x.b0 32 % 65536 ≠ s.topoGen) (fun x s => x.putOne s o.d 1 s.topoGen 4) ∧
  Completes (.fxSlot h o) (o.view 14 3 h) (fun x s => x.fxOwner s = true ∧ ∃ hd lat s1 bs lat2 s2 tbl,
      x.readImage (x.a0 64) 1 0 [] 0 s = (.ok (hd, lat), s1) ∧
      x.readImage (x.a0 64) (bits (leVal (hd.take 8)) 55 50) 1 hd lat s1 = (.ok (bs, lat2), s2) ∧
      parseTable s2.fab.devid bs = some tbl ∧ s2.fab.circ.isNone = true)
    (fun x s => (fxSlotBody x s).s) ∧
  Completes (.fxQstat h o) (o.view 14 4 h) always (fun x s => (fxQstatBody x s).s)

/-- R415 to R417: the collective instructions on a chunk of the launch. -/
def Obligations.CollectiveResults : Prop := ∀ (h : Hdr) (o : RegForm),
  Completes (.coFire h o) (o.view 14 8 h)
    (fun x s => ∃ s', s.chunkEntry (x.group s) = (some (x.a0 32), s') ∧ x.a0 32 < s'.chunkCount (x.group s) ∧
      (x.group s).fired.contains (x.a0 32) = false)
    (fun x s => (coFireBody x s).s) ∧
  Completes (.coAck h o) (o.view 14 9 h)
    (fun x s => x.a0 32 < s.chunkCount (x.group s) ∧
      ((s.chunk? x.ctx (x.group s).rcb (x.a0 32)).bind Chunk.status).isSome = true)
    (fun x s => x.putOne (x.ackResults (x.group s).rcb [x.a0 32] s) o.d 1
      (((s.chunk? x.ctx (x.group s).rcb (x.a0 32)).bind Chunk.status).getD 0) 4) ∧
  Completes (.coAckAll h o) (o.view 14 9 h)
    (fun x s => 0 < s.chunkCount (x.group s) ∧ ∀ c < s.chunkCount (x.group s),
      ((s.chunk? x.ctx (x.group s).rcb c).bind Chunk.status).isSome = true)
    (fun x s => (coAckAllBody x s).s) ∧
  Completes (.coStat h o) (o.view 14 10 h) (fun x s => x.a0 32 < s.chunkCount (x.group s)) (fun x s => (coStatBody x s).s)

/-! ### Class 15: traps and the firmware's instructions -/

/-- R420, R421, R435: `trap`, `brk` and `sysc` release, and then trap their lanes with the immediate as DETAIL0. -/
def Obligations.TrapInstructionResults : Prop := ∀ (h : Hdr) (m : ImmForm),
  TrapsWith (.trap h m) (m.view 15 0 h) always (fun x s => (s.releaseLanes x.t x.e).2)
    (fun _ => ⟨0x21, m.imm, 0, 0, 0, 0⟩) ∧
  TrapsWith (.brk h m) (m.view 15 1 h) always (fun x s => (s.releaseLanes x.t x.e).2)
    (fun _ => ⟨0x22, m.imm, 0, 0, 0, 0⟩) ∧
  TrapsWith (.sysc h m) (m.view 15 2 h) always (fun x s => (s.releaseLanes x.t x.e).2)
    (fun x => ⟨0x23, m.imm, BitVec.ofNat 64 (x.a0 64), 0, 0, 0⟩)

/-- R147, R437 to R441: `wdkick` and the firmware's instructions, on the firmware core. -/
def Obligations.FirmwareResults : Prop := ∀ (h : Hdr) (o : RegForm) (m : ImmForm),
  Completes (.wdkick h o) (o.view 15 3 h) always (fun x s => s.modTeam x.t fun t => { t with wdc := 0, wdzero := true }) ∧
  Completes (.rte h o) (o.view 15 56 h)
    (fun x s => bits (bits (x.a0 128) 63 32) 15 12 < 7 ∧ ((x.release0 s).2.sendReplyTo x.t.die
      ((List.range 4).map fun i => BitVec.ofNat 32 (x.a0 128 / 2 ^ (32 * i))) (x.release0 s).1).isSome = true)
    (fun x s => (rteBody x s).s) ∧
  Completes (.rdwin h o) (o.view 15 57 h)
    (fun x s => ∃ tm v, s.target x.t.die (x.a0 32) = some tm ∧ s.winItem tm (x.b0 32) = some v)
    (fun x s => (rdwinBody x s).s) ∧
  Completes (.wrwin h o) (o.view 15 58 h)
    (fun x s => ∃ tm, s.target x.t.die (x.a0 32) = some tm ∧ s.winBad tm (x.b0 32) (x.dsrc x.l0 64) = 0)
    (fun x s => (wrwinBody x s).s) ∧
  Completes (.park h o) (o.view 15 59 h) (fun x s => (s.target x.t.die (x.a0 32)).isSome = true) (fun x s => (parkBody x s).s) ∧
  Completes (.unpark h o) (o.view 15 60 h) (fun x s => (s.target x.t.die (x.a0 32)).isSome = true)
    (fun x s => (unparkBody x s).s) ∧
  Completes (.csave h o) (o.view 15 61 h)
    (fun x s => ∃ tm, s.target x.t.die (x.a0 32) = some tm ∧ tm.lanes.any (fun l => l.st == .runnable) = false ∧
      s.bodyCheck (x.b0 64 % 2 ^ 48) (teamBodyBytes (s.regsOf tm)) false = none)
    (fun x s => (csaveBody x s).s) ∧
  Completes (.crest h o) (o.view 15 62 h) 
    (fun x s => ∃ tm, s.target x.t.die (x.a0 32) = some tm ∧
      tm.lanes.all (fun l => l.st == .parked || l.st == .exited) = true ∧
      s.bodyCheck (x.b0 64 % 2 ^ 48) (teamBodyBytes (s.regsOf tm)) true = none ∧
      (let s1 := (s.bodyLines x.t.die (x.b0 64 % 2 ^ 48) (teamBodyBytes (s.regsOf tm)) false).2
       let bs := (s1.bodyGet (x.b0 64 % 2 ^ 48) (teamBodyBytes (s.regsOf tm))).1
       bits (bodyWord bs 0) 15 8 = s.regsOf tm ∧ teamBodyOk bs = true))
    (fun x s => (crestBody x s).s) ∧
  Completes (.halt h m) (m.view 15 63 h) (fun x s => s.pendingEvents x.t.die &&& m.imm.toNat ≠ 0)
    (fun x s => (haltBody x s).s) ∧
  CompletesTo (.halt h m) (m.view 15 63 h) (fun x s => s.pendingEvents x.t.die &&& m.imm.toNat = 0)
    (fun x s => s.waitLanes x.t x.e (.halt m.imm.toNat m.d)) (fun _ _ => none)

/-! ### Events -/

/-- Completion of the events of issue (R130, R148, R162, R143, R155, R98, R106): where the unit that the event
names is one of the package, the next state is that of the event's own operation, and the event is over. -/
def Obligations.IssueEventsRun : Prop :=
  (∀ d c q, EventRuns .quadIssue (.quadIssue d c q) (d < 4 ∧ c < 128 ∧ q < 4) (quadIssue d c q)) ∧
  (∀ t, EventRuns .watchdogExpiry (.watchdogExpiry t) True (watchdogExpiry t)) ∧
  (∀ t z1, EventRuns .sleepExpiry (.sleepExpiry t z1) True (sleepExpiry t)) ∧
  (∀ t m pc, EventRuns .lookaheadResult (.lookaheadResult t m pc) True (lookaheadResult t m pc)) ∧
  (∀ d c l z1, EventRuns .icacheFill (.icacheFill d c l z1) True (icacheFill d c l)) ∧
  (∀ g f n, EventRuns .cfetchLanded (.cfetchLanded g f n) True (cfetchLanded g f n))

/-- Completion of the events and commands of the queues and of placement (R50 to R90): where the unit that the event
names is one of the package, the next state is that of the event's own operation, and the event is over. -/
def Obligations.QueueAndPlacementEventsRun : Prop :=
  (∀ q v, EventRuns .tailSubmission (.tailSubmission q v) (q.die < 4 ∧ q.q < 32) (tailSubmission q v)) ∧
  (∀ d, EventRuns .fifoEntryEvaluation (.fifoEntryEvaluation d) (d < 4) (fifoEntryEvaluation d)) ∧
  (∀ q v, EventRuns .tailerrClear (.tailerrClear q v) (q.die < 4 ∧ q.q < 32) (tailerrClear q v)) ∧
  (∀ q v, EventRuns .queueEnable (.queueEnable q v) (q.die < 4 ∧ q.q < 32) (queueEnable q v)) ∧
  (∀ q v, EventRuns .qheadWrite (.qheadWrite q v) (q.die < 4 ∧ q.q < 32) (qheadWrite q v)) ∧
  (∀ q w z1, EventRuns .cmdNop (.cmdNop q w z1) (q.die < 4 ∧ q.q < 32) (fun s => cmdNop q w (s.serve q))) ∧
  (∀ q w pl, EventRuns .cmdResume (.cmdResume q w pl) (q.die < 4 ∧ q.q < 32) (fun s => cmdResume q w pl (s.serve q))) ∧
  (∀ q w pl, EventRuns .cmdPreempt (.cmdPreempt q w pl) (q.die < 4 ∧ q.q < 32) (fun s => cmdPreempt q w pl (s.serve q))) ∧
  (∀ q w pl, EventRuns .cmdDrainPlan (.cmdDrainPlan q w pl) (q.die < 4 ∧ q.q < 32) (fun s => cmdDrainPlan q w pl (s.serve q))) ∧
  (∀ q w pl, EventRuns .cmdIndirect (.cmdIndirect q w pl) (q.die < 4 ∧ q.q < 32) (fun s => cmdIndirect q w pl (s.serve q))) ∧
  (∀ q w z1, EventRuns .cmdReturn (.cmdReturn q w z1) (q.die < 4 ∧ q.q < 32) (fun s => cmdReturn q w (s.serve q))) ∧
  (∀ q w pl, EventRuns .cmdSignal (.cmdSignal q w pl) (q.die < 4 ∧ q.q < 32) (fun s => cmdSignal q w pl (s.serve q))) ∧
  (∀ q w pl, EventRuns .cmdWaitTime (.cmdWaitTime q w pl) (q.die < 4 ∧ q.q < 32) (fun s => cmdWaitTime q w pl (s.serve q))) ∧
  (∀ q w z1, EventRuns .cmdFence (.cmdFence q w z1) (q.die < 4 ∧ q.q < 32) (fun s => cmdFence q w (s.serve q))) ∧
  (∀ q, EventRuns .waitTimePoll (.waitTimePoll q) (q.die < 4 ∧ q.q < 32) (waitTimePoll q)) ∧
  (∀ q, EventRuns .fenceCommit (.fenceCommit q) (q.die < 4 ∧ q.q < 32) (fenceCommit q)) ∧
  (∀ d, EventRuns .firmwareRestart (.firmwareRestart d) (d < 4) (firmwareRestart d)) ∧
  (∀ q, EventRuns .ctxidWrite (.ctxidWrite q) (q.die < 4 ∧ q.q < 32) (ctxidWrite q)) ∧
  (∀ c n, EventRuns .restorePhase (.restorePhase c n) True (restorePhase c n)) ∧
  (∀ c, EventRuns .startUnits (.startUnits c) True (startUnits c)) ∧
  (∀ r g, EventRuns .gangPlace (.gangPlace r g) True (gangPlace r g)) ∧
  (∀ r g, EventRuns .plwaitExpiry (.plwaitExpiry r g) True (plwaitExpiry r g)) ∧
  (∀ d core ix, EventRuns .shadowSlotTake (.shadowSlotTake d core ix) (d < 4 ∧ core < 128) (shadowSlotTake d core ix)) ∧
  (∀ p, EventRuns .weirSample (.weirSample p) True (weirSample p)) ∧
  (∀ p, EventRuns .weirIntervalEnd (.weirIntervalEnd p) True (weirIntervalEnd p)) ∧
  (∀ d, EventRuns .sluiceDeferredServe (.sluiceDeferredServe d) (d < 4) (sluiceDeferredServe d)) ∧
  (∀ a b, EventRuns .dieLinkFail (.dieLinkFail a b) (a < 4 ∧ b < 4) (dieLinkFail a b)) ∧
  (∀ d, EventRuns .dieUnreachable (.dieUnreachable d) (d < 4) (dieUnreachable d))

/-- Completion of the events of the memory side (R226 to R259): where the unit that the event
names is one of the package, the next state is that of the event's own operation, and the event is over. -/
def Obligations.MemoryEventsRun : Prop :=
  (∀ a, EventRuns .memoryAccessPerform (.memoryAccessPerform a) (a.die < 4 ∧ (a.post.isSome = true ∨ a.run.isSome = true ∨ a.pa + a.size ≤ hbmBytes)) (memoryAccessPerform a)) ∧
  (∀ d, EventRuns .translationWalk (.translationWalk d) (d < 4) (translationWalk d)) ∧
  (∀ d home line, EventRuns .rdcProbe (.rdcProbe d home line) (d < 4) (rdcProbe d home line)) ∧
  (∀ home d line, EventRuns .probeAck (.probeAck home d line) (home < 4) (probeAck home d line)) ∧
  (∀ home d line, EventRuns .dropNotice (.dropNotice home d line) (home < 4) (dropNotice home d line)) ∧
  (∀ d bank, EventRuns .hbmRefresh (.hbmRefresh d bank) (d < 4) (hbmRefresh d bank)) ∧
  (∀ d, EventRuns .invalidationStart (.invalidationStart d) (d < 4) (invalidationStart d)) ∧
  (∀ d, EventRuns .invalidationComplete (.invalidationComplete d) (d < 4) (invalidationComplete d)) ∧
  (∀ d, EventRuns .migrationStart (.migrationStart d) (d < 4) (migrationStart d)) ∧
  (∀ d, EventRuns .migrationEnd (.migrationEnd d) (d < 4) (migrationEnd d)) ∧
  (EventRuns .hotnessHalving .hotnessHalving True hotnessHalving) ∧
  (∀ d, EventRuns .orderedOverflow (.orderedOverflow d) (d < 4) (orderedOverflow d)) ∧
  (∀ d rcb, EventRuns .orddrop (.orddrop d rcb) (d < 4) (orddrop d rcb))

/-- Completion of the events of copies, handles and pipes (R260 to R300): where the unit that the event
names is one of the package, the next state is that of the event's own operation, and the event is over. -/
def Obligations.CopyAndPipeEventsRun : Prop :=
  (∀ d core ix, EventRuns .copyDescriptorStart (.copyDescriptorStart d core ix) True (copyDescriptorStart d core ix)) ∧
  (∀ d core ix, EventRuns .copyReadComplete (.copyReadComplete d core ix) True (copyReadComplete d core ix)) ∧
  (∀ g n serial bytes stamp, EventRuns .deliveryCount (.deliveryCount g n serial bytes stamp) True (deliveryCount g n serial bytes stamp)) ∧
  (∀ d core ix, EventRuns .outCopyEnd (.outCopyEnd d core ix) True (outCopyEnd d core ix)) ∧
  (∀ g n, EventRuns .handleWaiterWake (.handleWaiterWake g n) True (handleWaiterWake g n)) ∧
  (∀ r, EventRuns .pipeRequestArrival (.pipeRequestArrival r) True (pipeRequestArrival r)) ∧
  (∀ r c, EventRuns .pipeCounterChange (.pipeCounterChange r c) True (pipeCounterChange r c)) ∧
  (∀ r, EventRuns .tileSpill (.tileSpill r) True (tileSpill r)) ∧
  (∀ p, EventRuns .deadlockDeclaration (.deadlockDeclaration p) True (deadlockDeclaration p)) ∧
  (∀ r, EventRuns .stagingTransfer (.stagingTransfer r) True (stagingTransfer r)) ∧
  (∀ r t bs, EventRuns .tileArrival (.tileArrival r t bs) True (tileArrival r t bs)) ∧
  (∀ r n, EventRuns .creditReport (.creditReport r n) True (creditReport r n)) ∧
  (∀ r, EventRuns .stagingAck (.stagingAck r) True (stagingAck r))

/-- Completion of the events of the matrix engines (R312 to R328): where the unit that the event
names is one of the package, the next state is that of the event's own operation, and the event is over. -/
def Obligations.MatrixEventsRun : Prop :=
  (∀ d c e, EventRuns .jobStart (.jobStart d c e) (d < 4 ∧ c < 32 ∧ e < 2) (jobStart d c e)) ∧
  (∀ d c e, EventRuns .jobLastRead (.jobLastRead d c e) (d < 4 ∧ c < 32 ∧ e < 2) (jobLastRead d c e)) ∧
  (∀ g b e st, EventRuns .engineArrival (.engineArrival g b e st) True (engineArrival g b e st)) ∧
  (∀ d c e, EventRuns .jobComplete (.jobComplete d c e) (d < 4 ∧ c < 32 ∧ e < 2) (jobComplete d c e)) ∧
  (∀ d e f, EventRuns .selfTest (.selfTest d e f) (d < 4 ∧ e < 64) (selfTest d e f)) ∧
  (∀ d, EventRuns .controlStoreLoad (.controlStoreLoad d) (d < 4) (controlStoreLoad d))

/-- Completion of the events of barriers, timelines, Tideline and the ready queue (R347 to R389): where the unit that the event
names is one of the package, the next state is that of the event's own operation, and the event is over. -/
def Obligations.OrderEventsRun : Prop :=
  (∀ r, EventRuns .barrierPhaseAdvance (.barrierPhaseAdvance r) True (barrierPhaseAdvance r)) ∧
  (∀ r, EventRuns .barrierWaiterRelease (.barrierWaiterRelease r) True (barrierWaiterRelease r)) ∧
  (∀ g tc n stamp w, EventRuns .tlSigComplete (.tlSigComplete g tc n stamp w) True (tlSigComplete g tc n stamp w)) ∧
  (∀ g tc, EventRuns .timelineWaiterWake (.timelineWaiterWake g tc) True (timelineWaiterWake g tc)) ∧
  (∀ d b, EventRuns .tidelineBatchApply (.tidelineBatchApply d b) (d < 4) (tidelineBatchApply d b)) ∧
  (∀ d, EventRuns .frontierRecompute (.frontierRecompute d) (d < 4) (frontierRecompute d)) ∧
  (∀ t l, EventRuns .frontierWaiterRelease (.frontierWaiterRelease t l) True (frontierWaiterRelease t l)) ∧
  (∀ d, EventRuns .tidelineHeldTimeout (.tidelineHeldTimeout d) (d < 4) (tidelineHeldTimeout d)) ∧
  (∀ ctx, EventRuns .taskRequestArrival (.taskRequestArrival ctx) True (taskRequestArrival ctx)) ∧
  (∀ r, EventRuns .taskVerdictReturn (.taskVerdictReturn r) True (taskVerdictReturn r))

/-- Completion of the events of UALink, the fabric and collectives (R390 to R419): where the unit that the event
names is one of the package, the next state is that of the event's own operation, and the event is over. -/
def Obligations.FabricEventsRun : Prop :=
  (∀ p, EventRuns .ualinkReplay (.ualinkReplay p) (p < 16) (ualinkReplay p)) ∧
  (∀ p, EventRuns .ualinkPortFail (.ualinkPortFail p) (p < 16) (ualinkPortFail p)) ∧
  (∀ p, EventRuns .ualinkPortRetrain (.ualinkPortRetrain p) (p < 16) (ualinkPortRetrain p)) ∧
  (∀ dev, EventRuns .ualinkRouteTimeout (.ualinkRouteTimeout dev) True (ualinkRouteTimeout dev)) ∧
  (∀ id, EventRuns .sendEligible (.sendEligible id) True (sendEligible id)) ∧
  (EventRuns .dataPeriodStart .dataPeriodStart True dataPeriodStart) ∧
  (EventRuns .guardInterval .guardInterval True guardInterval) ∧
  (∀ f, EventRuns .frameReceive (.frameReceive f) True (frameReceive f)) ∧
  (∀ id off refused, EventRuns .frameAckReceive (.frameAckReceive id off refused) True (frameAckReceive id off refused)) ∧
  (∀ m, EventRuns .controlMessage (.controlMessage m) True (controlMessage m)) ∧
  (∀ dev conns, EventRuns .circuitRequestArrival (.circuitRequestArrival dev conns) True (circuitRequestArrival dev conns)) ∧
  (EventRuns .tableActivation .tableActivation True tableActivation) ∧
  (∀ dev, EventRuns .circuitRequestWithdraw (.circuitRequestWithdraw dev) True (circuitRequestWithdraw dev)) ∧
  (∀ w v, EventRuns .receiveWindowEnable (.receiveWindowEnable w v) (w < 16) (receiveWindowEnable w v)) ∧
  (∀ coll c r ctx alt bs, EventRuns .childPartialArrival (.childPartialArrival coll c r ctx alt bs) True (childPartialArrival coll c r ctx alt bs)) ∧
  (∀ coll c, EventRuns .reduceBlockEnd (.reduceBlockEnd coll c) True (reduceBlockEnd coll c)) ∧
  (∀ coll c r, EventRuns .commitRequest (.commitRequest coll c r) True (commitRequest coll c r)) ∧
  (∀ coll c alt bs, EventRuns .broadcastArrival (.broadcastArrival coll c alt bs) True (broadcastArrival coll c alt bs)) ∧
  (∀ coll c, EventRuns .redoRequest (.redoRequest coll c) True (redoRequest coll c)) ∧
  (∀ coll c, EventRuns .redo (.redo coll c) True (redo coll c)) ∧
  (∀ coll c, EventRuns .collectiveFail (.collectiveFail coll c) True (collectiveFail coll c))

/-- Completion of the events of fault records, interruption and retirement (R420 to R449): where the unit that the event
names is one of the package, the next state is that of the event's own operation, and the event is over. -/
def Obligations.RetirementEventsRun : Prop :=
  (∀ d, EventRuns .faultRecordWrite (.faultRecordWrite d) (d < 4) (faultRecordWrite d)) ∧
  (∀ c, EventRuns .drainEnd (.drainEnd c) True (drainEnd c)) ∧
  (∀ c, EventRuns .forceCycle (.forceCycle c) True (forceCycle c)) ∧
  (∀ c, EventRuns .quiesce (.quiesce c) True (quiesce c)) ∧
  (∀ g, EventRuns .groupResourcesFree (.groupResourcesFree g) True (groupResourcesFree g)) ∧
  (∀ p, EventRuns .launchRetire (.launchRetire p) True (launchRetire p)) ∧
  (∀ p, EventRuns .planRetire (.planRetire p) True (planRetire p))

/-- Completion of resets, boot, service and register writes (R450 to R480): where the unit that the event
names is one of the package, the next state is that of the event's own operation, and the event is over. -/
def Obligations.ServiceEventsRun : Prop :=
  (∀ d u, EventRuns .engineReset (.engineReset d u) (d < 4) (engineReset d u)) ∧
  (∀ d u, EventRuns .channelReset (.channelReset d u) (d < 4) (channelReset d u)) ∧
  (∀ d, EventRuns .walkerReset (.walkerReset d) (d < 4) (walkerReset d)) ∧
  (∀ d, EventRuns .tidelineNodeReset (.tidelineNodeReset d) (d < 4) (tidelineNodeReset d)) ∧
  (∀ d u, EventRuns .coreReset (.coreReset d u) (d < 4) (coreReset d u)) ∧
  (∀ d u, EventRuns .dieReset (.dieReset d u) (d < 4) (dieReset d u)) ∧
  (EventRuns .packageWarmReset .packageWarmReset True packageWarmReset) ∧
  (EventRuns .packageColdReset .packageColdReset True packageColdReset) ∧
  (EventRuns .managementDomainReset .managementDomainReset True managementDomainReset) ∧
  (∀ d, EventRuns .dieBoot (.dieBoot d) (d < 4) (dieBoot d)) ∧
  (∀ d c, EventRuns .hbmChannelRecalibration (.hbmChannelRecalibration d c) (d < 4) (hbmChannelRecalibration d c)) ∧
  (∀ p w, EventRuns .wavelengthRecalibration (.wavelengthRecalibration p w) (p < 32 ∧ w < 8) (wavelengthRecalibration p w)) ∧
  (∀ v, EventRuns .firmwareUpdate (.firmwareUpdate v) True (firmwareUpdate v)) ∧
  (∀ d, EventRuns .firmwareActivation (.firmwareActivation d) (d < 4) (firmwareActivation d)) ∧
  (∀ d, EventRuns .thermalEvent (.thermalEvent d) (d < 4) (thermalEvent d)) ∧
  (∀ d, EventRuns .thermalReset (.thermalReset d) (d < 4) (thermalReset d)) ∧
  (∀ n, EventRuns .telemetryRead (.telemetryRead n) True (telemetryRead n)) ∧
  (∀ d off, EventRuns .counterReadClear (.counterReadClear d off) (d < 4) (counterReadClear d off)) ∧
  (∀ d off v, EventRuns .registerWrite (.registerWrite d off v) (d < 4) (registerWrite d off v)) ∧
  (∀ q, EventRuns .waitTimeClockReached (.waitTimeClockReached q) (q.die < 4 ∧ q.q < 32) (waitTimeClockReached q)) ∧
  (∀ d v, EventRuns .fqbaseWrite (.fqbaseWrite d v) (d < 4) (fqbaseWrite d v)) ∧
  (∀ d v, EventRuns .fqtailWrite (.fqtailWrite d v) (d < 4) (fqtailWrite d v)) ∧
  (∀ d, EventRuns .firmwareRestartEnd (.firmwareRestartEnd d) (d < 4) (firmwareRestartEnd d))

/-! ### Words: decoding and encoding -/

/-- R110 to R117: the decoder reads back every well-formed instruction from the word that the encoder writes for it, whatever its
operands. -/
def Obligations.RoundTrip : Prop := ∀ (i : Instr) (w : W96), i.wf = true → encode i = some w → decode w = .ok i

/-- R110 to R117: a word that decodes is the encoding of what it decodes to, which is well-formed; so no two words stand for one
instruction, and no bit of a word is dropped. -/
def Obligations.DecodedWordsEncode : Prop := ∀ (w : W96) (i : Instr), decode w = .ok i → encode i = some w ∧ i.wf = true

/-- R110 to R117, Table 4-3: words written out from the encodings of the spec, and the instructions they stand for: `nop`,
`iadd.s32 g1, g2, g3`, `movi.s32 g5, 7`, `icmp.lt.s32 p1, p7, g1, g2`, `ld` of four bytes at 8(g4) in the window, `exit`,
`trap 9`; and two words that are none. -/
def Obligations.WordsDecode : Prop :=
  decode 0x003FFFFE0000000000000000 = .ok (.nop ⟨0xFF, 7, 7, 7, 15, false⟩ ⟨.none0, .none0, .none0, .none0⟩) ∧
  decode 0x103FFFE00001000200000003 =
    .ok (.iadd ⟨0xFF, 7, 7, 7, 0, false⟩ ⟨.g 0 0 1, .g 0 0 2, .none0, .g 0 0 3⟩) ∧
  decode 0x147FFFE00005000000000007 = .ok (.movi ⟨0xFF, 7, 7, 7, 0, false⟩ ⟨.g 0 0 5, .none0, 7⟩) ∧
  decode 0x303FFFE080010001C8070002 =
    .ok (.icmp ⟨0xFF, 7, 7, 7, 0, false⟩ ⟨.f 0 0 1, .g 0 0 1, .i 0x0807, .g 0 0 2⟩) ∧
  decode 0x803FFFE00801000400A00008 =
    .ok (.ld ⟨0xFF, 7, 7, 7, 0, false⟩ ⟨.g 0 8 1, .g 0 0 4, 0, 0, 0, true, 2, 8⟩) ∧
  decode 0x023FFFE00000000000000000 = .ok (.exit ⟨0xFF, 7, 7, 7, 0, false⟩ ⟨.none0, .none0, .none0, .none0⟩) ∧
  decode 0xF03FFFE00000000000000009 = .ok (.trap ⟨0xFF, 7, 7, 7, 0, false⟩ ⟨.none0, .none0, 9⟩) ∧
  decode 0x003FFFE00000000100000000 = .error .reservedBit ∧ decode 0x0FFFFFE00000000000000000 = .error .unassigned

/-! ### Steps -/

/-- A step with an issue ahead whose lanes still stand at its address runs the instruction that the bytes there decode to: the step is
`exec` of it, with the issue current and off the list. An issue whose accesses have come to their home runs that event; with no issue
ahead, a step runs the event that is picked. -/
def Obligations.StepRunsDecoded : Prop := ∀ (s : State) (i : Issue) (rest : List Issue) (tm : Team) (ins : Instr),
  (s.issues = i :: rest → i.post = none → s.team? i.team = some tm → s.stillThere i ≠ 0 →
    decode (wordOfBytes (({ s with issues := rest } : State).fetchBytes { i with lanes := s.stillThere i } tm)) = .ok ins →
    step s = exec ins { s with issues := rest, cur := some { i with lanes := s.stillThere i } }) ∧
  (∀ a, s.issues = i :: rest → i.post = some a →
    step s = exec .memoryAccessPerform { s with issues := rest, cur := some i, ev := some (.memoryAccessPerform a) }) ∧
  (∀ e s', s.issues = [] → s.pickEvent = some (e, s') → step s = exec e.instr { s' with ev := some e })

/-- Every step answers: no step is refused, and the one fault is that of an event which names a unit that the package does not have.
Words never stop the machine: what an instruction cannot do is a trap (R420). -/
def Obligations.StepsAnswer : Prop := ∀ s : State, SafeStep s

/-- R111, R145: where no lane's guard is true, no effect is made: the lanes only go on to the next instruction. It holds of every
word. -/
def Obligations.SuppressedLanesPass : Prop := ∀ (i : Instr) (v : View), viewOf i = some v → ∀ s iss tm, Ready s iss tm v →
  issueE iss tm v = 0 → ∃ t, exec i s = .next t ∧ GoesOn (begun s iss v) t iss tm v

/-- R117, R421: a word that is no instruction has no effect but the trap of kind 0x04 in the lanes whose guard is true, with the failing
check in DETAIL0. -/
def Obligations.BadWordTraps : Prop := ∀ (s : State) (i : Issue) (rest : List Issue) (tm : Team) (w : W96) (r : Reject),
  s.issues = i :: rest → i.post = none → s.team? i.team = some tm → s.stillThere i ≠ 0 →
  w = wordOfBytes (({ s with issues := rest } : State).fetchBytes { i with lanes := s.stillThere i } tm) →
  decode w = .error r → ¬(clsOf w = 15 ∧ opnOf w ≥ 56) →
  (∀ l, (s.stillThere i).getLsbD l = true → guardViolation tm (hdrOf w) l = none) →
  let j : Issue := { i with lanes := s.stillThere i }
  let v : View := ⟨clsOf w, opnOf w, hdrOf w, .none0, .none0, .imm 0⟩
  ∃ t0, GoesTo { s with issues := rest, cur := none } t0 j tm v (fun _ => none) ∧
    step s = .next (t0.raise j.team j.pc (envOf j tm v).key
      ((envOf j tm v).lanes.map fun l => (l, .simple 0x04 (checkDetail r.check))))

/-- Check 2 of Table 4-9: a firmware instruction on any other core has no effect but the privilege trap of kind 0x05 in the lanes whose
guard is true. -/
def Obligations.FirmwareWordsAreReserved : Prop := ∀ (i : Instr) (v : View), viewOf i = some v → v.cls = 15 → 56 ≤ v.opn →
  ∀ s iss tm, s.cur = some iss → s.team? iss.team = some tm → (s.die iss.team.die).fwcore ≠ iss.team.core →
  (∀ l, iss.lanes.getLsbD l = true → guardViolation tm v.h l = none) →
  ∃ t0, GoesTo (begun s iss v) t0 iss tm v (fun _ => none) ∧
    exec i s = .next (afterRaise t0 (envOf iss tm v) ((envOf iss tm v).lanes.map fun l => (l, .simple 0x05)))

/-- R145 step 4: where every lane whose guard is true names a register that an instruction of an open window writes, the instruction
has no effect but the lookahead trap of kind 0x03, with the register and that instruction's address. -/
def Obligations.LookaheadViolationTraps : Prop := ∀ (i : Instr) (v : View), viewOf i = some v → ∀ s iss tm (p : Nat → RegName × Addr),
  s.cur = some iss → s.team? iss.team = some tm → issueCheck s iss.team v (s.regsOf tm) = none →
  (∀ l, iss.lanes.getLsbD l = true → guardViolation tm v.h l = none) →
  (∀ l, (issueE iss tm v).getLsbD l = true → operandViolation (envOf iss tm v) l = some (p l)) →
  ∃ t0, GoesTo (begun s iss v) t0 iss tm v (fun _ => none) ∧
    exec i s = .next (afterRaise t0 (envOf iss tm v) ((envOf iss tm v).lanes.map fun l => (l, violationInfo (p l))))

/-! ### Traps and their return -/

/-- R420 to R424: taking a trap. The lanes park with PSV set and their windows closed, at the instruction, or past it for kind 0x21
(`trap`); for `sysc` they wait for the reply (R435); their registers stay. The k results that they await are written, and those of other
lanes stay pending (R146, R155). A record of
kind, place, lanes and details goes to the die, to be written at the end of the cycle. Nothing else changes. -/
def Obligations.TrapEntry : Prop := ∀ (s : State) (t : TeamRef) (m : Lanes) (pc : Addr) (i : TrapInfo) (key : Nat) (tm : Team),
  s.team? t = some tm → t.die < s.dies.length →
  let s' := s.trap t m pc i key
  let at_ : Addr := if i.kind = 0x21 then nextPc pc else pc
  s' = { s with teams := s'.teams, dies := s'.dies, eoc := s'.eoc } ∧ Event.faultRecordWrite t.die ∈ s'.eoc ∧
  (∀ q, q ≠ t → s'.team? q = s.team? q) ∧
  (∃ tm', s'.team? t = some tm' ∧ tm' = { tm.flushLanes m with lanes := tm'.lanes } ∧
    (∀ e ∈ tm.kpend, e.lanes &&& m = 0 → e ∈ tm'.kpend) ∧ (∀ e ∈ tm'.kpend, e ∈ tm.kpend ∧ e.lanes &&& m = 0) ∧
    (∀ l y, tm.lanes[l]? = some y → m.getLsbD l = false → tm'.lanes[l]? = some y) ∧
    (∀ l y, tm.lanes[l]? = some y → m.getLsbD l = true → ∃ y', tm'.lanes[l]? = some y' ∧
      y' = { y with st := y'.st, wait := y'.wait, pc := at_, win := [], psv := true, pserial := 0, wakeAt := none } ∧
      (i.kind ≠ 0x23 → y'.st = .parked) ∧ (i.kind = 0x23 → y'.st = .op ∧ y'.wait = .sysc))) ∧
  (∃ r, s'.die t.die = { s.die t.die with newRecs := (s.die t.die).newRecs ++ [r] } ∧ r.kind = i.kind ∧ r.pc = at_ ∧ r.lanes = m ∧
    r.core = t.core ∧ r.slot = t.slot ∧ r.ctx = tm.grp.ctx ∧ r.grank = tm.grp.rank ∧ r.time = s.clock ∧ r.d0 = i.d0 ∧ r.d1 = i.d1 ∧
    r.d2 = i.d2 ∧ r.d3 = i.d3 ∧ r.d4 = i.d4)

/-- R426, R439: a lane that returns from a trap has no trap pending and no window open, keeps its registers and its address, and runs from
the next cycle on, unless its record says that it waits. -/
def Obligations.TrapReturn : Prop := ∀ (clock : Nat) (l : Lane),
  let y := resumedLane clock l
  y = { l with psv := false, pserial := 0, win := [], wakeAt := none, st := y.st, wait := y.wait, hold := y.hold } ∧
  ((y.st = .runnable ∧ y.wait = .none ∧ clock < y.hold) ∨ (y.st = .op ∧ y.wait = l.wait ∧ y.hold = l.hold)) ∧
  ((∀ n, l.wait ≠ .sleep n) → (∀ b g, l.wait ≠ .bar b g) → l.wait ≠ .sysc → y.st = .runnable)

/-! ### Reset -/

/-- R450, R453, R456 and the reset columns of the register tables: after reset the clock is 0, no team, group, context, plan or pipe is
there, the four dies are up with all their links, no record waits and no line is cached, and the registers read the reset values of Tables
2-1, 2-2, 3-1, 9-10 and 13-9. Memory and scratchpad stand in canonical form. (That die boot leaves core 0 as firmware core, and what
unwritten memory reads as, are the model's: log entries 7 and 2.) -/
def Obligations.ResetState : Prop :=
  State.reset.clock = 0 ∧ State.reset.teams = [] ∧ State.reset.groups = [] ∧ State.reset.ctxs = [] ∧ State.reset.plans = [] ∧
  State.reset.pipes = [] ∧ State.reset.irqs = [] ∧ State.reset.dies.length = 4 ∧
  (∀ d ∈ State.reset.dies, d.up = true ∧ d.links = 15 ∧ d.fifo = [] ∧ d.newRecs = [] ∧ d.l2 = [] ∧ d.rdc = [] ∧ d.ords = [] ∧ d.repl = []) ∧
  (∀ d < 4, ∀ q < 32, State.reset.fld d (0x1000 + 64 * q) 55 48 = 10) ∧
  (∀ d < 4, State.reset.reg d 0x008 = 1 ∧ State.reset.reg d 0x828 = 4096 ∧ State.reset.reg d 0xA00 = 0x600 ∧
    State.reset.reg d 0xE20 = 1000 ∧ State.reset.fld d 0x4000 55 48 = 8) ∧
  State.reset.memOk = true

/-! ### Registers, addresses and memory -/

/-- R9, R114, R154: a value written to `r` g registers reads back from them, the first least significant, and every other register of the
lane stays. -/
def Obligations.RegisterRules : Prop := ∀ (y : Lane) (n r v m : Nat),
  (n + r ≤ y.g.length → (y.wgs n r v).rgs n r = v % 2 ^ (32 * r)) ∧
  (m < n ∨ n + r ≤ m → (y.wgs n r v).rg m = y.rg m) ∧ (y.wgs n r v = { y with g := (y.wgs n r v).g }) ∧
  (y.wgs n r v).g.length = y.g.length

/-- R94, R96: instruction addresses. The successor of a valid address is the next word of its 64-byte line, or the first of the next line;
a relative target counts words from there; both are valid. -/
def Obligations.AddressRules : Prop := ∀ (a : Addr), validAddr a.toNat = true →
  ixOf a = a.toNat / 64 * 5 + a.toNat % 64 / 12 ∧ (∀ i, (addrOf i).toNat = i / 5 % 2 ^ 42 * 64 + 12 * (i % 5)) ∧
  nextPc a = addrOf (ixOf a + 1) ∧ (∀ d : BitVec 32, ((ixOf a : Int) + 1 + d.toInt) % (5 * 2 ^ 42 : Int) = (ixOf (relPc a d) : Int)) ∧
  addrOf (ixOf a) = a ∧ validAddr (nextPc a).toNat = true ∧ (∀ d, validAddr (relPc a d).toNat = true) ∧ relPc a 0 = nextPc a ∧
  relPc a (-1) = a ∧ (a.toNat % 64 < 48 → nextPc a = a + 12) ∧ (a.toNat % 64 = 48 → nextPc a = a + 16)

/-- R6: a value of `n` bytes written to memory or scratchpad reads back from there, least significant byte first; every byte outside stays;
the canonical form is kept. -/
def Obligations.MemoryRules : Prop := ∀ (s : State) (pa n v a : Nat) (bs : List Byte), s.memOk = true →
  (s.memWrite pa n v).memVal pa n = v % 2 ^ (8 * n) ∧ (∀ i < n, (cellGet (s.memWrite pa n v).mem (pa + i)).toNat = v / 2 ^ (8 * i) % 256) ∧
  (s.scrPut pa bs).scrBytes pa bs.length = bs ∧
  (a < pa ∨ pa + n ≤ a → cellGet (s.memWrite pa n v).mem a = cellGet s.mem a) ∧
  (a < pa ∨ pa + bs.length ≤ a → cellGet (s.scrPut pa bs).scratch a = cellGet s.scratch a) ∧
  (s.memWrite pa n v).memOk = true ∧ (s.scrPut pa bs).memOk = true ∧
  (s.memWrite pa n v = { s with mem := (s.memWrite pa n v).mem })

/-- R247 to R250, R188, R253, R254: a store or an atomic changes no byte of memory or of the scratchpad outside the bytes that its lanes'
checks name, whether or not some of its lanes trap; `st`, `stc` and `red` change no register, `atom` and `cas` their destination alone. A load
changes no byte at all, and no register but its destination. -/
def Obligations.AccessFrames : Prop := ∀ (h : Hdr) (o : MemForm),
  StoresOnly (.st h o) (o.view 8 1 h) 2 (o.view 8 1 h).plain false Env.eas false false ∧
  StoresOnly (.stc h o) (o.view 8 3 h) 2 (o.view 8 3 h).plain false Env.runAddrs false true ∧
  StoresOnly (.atom h o) (o.view 9 0 h) 3 false true Env.eas true false ∧
  StoresOnly (.red h o) (o.view 9 1 h) 3 false true Env.eas false false ∧
  StoresOnly (.cas h o) (o.view 9 2 h) 3 false true Env.eas true false ∧
  LoadsOnly (.ld h o) (o.view 8 0 h) (o.view 8 0 h).ty.regs ∧ LoadsOnly (.ldk h o) (o.view 8 2 h) 2 ∧
  LoadsOnly (.lde h o) (o.view 8 4 h) (o.view 8 4 h).ty.regs ∧ LoadsOnly (.kld h o) (o.view 4 8 h) (o.view 4 8 h).ty.regs

/-- R225, R227, R245, R247: `st` and `ld` on the scratchpad. Where every lane's bytes lie in the group's window, aligned, and no race is
found, a store leaves its value in the bytes (the highest lane's where lanes overlap), and a load writes D with the bytes extended to the
type; nothing else of memory, scratchpad or registers changes. -/
def Obligations.ScratchpadAccess : Prop := ∀ (h : Hdr) (o : MemForm) (s : State) (iss : Issue) (tm : Team) (g : Group), o.space = true →
  s.memOk = true → s.group? tm.grp = some g →
  (Ready s iss tm (o.view 8 1 h) → InWindow s (envOf iss tm (o.view 8 1 h)) g 2 → ∃ t, exec (.st h o) s = .next t ∧ t.mem = s.mem ∧
    (∀ a, (∀ l ∈ (envOf iss tm (o.view 8 1 h)).lanes, a < (envOf iss tm (o.view 8 1 h)).scrAddr g l ∨
      (envOf iss tm (o.view 8 1 h)).scrAddr g l + 2 ^ o.size.toNat ≤ a) → cellGet t.scratch a = cellGet s.scratch a) ∧
    (∀ l ∈ (envOf iss tm (o.view 8 1 h)).lanes, (∀ k ∈ (envOf iss tm (o.view 8 1 h)).lanes, l < k →
      overlap ((envOf iss tm (o.view 8 1 h)).scrAddr g l) (2 ^ o.size.toNat) ((envOf iss tm (o.view 8 1 h)).scrAddr g k)
        (2 ^ o.size.toNat) = false) →
      cellsGet t.scratch ((envOf iss tm (o.view 8 1 h)).scrAddr g l) (2 ^ o.size.toNat) =
        leBytes (2 ^ o.size.toNat) ((envOf iss tm (o.view 8 1 h)).dsrc l (8 * 2 ^ o.size.toNat)))) ∧
  (Ready s iss tm (o.view 8 0 h) → InWindow s (envOf iss tm (o.view 8 0 h)) g 1 → ∃ t tm', exec (.ld h o) s = .next t ∧ t.mem = s.mem ∧
    t.scratch = s.scratch ∧ t.team? iss.team = some tm' ∧
    ∀ l ∈ (envOf iss tm (o.view 8 0 h)).lanes, ∀ y, tm.lanes[l]? = some y → ∃ y', tm'.lanes[l]? = some y' ∧ y'.p = y.p ∧
      y'.pc = nextPc iss.pc ∧ y'.g = (writeG o.d (o.view 8 0 h).ty.regs (extendVal (o.view 8 0 h).ty
        (leVal (cellsGet s.scratch ((envOf iss tm (o.view 8 0 h)).scrAddr g l) (2 ^ o.size.toNat)))) y).g)

/-- The instructions of classes 1 to 7 (but `kld`) act on their own team, and on nothing beyond it but the units they occupy: memory,
scratchpad, pipes, groups, barriers, contexts and every other team stay as they are, whatever their lanes do, traps included, of which only the
record, its counters and its writing at the end of the cycle stand outside the team. -/
def Obligations.RegisterWordsFrame : Prop := ∀ (i : Instr) (v : View), viewOf i = some v → 1 ≤ v.cls → v.cls ≤ 7 →
  ¬(v.cls = 4 ∧ v.opn = 8) → ∀ s t iss, s.cur = some iss → exec i s = .next t →
    t = { s with cur := none, teams := t.teams, cores := t.cores, dies := t.dies, hw := t.hw, eoc := t.eoc, agenda := t.agenda } ∧
    (∀ q, q ≠ iss.team → t.team? q = s.team? q) ∧
    (∀ d, t.die d = { s.die d with newRecs := (t.die d).newRecs }) ∧
    (∀ d c, t.core d c = { s.core d c with
      longTo := (t.core d c).longTo, crossTo := (t.core d c).crossTo, issTo := (t.core d c).issTo })

/-- Memory and scratchpad keep their canonical form in every step, whatever instruction or event it runs. -/
def Obligations.MemoryStaysCanonical : Prop := ∀ s t : State, s.memOk = true → step s = .next t → t.memOk = true

/-! ### Order -/

/-- R340, R341: a release takes a stamp above the lane's horizon and above every stamp of its die before it; an acquire raises the horizon to
the stamp. R344: a plain access races with another thread's access of the same bytes, a read only with a write, whose stamp the lane has not
acquired. -/
def Obligations.StampAndRaceRules : Prop :=
  (∀ (s : State) (d h : Nat), d < s.dies.length → h < (s.release d h).1 ∧ (s.die d).c < (s.release d h).1 ∧
    ((s.release d h).2.die d).c = (s.release d h).1 ∧ (∀ e, e ≠ d → (s.release d h).2.die e = s.die e) ∧
    (s.release d h).2 = { s with dies := (s.release d h).2.dies }) ∧
  (∀ (l : Lane) (st : Nat), (l.acquire st).horizon = max l.horizon st) ∧
  (∀ (r : Race) (key : BitVec 31) (m : W32) (write : Bool) (hz : Nat), (r.conflict key m write hz).isSome = true →
    (∃ k st b, r.w = some (k, st, b) ∧ k ≠ key ∧ b &&& m ≠ 0 ∧ hz < st) ∨
    (write = true ∧ ∃ k st b, r.r = some (k, st, b) ∧ k ≠ key ∧ b &&& m ≠ 0 ∧ hz < st)) ∧
  (∀ (r : Race) (key : BitVec 31) (m : W32) (write : Bool) (hz : Nat), (∃ k st b, r.w = some (k, st, b) ∧ k ≠ key ∧ b &&& m ≠ 0 ∧ hz < st) →
    (r.conflict key m write hz).isSome = true)

/-- R350, R357: at the end of a cycle a barrier advances at most once: its generation grows by one or stays. Arrivals short of the expected
count leave that many fewer to come; the last one advances it, with the count filled again and the releases of the arrivals in DONE. A
generation has passed once GEN is beyond it. R353: a counter's value moves over the numbers that have completed, in order. -/
def Obligations.BarrierAndTimelineRules : Prop :=
  (∀ b : Bar, b.endCycle.1.gen = if b.endCycle.2 then b.gen + 1 else b.gen) ∧
  (∀ b : Bar, b.mems = [] → b.counts = [] → b.bytes = 0 → b.pend = none → b.carry = 0 → b.arrs ≠ [] → b.arrs.length < b.arr →
    b.endCycle.2 = false ∧ b.endCycle.1.arr = b.arr - b.arrs.length ∧ b.endCycle.1.done = b.done) ∧
  (∀ b : Bar, b.mems = [] → b.counts = [] → b.bytes = 0 → b.pend = none → b.carry = 0 → b.arrs ≠ [] → b.arrs.length = b.arr →
    b.endCycle.2 = true ∧ b.endCycle.1.arr = b.expect ∧ ∀ a ∈ b.arrs, a.2 ≤ b.endCycle.1.done) ∧
  (∀ x : W16, genPassed x x = false ∧ genPassed (x + 1) x = true ∧ genPassed x (x + 1) = false) ∧
  (∀ (t : Timeline) (n : W64) (st : Nat), n = t.v + 1 → (∀ d ∈ t.done, d.1 ≠ t.v + 1 ∧ d.1 ≠ t.v + 2) →
    (t.complete n st).v = t.v + 1 ∧ st ≤ (t.complete n st).stamp) ∧
  (∀ (t : Timeline) (n : W64) (st : Nat), n ≠ t.v + 1 → (∀ d ∈ t.done, d.1 ≠ t.v + 1) →
    (t.complete n st).v = t.v ∧ (n, st) ∈ (t.complete n st).done)
end

