-- ==== Sys2Proof/Laws/Encode.lean ====
section
/-! SUPPORT. The fields of a joined word are the fields it was made of. -/

namespace Sys2Proof

open Machine

/-- The upper part of an append. -/
theorem extract_hi {a b : Nat} (x : BitVec a) (y : BitVec b) (n k : Nat) (h : b ≤ n) :
    (x ++ y).extractLsb' n k = x.extractLsb' (n - b) k := by
  apply BitVec.eq_of_getLsbD_eq
  intro i hi
  simp only [BitVec.getLsbD_extractLsb', BitVec.getLsbD_append]
  have : ¬ n + i < b := by omega
  simp only [this, if_false, hi, decide_true, Bool.true_and]
  congr 1
  omega

/-- The lower part of an append. -/
theorem extract_lo {a b : Nat} (x : BitVec a) (y : BitVec b) (n k : Nat) (h : n + k ≤ b) :
    (x ++ y).extractLsb' n k = y.extractLsb' n k := by
  apply BitVec.eq_of_getLsbD_eq
  intro i hi
  simp only [BitVec.getLsbD_extractLsb', BitVec.getLsbD_append]
  have : n + i < b := by omega
  simp only [this, if_true]

theorem extract_all {a : Nat} (x : BitVec a) : x.extractLsb' 0 a = x := by
  apply BitVec.eq_of_getLsbD_eq
  intro i hi
  simp [hi]

theorem Opd.ofBits_toBits (o : Opd) : Opd.ofBits o.toBits = o := by
  cases o with
  | g m s n =>
    have h1 : (Opd.toBits (.g m s n)).extractLsb' 14 2 = 0#2 := by
      simp only [Opd.toBits]; rw [extract_hi, extract_hi, extract_hi, extract_all] <;> omega
    have h2 : (Opd.toBits (.g m s n)).extractLsb' 12 2 = m := by
      simp only [Opd.toBits]; rw [extract_hi, extract_hi, extract_lo, extract_all] <;> omega
    have h3 : (Opd.toBits (.g m s n)).extractLsb' 8 4 = s := by
      simp only [Opd.toBits]; rw [extract_hi, extract_lo, extract_all] <;> omega
    have h4 : (Opd.toBits (.g m s n)).extractLsb' 0 8 = n := by
      simp only [Opd.toBits]; rw [extract_lo, extract_all]; omega
    simp [Opd.ofBits, h1, h2, h3, h4]
  | k m s n =>
    have h1 : (Opd.toBits (.k m s n)).extractLsb' 14 2 = 1#2 := by
      simp only [Opd.toBits]; rw [extract_hi, extract_hi, extract_hi, extract_all] <;> omega
    have h2 : (Opd.toBits (.k m s n)).extractLsb' 12 2 = m := by
      simp only [Opd.toBits]; rw [extract_hi, extract_hi, extract_lo, extract_all] <;> omega
    have h3 : (Opd.toBits (.k m s n)).extractLsb' 8 4 = s := by
      simp only [Opd.toBits]; rw [extract_hi, extract_lo, extract_all] <;> omega
    have h4 : (Opd.toBits (.k m s n)).extractLsb' 0 8 = n := by
      simp only [Opd.toBits]; rw [extract_lo, extract_all]; omega
    simp [Opd.ofBits, h1, h2, h3, h4]
  | f m s n =>
    have h1 : (Opd.toBits (.f m s n)).extractLsb' 14 2 = 2#2 := by
      simp only [Opd.toBits]; rw [extract_hi, extract_hi, extract_hi, extract_all] <;> omega
    have h2 : (Opd.toBits (.f m s n)).extractLsb' 12 2 = m := by
      simp only [Opd.toBits]; rw [extract_hi, extract_hi, extract_lo, extract_all] <;> omega
    have h3 : (Opd.toBits (.f m s n)).extractLsb' 8 4 = s := by
      simp only [Opd.toBits]; rw [extract_hi, extract_lo, extract_all] <;> omega
    have h4 : (Opd.toBits (.f m s n)).extractLsb' 0 8 = n := by
      simp only [Opd.toBits]; rw [extract_lo, extract_all]; omega
    simp [Opd.ofBits, h1, h2, h3, h4]
  | i v =>
    have h1 : (Opd.toBits (.i v)).extractLsb' 14 2 = 3#2 := by
      simp only [Opd.toBits]; rw [extract_hi, extract_all]; omega
    have h2 : (Opd.toBits (.i v)).extractLsb' 0 14 = v := by
      simp only [Opd.toBits]; rw [extract_lo, extract_all]; omega
    simp [Opd.ofBits, h1, h2]

/-- The B field has the shape that the form of its operation gives it. -/
def bShape : BSpec → BField → Bool
  | .reg .., .reg .. => true
  | .imm, .imm _ => true
  | .mem .., .mem .. => true
  | _, _ => false

variable (v : View)

theorem join_cls : (joinWord v).extractLsb' 92 4 = BitVec.ofNat 4 v.cls := by
  simp only [joinWord]; iterate 10 rw [extract_hi _ _ _ _ (by omega)]
  exact extract_all _
theorem join_opn : (joinWord v).extractLsb' 86 6 = BitVec.ofNat 6 v.opn := by
  simp only [joinWord]; iterate 9 rw [extract_hi _ _ _ _ (by omega)]
  rw [extract_lo _ _ _ _ (by omega)]; exact extract_all _
theorem join_gtt : (joinWord v).extractLsb' 78 8 = v.h.gtt := by
  simp only [joinWord]; iterate 8 rw [extract_hi _ _ _ _ (by omega)]
  rw [extract_lo _ _ _ _ (by omega)]; exact extract_all _
theorem join_ga : (joinWord v).extractLsb' 75 3 = v.h.ga := by
  simp only [joinWord]; iterate 7 rw [extract_hi _ _ _ _ (by omega)]
  rw [extract_lo _ _ _ _ (by omega)]; exact extract_all _
theorem join_gb : (joinWord v).extractLsb' 72 3 = v.h.gb := by
  simp only [joinWord]; iterate 6 rw [extract_hi _ _ _ _ (by omega)]
  rw [extract_lo _ _ _ _ (by omega)]; exact extract_all _
theorem join_gc : (joinWord v).extractLsb' 69 3 = v.h.gc := by
  simp only [joinWord]; iterate 5 rw [extract_hi _ _ _ _ (by omega)]
  rw [extract_lo _ _ _ _ (by omega)]; exact extract_all _
theorem join_la : (joinWord v).extractLsb' 65 4 = v.h.la := by
  simp only [joinWord]; iterate 4 rw [extract_hi _ _ _ _ (by omega)]
  rw [extract_lo _ _ _ _ (by omega)]; exact extract_all _
theorem join_yld : (joinWord v).getLsbD 64 = v.h.yld := by
  have e : (joinWord v).extractLsb' 64 1 = BitVec.ofBool v.h.yld := by
    simp only [joinWord]; iterate 3 rw [extract_hi _ _ _ _ (by omega)]
    rw [extract_lo _ _ _ _ (by omega)]; exact extract_all _
  have e' := congrArg (fun x => x.getLsbD 0) e
  simpa using e'
theorem join_d : (joinWord v).extractLsb' 48 16 = v.d.toBits := by
  simp only [joinWord]; iterate 2 rw [extract_hi _ _ _ _ (by omega)]
  rw [extract_lo _ _ _ _ (by omega)]; exact extract_all _
theorem join_a : (joinWord v).extractLsb' 32 16 = v.a.toBits := by
  simp only [joinWord]; rw [extract_hi _ _ _ _ (by omega)]
  rw [extract_lo _ _ _ _ (by omega)]; exact extract_all _
theorem join_b (n k : Nat) (h : n + k ≤ 32) : (joinWord v).extractLsb' n k = (bBits v.b).extractLsb' n k := by
  simp only [joinWord]; rw [extract_lo _ _ _ _ h]

theorem bField_join (f : BSpec) (h : bShape f v.b = true) : bFieldOf f (joinWord v) = v.b := by
  obtain ⟨cls, opn, hd, d, a, b⟩ := v
  cases f <;> cases b <;> simp [bShape] at h
  · rename_i c b
    simp only [bFieldOf, join_b _ 16 16 (by omega), join_b _ 0 16 (by omega), bBits]
    rw [extract_hi _ _ _ _ (by omega), extract_lo _ _ _ _ (by omega), extract_all, extract_all, Opd.ofBits_toBits,
      Opd.ofBits_toBits]
  · simp only [bFieldOf, join_b _ 0 32 (by omega), bBits, extract_all]
  · rename_i ord scope evict space size off
    have hs : (joinWord ⟨cls, opn, hd, d, a, .mem ord scope evict space size off⟩).getLsbD 23 = space := by
      have e := join_b ⟨cls, opn, hd, d, a, .mem ord scope evict space size off⟩ 23 1 (by omega)
      have e2 : (bBits (.mem ord scope evict space size off)).extractLsb' 23 1 = BitVec.ofBool space := by
        simp only [bBits]; iterate 2 rw [extract_hi _ _ _ _ (by omega)]
        rw [extract_lo _ _ _ _ (by omega)]; exact extract_all _
      have e' := congrArg (fun x => x.getLsbD 0) (e.trans e2)
      simpa using e'
    simp only [bFieldOf, hs, join_b _ 30 2 (by omega), join_b _ 27 3 (by omega), join_b _ 24 3 (by omega),
      join_b _ 20 3 (by omega), join_b _ 0 20 (by omega), bBits]
    congr
    · iterate 5 rw [extract_hi _ _ _ _ (by omega)]
      exact extract_all _
    · iterate 4 rw [extract_hi _ _ _ _ (by omega)]
      rw [extract_lo _ _ _ _ (by omega)]; exact extract_all _
    · iterate 3 rw [extract_hi _ _ _ _ (by omega)]
      rw [extract_lo _ _ _ _ (by omega)]; exact extract_all _
    · rw [extract_hi _ _ _ _ (by omega), extract_lo _ _ _ _ (by omega)]; exact extract_all _
    · rw [extract_lo _ _ _ _ (by omega)]; exact extract_all _

/-- The fields of the word made of `v` are `v`. -/
theorem splitWord_joinWord (f : Form) (hc : v.cls < 16) (ho : v.opn < 64) (hf : formOf v.cls v.opn = some f)
    (hb : bShape f.b v.b = true) : splitWord (joinWord v) = some v := by
  have e1 : clsOf (joinWord v) = v.cls := by
    simp only [clsOf, join_cls, BitVec.toNat_ofNat]; omega
  have e2 : opnOf (joinWord v) = v.opn := by
    simp only [opnOf, join_opn, BitVec.toNat_ofNat]; omega
  simp only [splitWord, e1, e2, hf, Option.map_some, hdrOf, join_gtt, join_ga, join_gb, join_gc, join_la, join_yld, join_d,
    join_a, Opd.ofBits_toBits, bField_join v f.b hb]

end Sys2Proof
end

