-- ==== Sys2Proof/Laws/State.lean ====
section
/-! SUPPORT. What each update of the state leaves as it was: one lemma per field per update. -/

namespace Sys2Proof.Machine

@[simp] theorem State.modTeam_clock (s : State) (t : TeamRef) (f : Team → Team) : (s.modTeam t f).clock = s.clock := rfl
@[simp] theorem State.modTeam_mem (s : State) (t : TeamRef) (f : Team → Team) : (s.modTeam t f).mem = s.mem := rfl
@[simp] theorem State.modTeam_scratch (s : State) (t : TeamRef) (f : Team → Team) : (s.modTeam t f).scratch = s.scratch := rfl
@[simp] theorem State.modTeam_srace (s : State) (t : TeamRef) (f : Team → Team) : (s.modTeam t f).srace = s.srace := rfl
@[simp] theorem State.modTeam_rels (s : State) (t : TeamRef) (f : Team → Team) : (s.modTeam t f).rels = s.rels := rfl
@[simp] theorem State.modTeam_atoms (s : State) (t : TeamRef) (f : Team → Team) : (s.modTeam t f).atoms = s.atoms := rfl
@[simp] theorem State.modTeam_hw (s : State) (t : TeamRef) (f : Team → Team) : (s.modTeam t f).hw = s.hw := rfl
@[simp] theorem State.modTeam_lastRead (s : State) (t : TeamRef) (f : Team → Team) : (s.modTeam t f).lastRead = s.lastRead := rfl
@[simp] theorem State.modTeam_groups (s : State) (t : TeamRef) (f : Team → Team) : (s.modTeam t f).groups = s.groups := rfl
@[simp] theorem State.modTeam_bars (s : State) (t : TeamRef) (f : Team → Team) : (s.modTeam t f).bars = s.bars := rfl
@[simp] theorem State.modTeam_binds (s : State) (t : TeamRef) (f : Team → Team) : (s.modTeam t f).binds = s.binds := rfl
@[simp] theorem State.modTeam_cbars (s : State) (t : TeamRef) (f : Team → Team) : (s.modTeam t f).cbars = s.cbars := rfl
@[simp] theorem State.modTeam_ctxs (s : State) (t : TeamRef) (f : Team → Team) : (s.modTeam t f).ctxs = s.ctxs := rfl
@[simp] theorem State.modTeam_plans (s : State) (t : TeamRef) (f : Team → Team) : (s.modTeam t f).plans = s.plans := rfl
@[simp] theorem State.modTeam_pipes (s : State) (t : TeamRef) (f : Team → Team) : (s.modTeam t f).pipes = s.pipes := rfl
@[simp] theorem State.modTeam_dies (s : State) (t : TeamRef) (f : Team → Team) : (s.modTeam t f).dies = s.dies := rfl
@[simp] theorem State.modTeam_cores (s : State) (t : TeamRef) (f : Team → Team) : (s.modTeam t f).cores = s.cores := rfl
@[simp] theorem State.modTeam_clusters (s : State) (t : TeamRef) (f : Team → Team) : (s.modTeam t f).clusters = s.clusters := rfl
@[simp] theorem State.modTeam_engines (s : State) (t : TeamRef) (f : Team → Team) : (s.modTeam t f).engines = s.engines := rfl
@[simp] theorem State.modTeam_chans (s : State) (t : TeamRef) (f : Team → Team) : (s.modTeam t f).chans = s.chans := rfl
@[simp] theorem State.modTeam_fab (s : State) (t : TeamRef) (f : Team → Team) : (s.modTeam t f).fab = s.fab := rfl
@[simp] theorem State.modTeam_chunks (s : State) (t : TeamRef) (f : Team → Team) : (s.modTeam t f).chunks = s.chunks := rfl
@[simp] theorem State.modTeam_aways (s : State) (t : TeamRef) (f : Team → Team) : (s.modTeam t f).aways = s.aways := rfl
@[simp] theorem State.modTeam_svc (s : State) (t : TeamRef) (f : Team → Team) : (s.modTeam t f).svc = s.svc := rfl
@[simp] theorem State.modTeam_sections (s : State) (t : TeamRef) (f : Team → Team) : (s.modTeam t f).sections = s.sections := rfl
@[simp] theorem State.modTeam_irqs (s : State) (t : TeamRef) (f : Team → Team) : (s.modTeam t f).irqs = s.irqs := rfl
@[simp] theorem State.modTeam_fresh (s : State) (t : TeamRef) (f : Team → Team) : (s.modTeam t f).fresh = s.fresh := rfl
@[simp] theorem State.modTeam_agenda (s : State) (t : TeamRef) (f : Team → Team) : (s.modTeam t f).agenda = s.agenda := rfl
@[simp] theorem State.modTeam_eoc (s : State) (t : TeamRef) (f : Team → Team) : (s.modTeam t f).eoc = s.eoc := rfl
@[simp] theorem State.modTeam_inputs (s : State) (t : TeamRef) (f : Team → Team) : (s.modTeam t f).inputs = s.inputs := rfl
@[simp] theorem State.modTeam_acted (s : State) (t : TeamRef) (f : Team → Team) : (s.modTeam t f).acted = s.acted := rfl
@[simp] theorem State.modTeam_closing (s : State) (t : TeamRef) (f : Team → Team) : (s.modTeam t f).closing = s.closing := rfl
@[simp] theorem State.modTeam_watched (s : State) (t : TeamRef) (f : Team → Team) : (s.modTeam t f).watched = s.watched := rfl
@[simp] theorem State.modTeam_chosen (s : State) (t : TeamRef) (f : Team → Team) : (s.modTeam t f).chosen = s.chosen := rfl
@[simp] theorem State.modTeam_issues (s : State) (t : TeamRef) (f : Team → Team) : (s.modTeam t f).issues = s.issues := rfl
@[simp] theorem State.modTeam_parks (s : State) (t : TeamRef) (f : Team → Team) : (s.modTeam t f).parks = s.parks := rfl
@[simp] theorem State.modTeam_cur (s : State) (t : TeamRef) (f : Team → Team) : (s.modTeam t f).cur = s.cur := rfl
@[simp] theorem State.modTeam_ev (s : State) (t : TeamRef) (f : Team → Team) : (s.modTeam t f).ev = s.ev := rfl

@[simp] theorem State.modLane_clock (s : State) (t : TeamRef) (l : Nat) (f : Lane → Lane) : (s.modLane t l f).clock = s.clock := rfl
@[simp] theorem State.modLane_mem (s : State) (t : TeamRef) (l : Nat) (f : Lane → Lane) : (s.modLane t l f).mem = s.mem := rfl
@[simp] theorem State.modLane_scratch (s : State) (t : TeamRef) (l : Nat) (f : Lane → Lane) : (s.modLane t l f).scratch = s.scratch := rfl
@[simp] theorem State.modLane_srace (s : State) (t : TeamRef) (l : Nat) (f : Lane → Lane) : (s.modLane t l f).srace = s.srace := rfl
@[simp] theorem State.modLane_rels (s : State) (t : TeamRef) (l : Nat) (f : Lane → Lane) : (s.modLane t l f).rels = s.rels := rfl
@[simp] theorem State.modLane_atoms (s : State) (t : TeamRef) (l : Nat) (f : Lane → Lane) : (s.modLane t l f).atoms = s.atoms := rfl
@[simp] theorem State.modLane_hw (s : State) (t : TeamRef) (l : Nat) (f : Lane → Lane) : (s.modLane t l f).hw = s.hw := rfl
@[simp] theorem State.modLane_lastRead (s : State) (t : TeamRef) (l : Nat) (f : Lane → Lane) : (s.modLane t l f).lastRead = s.lastRead := rfl
@[simp] theorem State.modLane_groups (s : State) (t : TeamRef) (l : Nat) (f : Lane → Lane) : (s.modLane t l f).groups = s.groups := rfl
@[simp] theorem State.modLane_bars (s : State) (t : TeamRef) (l : Nat) (f : Lane → Lane) : (s.modLane t l f).bars = s.bars := rfl
@[simp] theorem State.modLane_binds (s : State) (t : TeamRef) (l : Nat) (f : Lane → Lane) : (s.modLane t l f).binds = s.binds := rfl
@[simp] theorem State.modLane_cbars (s : State) (t : TeamRef) (l : Nat) (f : Lane → Lane) : (s.modLane t l f).cbars = s.cbars := rfl
@[simp] theorem State.modLane_ctxs (s : State) (t : TeamRef) (l : Nat) (f : Lane → Lane) : (s.modLane t l f).ctxs = s.ctxs := rfl
@[simp] theorem State.modLane_plans (s : State) (t : TeamRef) (l : Nat) (f : Lane → Lane) : (s.modLane t l f).plans = s.plans := rfl
@[simp] theorem State.modLane_pipes (s : State) (t : TeamRef) (l : Nat) (f : Lane → Lane) : (s.modLane t l f).pipes = s.pipes := rfl
@[simp] theorem State.modLane_dies (s : State) (t : TeamRef) (l : Nat) (f : Lane → Lane) : (s.modLane t l f).dies = s.dies := rfl
@[simp] theorem State.modLane_cores (s : State) (t : TeamRef) (l : Nat) (f : Lane → Lane) : (s.modLane t l f).cores = s.cores := rfl
@[simp] theorem State.modLane_clusters (s : State) (t : TeamRef) (l : Nat) (f : Lane → Lane) : (s.modLane t l f).clusters = s.clusters := rfl
@[simp] theorem State.modLane_engines (s : State) (t : TeamRef) (l : Nat) (f : Lane → Lane) : (s.modLane t l f).engines = s.engines := rfl
@[simp] theorem State.modLane_chans (s : State) (t : TeamRef) (l : Nat) (f : Lane → Lane) : (s.modLane t l f).chans = s.chans := rfl
@[simp] theorem State.modLane_fab (s : State) (t : TeamRef) (l : Nat) (f : Lane → Lane) : (s.modLane t l f).fab = s.fab := rfl
@[simp] theorem State.modLane_chunks (s : State) (t : TeamRef) (l : Nat) (f : Lane → Lane) : (s.modLane t l f).chunks = s.chunks := rfl
@[simp] theorem State.modLane_aways (s : State) (t : TeamRef) (l : Nat) (f : Lane → Lane) : (s.modLane t l f).aways = s.aways := rfl
@[simp] theorem State.modLane_svc (s : State) (t : TeamRef) (l : Nat) (f : Lane → Lane) : (s.modLane t l f).svc = s.svc := rfl
@[simp] theorem State.modLane_sections (s : State) (t : TeamRef) (l : Nat) (f : Lane → Lane) : (s.modLane t l f).sections = s.sections := rfl
@[simp] theorem State.modLane_irqs (s : State) (t : TeamRef) (l : Nat) (f : Lane → Lane) : (s.modLane t l f).irqs = s.irqs := rfl
@[simp] theorem State.modLane_fresh (s : State) (t : TeamRef) (l : Nat) (f : Lane → Lane) : (s.modLane t l f).fresh = s.fresh := rfl
@[simp] theorem State.modLane_agenda (s : State) (t : TeamRef) (l : Nat) (f : Lane → Lane) : (s.modLane t l f).agenda = s.agenda := rfl
@[simp] theorem State.modLane_eoc (s : State) (t : TeamRef) (l : Nat) (f : Lane → Lane) : (s.modLane t l f).eoc = s.eoc := rfl
@[simp] theorem State.modLane_inputs (s : State) (t : TeamRef) (l : Nat) (f : Lane → Lane) : (s.modLane t l f).inputs = s.inputs := rfl
@[simp] theorem State.modLane_acted (s : State) (t : TeamRef) (l : Nat) (f : Lane → Lane) : (s.modLane t l f).acted = s.acted := rfl
@[simp] theorem State.modLane_closing (s : State) (t : TeamRef) (l : Nat) (f : Lane → Lane) : (s.modLane t l f).closing = s.closing := rfl
@[simp] theorem State.modLane_watched (s : State) (t : TeamRef) (l : Nat) (f : Lane → Lane) : (s.modLane t l f).watched = s.watched := rfl
@[simp] theorem State.modLane_chosen (s : State) (t : TeamRef) (l : Nat) (f : Lane → Lane) : (s.modLane t l f).chosen = s.chosen := rfl
@[simp] theorem State.modLane_issues (s : State) (t : TeamRef) (l : Nat) (f : Lane → Lane) : (s.modLane t l f).issues = s.issues := rfl
@[simp] theorem State.modLane_parks (s : State) (t : TeamRef) (l : Nat) (f : Lane → Lane) : (s.modLane t l f).parks = s.parks := rfl
@[simp] theorem State.modLane_cur (s : State) (t : TeamRef) (l : Nat) (f : Lane → Lane) : (s.modLane t l f).cur = s.cur := rfl
@[simp] theorem State.modLane_ev (s : State) (t : TeamRef) (l : Nat) (f : Lane → Lane) : (s.modLane t l f).ev = s.ev := rfl

@[simp] theorem State.modLanes_clock (s : State) (t : TeamRef) (m : Lanes) (f : Nat → Lane → Lane) : (s.modLanes t m f).clock = s.clock := rfl
@[simp] theorem State.modLanes_mem (s : State) (t : TeamRef) (m : Lanes) (f : Nat → Lane → Lane) : (s.modLanes t m f).mem = s.mem := rfl
@[simp] theorem State.modLanes_scratch (s : State) (t : TeamRef) (m : Lanes) (f : Nat → Lane → Lane) : (s.modLanes t m f).scratch = s.scratch := rfl
@[simp] theorem State.modLanes_srace (s : State) (t : TeamRef) (m : Lanes) (f : Nat → Lane → Lane) : (s.modLanes t m f).srace = s.srace := rfl
@[simp] theorem State.modLanes_rels (s : State) (t : TeamRef) (m : Lanes) (f : Nat → Lane → Lane) : (s.modLanes t m f).rels = s.rels := rfl
@[simp] theorem State.modLanes_atoms (s : State) (t : TeamRef) (m : Lanes) (f : Nat → Lane → Lane) : (s.modLanes t m f).atoms = s.atoms := rfl
@[simp] theorem State.modLanes_hw (s : State) (t : TeamRef) (m : Lanes) (f : Nat → Lane → Lane) : (s.modLanes t m f).hw = s.hw := rfl
@[simp] theorem State.modLanes_lastRead (s : State) (t : TeamRef) (m : Lanes) (f : Nat → Lane → Lane) : (s.modLanes t m f).lastRead = s.lastRead := rfl
@[simp] theorem State.modLanes_groups (s : State) (t : TeamRef) (m : Lanes) (f : Nat → Lane → Lane) : (s.modLanes t m f).groups = s.groups := rfl
@[simp] theorem State.modLanes_bars (s : State) (t : TeamRef) (m : Lanes) (f : Nat → Lane → Lane) : (s.modLanes t m f).bars = s.bars := rfl
@[simp] theorem State.modLanes_binds (s : State) (t : TeamRef) (m : Lanes) (f : Nat → Lane → Lane) : (s.modLanes t m f).binds = s.binds := rfl
@[simp] theorem State.modLanes_cbars (s : State) (t : TeamRef) (m : Lanes) (f : Nat → Lane → Lane) : (s.modLanes t m f).cbars = s.cbars := rfl
@[simp] theorem State.modLanes_ctxs (s : State) (t : TeamRef) (m : Lanes) (f : Nat → Lane → Lane) : (s.modLanes t m f).ctxs = s.ctxs := rfl
@[simp] theorem State.modLanes_plans (s : State) (t : TeamRef) (m : Lanes) (f : Nat → Lane → Lane) : (s.modLanes t m f).plans = s.plans := rfl
@[simp] theorem State.modLanes_pipes (s : State) (t : TeamRef) (m : Lanes) (f : Nat → Lane → Lane) : (s.modLanes t m f).pipes = s.pipes := rfl
@[simp] theorem State.modLanes_dies (s : State) (t : TeamRef) (m : Lanes) (f : Nat → Lane → Lane) : (s.modLanes t m f).dies = s.dies := rfl
@[simp] theorem State.modLanes_cores (s : State) (t : TeamRef) (m : Lanes) (f : Nat → Lane → Lane) : (s.modLanes t m f).cores = s.cores := rfl
@[simp] theorem State.modLanes_clusters (s : State) (t : TeamRef) (m : Lanes) (f : Nat → Lane → Lane) : (s.modLanes t m f).clusters = s.clusters := rfl
@[simp] theorem State.modLanes_engines (s : State) (t : TeamRef) (m : Lanes) (f : Nat → Lane → Lane) : (s.modLanes t m f).engines = s.engines := rfl
@[simp] theorem State.modLanes_chans (s : State) (t : TeamRef) (m : Lanes) (f : Nat → Lane → Lane) : (s.modLanes t m f).chans = s.chans := rfl
@[simp] theorem State.modLanes_fab (s : State) (t : TeamRef) (m : Lanes) (f : Nat → Lane → Lane) : (s.modLanes t m f).fab = s.fab := rfl
@[simp] theorem State.modLanes_chunks (s : State) (t : TeamRef) (m : Lanes) (f : Nat → Lane → Lane) : (s.modLanes t m f).chunks = s.chunks := rfl
@[simp] theorem State.modLanes_aways (s : State) (t : TeamRef) (m : Lanes) (f : Nat → Lane → Lane) : (s.modLanes t m f).aways = s.aways := rfl
@[simp] theorem State.modLanes_svc (s : State) (t : TeamRef) (m : Lanes) (f : Nat → Lane → Lane) : (s.modLanes t m f).svc = s.svc := rfl
@[simp] theorem State.modLanes_sections (s : State) (t : TeamRef) (m : Lanes) (f : Nat → Lane → Lane) : (s.modLanes t m f).sections = s.sections := rfl
@[simp] theorem State.modLanes_irqs (s : State) (t : TeamRef) (m : Lanes) (f : Nat → Lane → Lane) : (s.modLanes t m f).irqs = s.irqs := rfl
@[simp] theorem State.modLanes_fresh (s : State) (t : TeamRef) (m : Lanes) (f : Nat → Lane → Lane) : (s.modLanes t m f).fresh = s.fresh := rfl
@[simp] theorem State.modLanes_agenda (s : State) (t : TeamRef) (m : Lanes) (f : Nat → Lane → Lane) : (s.modLanes t m f).agenda = s.agenda := rfl
@[simp] theorem State.modLanes_eoc (s : State) (t : TeamRef) (m : Lanes) (f : Nat → Lane → Lane) : (s.modLanes t m f).eoc = s.eoc := rfl
@[simp] theorem State.modLanes_inputs (s : State) (t : TeamRef) (m : Lanes) (f : Nat → Lane → Lane) : (s.modLanes t m f).inputs = s.inputs := rfl
@[simp] theorem State.modLanes_acted (s : State) (t : TeamRef) (m : Lanes) (f : Nat → Lane → Lane) : (s.modLanes t m f).acted = s.acted := rfl
@[simp] theorem State.modLanes_closing (s : State) (t : TeamRef) (m : Lanes) (f : Nat → Lane → Lane) : (s.modLanes t m f).closing = s.closing := rfl
@[simp] theorem State.modLanes_watched (s : State) (t : TeamRef) (m : Lanes) (f : Nat → Lane → Lane) : (s.modLanes t m f).watched = s.watched := rfl
@[simp] theorem State.modLanes_chosen (s : State) (t : TeamRef) (m : Lanes) (f : Nat → Lane → Lane) : (s.modLanes t m f).chosen = s.chosen := rfl
@[simp] theorem State.modLanes_issues (s : State) (t : TeamRef) (m : Lanes) (f : Nat → Lane → Lane) : (s.modLanes t m f).issues = s.issues := rfl
@[simp] theorem State.modLanes_parks (s : State) (t : TeamRef) (m : Lanes) (f : Nat → Lane → Lane) : (s.modLanes t m f).parks = s.parks := rfl
@[simp] theorem State.modLanes_cur (s : State) (t : TeamRef) (m : Lanes) (f : Nat → Lane → Lane) : (s.modLanes t m f).cur = s.cur := rfl
@[simp] theorem State.modLanes_ev (s : State) (t : TeamRef) (m : Lanes) (f : Nat → Lane → Lane) : (s.modLanes t m f).ev = s.ev := rfl

@[simp] theorem State.modGroup_clock (s : State) (g : GroupRef) (f : Group → Group) : (s.modGroup g f).clock = s.clock := rfl
@[simp] theorem State.modGroup_mem (s : State) (g : GroupRef) (f : Group → Group) : (s.modGroup g f).mem = s.mem := rfl
@[simp] theorem State.modGroup_scratch (s : State) (g : GroupRef) (f : Group → Group) : (s.modGroup g f).scratch = s.scratch := rfl
@[simp] theorem State.modGroup_srace (s : State) (g : GroupRef) (f : Group → Group) : (s.modGroup g f).srace = s.srace := rfl
@[simp] theorem State.modGroup_rels (s : State) (g : GroupRef) (f : Group → Group) : (s.modGroup g f).rels = s.rels := rfl
@[simp] theorem State.modGroup_atoms (s : State) (g : GroupRef) (f : Group → Group) : (s.modGroup g f).atoms = s.atoms := rfl
@[simp] theorem State.modGroup_hw (s : State) (g : GroupRef) (f : Group → Group) : (s.modGroup g f).hw = s.hw := rfl
@[simp] theorem State.modGroup_lastRead (s : State) (g : GroupRef) (f : Group → Group) : (s.modGroup g f).lastRead = s.lastRead := rfl
@[simp] theorem State.modGroup_teams (s : State) (g : GroupRef) (f : Group → Group) : (s.modGroup g f).teams = s.teams := rfl
@[simp] theorem State.modGroup_bars (s : State) (g : GroupRef) (f : Group → Group) : (s.modGroup g f).bars = s.bars := rfl
@[simp] theorem State.modGroup_binds (s : State) (g : GroupRef) (f : Group → Group) : (s.modGroup g f).binds = s.binds := rfl
@[simp] theorem State.modGroup_cbars (s : State) (g : GroupRef) (f : Group → Group) : (s.modGroup g f).cbars = s.cbars := rfl
@[simp] theorem State.modGroup_ctxs (s : State) (g : GroupRef) (f : Group → Group) : (s.modGroup g f).ctxs = s.ctxs := rfl
@[simp] theorem State.modGroup_plans (s : State) (g : GroupRef) (f : Group → Group) : (s.modGroup g f).plans = s.plans := rfl
@[simp] theorem State.modGroup_pipes (s : State) (g : GroupRef) (f : Group → Group) : (s.modGroup g f).pipes = s.pipes := rfl
@[simp] theorem State.modGroup_dies (s : State) (g : GroupRef) (f : Group → Group) : (s.modGroup g f).dies = s.dies := rfl
@[simp] theorem State.modGroup_cores (s : State) (g : GroupRef) (f : Group → Group) : (s.modGroup g f).cores = s.cores := rfl
@[simp] theorem State.modGroup_clusters (s : State) (g : GroupRef) (f : Group → Group) : (s.modGroup g f).clusters = s.clusters := rfl
@[simp] theorem State.modGroup_engines (s : State) (g : GroupRef) (f : Group → Group) : (s.modGroup g f).engines = s.engines := rfl
@[simp] theorem State.modGroup_chans (s : State) (g : GroupRef) (f : Group → Group) : (s.modGroup g f).chans = s.chans := rfl
@[simp] theorem State.modGroup_fab (s : State) (g : GroupRef) (f : Group → Group) : (s.modGroup g f).fab = s.fab := rfl
@[simp] theorem State.modGroup_chunks (s : State) (g : GroupRef) (f : Group → Group) : (s.modGroup g f).chunks = s.chunks := rfl
@[simp] theorem State.modGroup_aways (s : State) (g : GroupRef) (f : Group → Group) : (s.modGroup g f).aways = s.aways := rfl
@[simp] theorem State.modGroup_svc (s : State) (g : GroupRef) (f : Group → Group) : (s.modGroup g f).svc = s.svc := rfl
@[simp] theorem State.modGroup_sections (s : State) (g : GroupRef) (f : Group → Group) : (s.modGroup g f).sections = s.sections := rfl
@[simp] theorem State.modGroup_irqs (s : State) (g : GroupRef) (f : Group → Group) : (s.modGroup g f).irqs = s.irqs := rfl
@[simp] theorem State.modGroup_fresh (s : State) (g : GroupRef) (f : Group → Group) : (s.modGroup g f).fresh = s.fresh := rfl
@[simp] theorem State.modGroup_agenda (s : State) (g : GroupRef) (f : Group → Group) : (s.modGroup g f).agenda = s.agenda := rfl
@[simp] theorem State.modGroup_eoc (s : State) (g : GroupRef) (f : Group → Group) : (s.modGroup g f).eoc = s.eoc := rfl
@[simp] theorem State.modGroup_inputs (s : State) (g : GroupRef) (f : Group → Group) : (s.modGroup g f).inputs = s.inputs := rfl
@[simp] theorem State.modGroup_acted (s : State) (g : GroupRef) (f : Group → Group) : (s.modGroup g f).acted = s.acted := rfl
@[simp] theorem State.modGroup_closing (s : State) (g : GroupRef) (f : Group → Group) : (s.modGroup g f).closing = s.closing := rfl
@[simp] theorem State.modGroup_watched (s : State) (g : GroupRef) (f : Group → Group) : (s.modGroup g f).watched = s.watched := rfl
@[simp] theorem State.modGroup_chosen (s : State) (g : GroupRef) (f : Group → Group) : (s.modGroup g f).chosen = s.chosen := rfl
@[simp] theorem State.modGroup_issues (s : State) (g : GroupRef) (f : Group → Group) : (s.modGroup g f).issues = s.issues := rfl
@[simp] theorem State.modGroup_parks (s : State) (g : GroupRef) (f : Group → Group) : (s.modGroup g f).parks = s.parks := rfl
@[simp] theorem State.modGroup_cur (s : State) (g : GroupRef) (f : Group → Group) : (s.modGroup g f).cur = s.cur := rfl
@[simp] theorem State.modGroup_ev (s : State) (g : GroupRef) (f : Group → Group) : (s.modGroup g f).ev = s.ev := rfl

@[simp] theorem State.modCtx_clock (s : State) (c : Nat) (f : Ctx → Ctx) : (s.modCtx c f).clock = s.clock := rfl
@[simp] theorem State.modCtx_mem (s : State) (c : Nat) (f : Ctx → Ctx) : (s.modCtx c f).mem = s.mem := rfl
@[simp] theorem State.modCtx_scratch (s : State) (c : Nat) (f : Ctx → Ctx) : (s.modCtx c f).scratch = s.scratch := rfl
@[simp] theorem State.modCtx_srace (s : State) (c : Nat) (f : Ctx → Ctx) : (s.modCtx c f).srace = s.srace := rfl
@[simp] theorem State.modCtx_rels (s : State) (c : Nat) (f : Ctx → Ctx) : (s.modCtx c f).rels = s.rels := rfl
@[simp] theorem State.modCtx_atoms (s : State) (c : Nat) (f : Ctx → Ctx) : (s.modCtx c f).atoms = s.atoms := rfl
@[simp] theorem State.modCtx_hw (s : State) (c : Nat) (f : Ctx → Ctx) : (s.modCtx c f).hw = s.hw := rfl
@[simp] theorem State.modCtx_lastRead (s : State) (c : Nat) (f : Ctx → Ctx) : (s.modCtx c f).lastRead = s.lastRead := rfl
@[simp] theorem State.modCtx_teams (s : State) (c : Nat) (f : Ctx → Ctx) : (s.modCtx c f).teams = s.teams := rfl
@[simp] theorem State.modCtx_groups (s : State) (c : Nat) (f : Ctx → Ctx) : (s.modCtx c f).groups = s.groups := rfl
@[simp] theorem State.modCtx_bars (s : State) (c : Nat) (f : Ctx → Ctx) : (s.modCtx c f).bars = s.bars := rfl
@[simp] theorem State.modCtx_binds (s : State) (c : Nat) (f : Ctx → Ctx) : (s.modCtx c f).binds = s.binds := rfl
@[simp] theorem State.modCtx_cbars (s : State) (c : Nat) (f : Ctx → Ctx) : (s.modCtx c f).cbars = s.cbars := rfl
@[simp] theorem State.modCtx_plans (s : State) (c : Nat) (f : Ctx → Ctx) : (s.modCtx c f).plans = s.plans := rfl
@[simp] theorem State.modCtx_pipes (s : State) (c : Nat) (f : Ctx → Ctx) : (s.modCtx c f).pipes = s.pipes := rfl
@[simp] theorem State.modCtx_dies (s : State) (c : Nat) (f : Ctx → Ctx) : (s.modCtx c f).dies = s.dies := rfl
@[simp] theorem State.modCtx_cores (s : State) (c : Nat) (f : Ctx → Ctx) : (s.modCtx c f).cores = s.cores := rfl
@[simp] theorem State.modCtx_clusters (s : State) (c : Nat) (f : Ctx → Ctx) : (s.modCtx c f).clusters = s.clusters := rfl
@[simp] theorem State.modCtx_engines (s : State) (c : Nat) (f : Ctx → Ctx) : (s.modCtx c f).engines = s.engines := rfl
@[simp] theorem State.modCtx_chans (s : State) (c : Nat) (f : Ctx → Ctx) : (s.modCtx c f).chans = s.chans := rfl
@[simp] theorem State.modCtx_fab (s : State) (c : Nat) (f : Ctx → Ctx) : (s.modCtx c f).fab = s.fab := rfl
@[simp] theorem State.modCtx_chunks (s : State) (c : Nat) (f : Ctx → Ctx) : (s.modCtx c f).chunks = s.chunks := rfl
@[simp] theorem State.modCtx_aways (s : State) (c : Nat) (f : Ctx → Ctx) : (s.modCtx c f).aways = s.aways := rfl
@[simp] theorem State.modCtx_svc (s : State) (c : Nat) (f : Ctx → Ctx) : (s.modCtx c f).svc = s.svc := rfl
@[simp] theorem State.modCtx_sections (s : State) (c : Nat) (f : Ctx → Ctx) : (s.modCtx c f).sections = s.sections := rfl
@[simp] theorem State.modCtx_irqs (s : State) (c : Nat) (f : Ctx → Ctx) : (s.modCtx c f).irqs = s.irqs := rfl
@[simp] theorem State.modCtx_fresh (s : State) (c : Nat) (f : Ctx → Ctx) : (s.modCtx c f).fresh = s.fresh := rfl
@[simp] theorem State.modCtx_agenda (s : State) (c : Nat) (f : Ctx → Ctx) : (s.modCtx c f).agenda = s.agenda := rfl
@[simp] theorem State.modCtx_eoc (s : State) (c : Nat) (f : Ctx → Ctx) : (s.modCtx c f).eoc = s.eoc := rfl
@[simp] theorem State.modCtx_inputs (s : State) (c : Nat) (f : Ctx → Ctx) : (s.modCtx c f).inputs = s.inputs := rfl
@[simp] theorem State.modCtx_acted (s : State) (c : Nat) (f : Ctx → Ctx) : (s.modCtx c f).acted = s.acted := rfl
@[simp] theorem State.modCtx_closing (s : State) (c : Nat) (f : Ctx → Ctx) : (s.modCtx c f).closing = s.closing := rfl
@[simp] theorem State.modCtx_watched (s : State) (c : Nat) (f : Ctx → Ctx) : (s.modCtx c f).watched = s.watched := rfl
@[simp] theorem State.modCtx_chosen (s : State) (c : Nat) (f : Ctx → Ctx) : (s.modCtx c f).chosen = s.chosen := rfl
@[simp] theorem State.modCtx_issues (s : State) (c : Nat) (f : Ctx → Ctx) : (s.modCtx c f).issues = s.issues := rfl
@[simp] theorem State.modCtx_parks (s : State) (c : Nat) (f : Ctx → Ctx) : (s.modCtx c f).parks = s.parks := rfl
@[simp] theorem State.modCtx_cur (s : State) (c : Nat) (f : Ctx → Ctx) : (s.modCtx c f).cur = s.cur := rfl
@[simp] theorem State.modCtx_ev (s : State) (c : Nat) (f : Ctx → Ctx) : (s.modCtx c f).ev = s.ev := rfl

@[simp] theorem State.modPlan_clock (s : State) (c r : Nat) (f : Plan → Plan) : (s.modPlan c r f).clock = s.clock := rfl
@[simp] theorem State.modPlan_mem (s : State) (c r : Nat) (f : Plan → Plan) : (s.modPlan c r f).mem = s.mem := rfl
@[simp] theorem State.modPlan_scratch (s : State) (c r : Nat) (f : Plan → Plan) : (s.modPlan c r f).scratch = s.scratch := rfl
@[simp] theorem State.modPlan_srace (s : State) (c r : Nat) (f : Plan → Plan) : (s.modPlan c r f).srace = s.srace := rfl
@[simp] theorem State.modPlan_rels (s : State) (c r : Nat) (f : Plan → Plan) : (s.modPlan c r f).rels = s.rels := rfl
@[simp] theorem State.modPlan_atoms (s : State) (c r : Nat) (f : Plan → Plan) : (s.modPlan c r f).atoms = s.atoms := rfl
@[simp] theorem State.modPlan_hw (s : State) (c r : Nat) (f : Plan → Plan) : (s.modPlan c r f).hw = s.hw := rfl
@[simp] theorem State.modPlan_lastRead (s : State) (c r : Nat) (f : Plan → Plan) : (s.modPlan c r f).lastRead = s.lastRead := rfl
@[simp] theorem State.modPlan_teams (s : State) (c r : Nat) (f : Plan → Plan) : (s.modPlan c r f).teams = s.teams := rfl
@[simp] theorem State.modPlan_groups (s : State) (c r : Nat) (f : Plan → Plan) : (s.modPlan c r f).groups = s.groups := rfl
@[simp] theorem State.modPlan_bars (s : State) (c r : Nat) (f : Plan → Plan) : (s.modPlan c r f).bars = s.bars := rfl
@[simp] theorem State.modPlan_binds (s : State) (c r : Nat) (f : Plan → Plan) : (s.modPlan c r f).binds = s.binds := rfl
@[simp] theorem State.modPlan_cbars (s : State) (c r : Nat) (f : Plan → Plan) : (s.modPlan c r f).cbars = s.cbars := rfl
@[simp] theorem State.modPlan_ctxs (s : State) (c r : Nat) (f : Plan → Plan) : (s.modPlan c r f).ctxs = s.ctxs := rfl
@[simp] theorem State.modPlan_pipes (s : State) (c r : Nat) (f : Plan → Plan) : (s.modPlan c r f).pipes = s.pipes := rfl
@[simp] theorem State.modPlan_dies (s : State) (c r : Nat) (f : Plan → Plan) : (s.modPlan c r f).dies = s.dies := rfl
@[simp] theorem State.modPlan_cores (s : State) (c r : Nat) (f : Plan → Plan) : (s.modPlan c r f).cores = s.cores := rfl
@[simp] theorem State.modPlan_clusters (s : State) (c r : Nat) (f : Plan → Plan) : (s.modPlan c r f).clusters = s.clusters := rfl
@[simp] theorem State.modPlan_engines (s : State) (c r : Nat) (f : Plan → Plan) : (s.modPlan c r f).engines = s.engines := rfl
@[simp] theorem State.modPlan_chans (s : State) (c r : Nat) (f : Plan → Plan) : (s.modPlan c r f).chans = s.chans := rfl
@[simp] theorem State.modPlan_fab (s : State) (c r : Nat) (f : Plan → Plan) : (s.modPlan c r f).fab = s.fab := rfl
@[simp] theorem State.modPlan_chunks (s : State) (c r : Nat) (f : Plan → Plan) : (s.modPlan c r f).chunks = s.chunks := rfl
@[simp] theorem State.modPlan_aways (s : State) (c r : Nat) (f : Plan → Plan) : (s.modPlan c r f).aways = s.aways := rfl
@[simp] theorem State.modPlan_svc (s : State) (c r : Nat) (f : Plan → Plan) : (s.modPlan c r f).svc = s.svc := rfl
@[simp] theorem State.modPlan_sections (s : State) (c r : Nat) (f : Plan → Plan) : (s.modPlan c r f).sections = s.sections := rfl
@[simp] theorem State.modPlan_irqs (s : State) (c r : Nat) (f : Plan → Plan) : (s.modPlan c r f).irqs = s.irqs := rfl
@[simp] theorem State.modPlan_fresh (s : State) (c r : Nat) (f : Plan → Plan) : (s.modPlan c r f).fresh = s.fresh := rfl
@[simp] theorem State.modPlan_agenda (s : State) (c r : Nat) (f : Plan → Plan) : (s.modPlan c r f).agenda = s.agenda := rfl
@[simp] theorem State.modPlan_eoc (s : State) (c r : Nat) (f : Plan → Plan) : (s.modPlan c r f).eoc = s.eoc := rfl
@[simp] theorem State.modPlan_inputs (s : State) (c r : Nat) (f : Plan → Plan) : (s.modPlan c r f).inputs = s.inputs := rfl
@[simp] theorem State.modPlan_acted (s : State) (c r : Nat) (f : Plan → Plan) : (s.modPlan c r f).acted = s.acted := rfl
@[simp] theorem State.modPlan_closing (s : State) (c r : Nat) (f : Plan → Plan) : (s.modPlan c r f).closing = s.closing := rfl
@[simp] theorem State.modPlan_watched (s : State) (c r : Nat) (f : Plan → Plan) : (s.modPlan c r f).watched = s.watched := rfl
@[simp] theorem State.modPlan_chosen (s : State) (c r : Nat) (f : Plan → Plan) : (s.modPlan c r f).chosen = s.chosen := rfl
@[simp] theorem State.modPlan_issues (s : State) (c r : Nat) (f : Plan → Plan) : (s.modPlan c r f).issues = s.issues := rfl
@[simp] theorem State.modPlan_parks (s : State) (c r : Nat) (f : Plan → Plan) : (s.modPlan c r f).parks = s.parks := rfl
@[simp] theorem State.modPlan_cur (s : State) (c r : Nat) (f : Plan → Plan) : (s.modPlan c r f).cur = s.cur := rfl
@[simp] theorem State.modPlan_ev (s : State) (c r : Nat) (f : Plan → Plan) : (s.modPlan c r f).ev = s.ev := rfl

@[simp] theorem State.modPipe_clock (s : State) (p : PipeRef) (f : Pipe → Pipe) : (s.modPipe p f).clock = s.clock := rfl
@[simp] theorem State.modPipe_mem (s : State) (p : PipeRef) (f : Pipe → Pipe) : (s.modPipe p f).mem = s.mem := rfl
@[simp] theorem State.modPipe_scratch (s : State) (p : PipeRef) (f : Pipe → Pipe) : (s.modPipe p f).scratch = s.scratch := rfl
@[simp] theorem State.modPipe_srace (s : State) (p : PipeRef) (f : Pipe → Pipe) : (s.modPipe p f).srace = s.srace := rfl
@[simp] theorem State.modPipe_rels (s : State) (p : PipeRef) (f : Pipe → Pipe) : (s.modPipe p f).rels = s.rels := rfl
@[simp] theorem State.modPipe_atoms (s : State) (p : PipeRef) (f : Pipe → Pipe) : (s.modPipe p f).atoms = s.atoms := rfl
@[simp] theorem State.modPipe_hw (s : State) (p : PipeRef) (f : Pipe → Pipe) : (s.modPipe p f).hw = s.hw := rfl
@[simp] theorem State.modPipe_lastRead (s : State) (p : PipeRef) (f : Pipe → Pipe) : (s.modPipe p f).lastRead = s.lastRead := rfl
@[simp] theorem State.modPipe_teams (s : State) (p : PipeRef) (f : Pipe → Pipe) : (s.modPipe p f).teams = s.teams := rfl
@[simp] theorem State.modPipe_groups (s : State) (p : PipeRef) (f : Pipe → Pipe) : (s.modPipe p f).groups = s.groups := rfl
@[simp] theorem State.modPipe_bars (s : State) (p : PipeRef) (f : Pipe → Pipe) : (s.modPipe p f).bars = s.bars := rfl
@[simp] theorem State.modPipe_binds (s : State) (p : PipeRef) (f : Pipe → Pipe) : (s.modPipe p f).binds = s.binds := rfl
@[simp] theorem State.modPipe_cbars (s : State) (p : PipeRef) (f : Pipe → Pipe) : (s.modPipe p f).cbars = s.cbars := rfl
@[simp] theorem State.modPipe_ctxs (s : State) (p : PipeRef) (f : Pipe → Pipe) : (s.modPipe p f).ctxs = s.ctxs := rfl
@[simp] theorem State.modPipe_plans (s : State) (p : PipeRef) (f : Pipe → Pipe) : (s.modPipe p f).plans = s.plans := rfl
@[simp] theorem State.modPipe_dies (s : State) (p : PipeRef) (f : Pipe → Pipe) : (s.modPipe p f).dies = s.dies := rfl
@[simp] theorem State.modPipe_cores (s : State) (p : PipeRef) (f : Pipe → Pipe) : (s.modPipe p f).cores = s.cores := rfl
@[simp] theorem State.modPipe_clusters (s : State) (p : PipeRef) (f : Pipe → Pipe) : (s.modPipe p f).clusters = s.clusters := rfl
@[simp] theorem State.modPipe_engines (s : State) (p : PipeRef) (f : Pipe → Pipe) : (s.modPipe p f).engines = s.engines := rfl
@[simp] theorem State.modPipe_chans (s : State) (p : PipeRef) (f : Pipe → Pipe) : (s.modPipe p f).chans = s.chans := rfl
@[simp] theorem State.modPipe_fab (s : State) (p : PipeRef) (f : Pipe → Pipe) : (s.modPipe p f).fab = s.fab := rfl
@[simp] theorem State.modPipe_chunks (s : State) (p : PipeRef) (f : Pipe → Pipe) : (s.modPipe p f).chunks = s.chunks := rfl
@[simp] theorem State.modPipe_aways (s : State) (p : PipeRef) (f : Pipe → Pipe) : (s.modPipe p f).aways = s.aways := rfl
@[simp] theorem State.modPipe_svc (s : State) (p : PipeRef) (f : Pipe → Pipe) : (s.modPipe p f).svc = s.svc := rfl
@[simp] theorem State.modPipe_sections (s : State) (p : PipeRef) (f : Pipe → Pipe) : (s.modPipe p f).sections = s.sections := rfl
@[simp] theorem State.modPipe_irqs (s : State) (p : PipeRef) (f : Pipe → Pipe) : (s.modPipe p f).irqs = s.irqs := rfl
@[simp] theorem State.modPipe_fresh (s : State) (p : PipeRef) (f : Pipe → Pipe) : (s.modPipe p f).fresh = s.fresh := rfl
@[simp] theorem State.modPipe_agenda (s : State) (p : PipeRef) (f : Pipe → Pipe) : (s.modPipe p f).agenda = s.agenda := rfl
@[simp] theorem State.modPipe_eoc (s : State) (p : PipeRef) (f : Pipe → Pipe) : (s.modPipe p f).eoc = s.eoc := rfl
@[simp] theorem State.modPipe_inputs (s : State) (p : PipeRef) (f : Pipe → Pipe) : (s.modPipe p f).inputs = s.inputs := rfl
@[simp] theorem State.modPipe_acted (s : State) (p : PipeRef) (f : Pipe → Pipe) : (s.modPipe p f).acted = s.acted := rfl
@[simp] theorem State.modPipe_closing (s : State) (p : PipeRef) (f : Pipe → Pipe) : (s.modPipe p f).closing = s.closing := rfl
@[simp] theorem State.modPipe_watched (s : State) (p : PipeRef) (f : Pipe → Pipe) : (s.modPipe p f).watched = s.watched := rfl
@[simp] theorem State.modPipe_chosen (s : State) (p : PipeRef) (f : Pipe → Pipe) : (s.modPipe p f).chosen = s.chosen := rfl
@[simp] theorem State.modPipe_issues (s : State) (p : PipeRef) (f : Pipe → Pipe) : (s.modPipe p f).issues = s.issues := rfl
@[simp] theorem State.modPipe_parks (s : State) (p : PipeRef) (f : Pipe → Pipe) : (s.modPipe p f).parks = s.parks := rfl
@[simp] theorem State.modPipe_cur (s : State) (p : PipeRef) (f : Pipe → Pipe) : (s.modPipe p f).cur = s.cur := rfl
@[simp] theorem State.modPipe_ev (s : State) (p : PipeRef) (f : Pipe → Pipe) : (s.modPipe p f).ev = s.ev := rfl

@[simp] theorem State.modDie_clock (s : State) (d : Nat) (f : Die → Die) : (s.modDie d f).clock = s.clock := rfl
@[simp] theorem State.modDie_mem (s : State) (d : Nat) (f : Die → Die) : (s.modDie d f).mem = s.mem := rfl
@[simp] theorem State.modDie_scratch (s : State) (d : Nat) (f : Die → Die) : (s.modDie d f).scratch = s.scratch := rfl
@[simp] theorem State.modDie_srace (s : State) (d : Nat) (f : Die → Die) : (s.modDie d f).srace = s.srace := rfl
@[simp] theorem State.modDie_rels (s : State) (d : Nat) (f : Die → Die) : (s.modDie d f).rels = s.rels := rfl
@[simp] theorem State.modDie_atoms (s : State) (d : Nat) (f : Die → Die) : (s.modDie d f).atoms = s.atoms := rfl
@[simp] theorem State.modDie_hw (s : State) (d : Nat) (f : Die → Die) : (s.modDie d f).hw = s.hw := rfl
@[simp] theorem State.modDie_lastRead (s : State) (d : Nat) (f : Die → Die) : (s.modDie d f).lastRead = s.lastRead := rfl
@[simp] theorem State.modDie_teams (s : State) (d : Nat) (f : Die → Die) : (s.modDie d f).teams = s.teams := rfl
@[simp] theorem State.modDie_groups (s : State) (d : Nat) (f : Die → Die) : (s.modDie d f).groups = s.groups := rfl
@[simp] theorem State.modDie_bars (s : State) (d : Nat) (f : Die → Die) : (s.modDie d f).bars = s.bars := rfl
@[simp] theorem State.modDie_binds (s : State) (d : Nat) (f : Die → Die) : (s.modDie d f).binds = s.binds := rfl
@[simp] theorem State.modDie_cbars (s : State) (d : Nat) (f : Die → Die) : (s.modDie d f).cbars = s.cbars := rfl
@[simp] theorem State.modDie_ctxs (s : State) (d : Nat) (f : Die → Die) : (s.modDie d f).ctxs = s.ctxs := rfl
@[simp] theorem State.modDie_plans (s : State) (d : Nat) (f : Die → Die) : (s.modDie d f).plans = s.plans := rfl
@[simp] theorem State.modDie_pipes (s : State) (d : Nat) (f : Die → Die) : (s.modDie d f).pipes = s.pipes := rfl
@[simp] theorem State.modDie_cores (s : State) (d : Nat) (f : Die → Die) : (s.modDie d f).cores = s.cores := rfl
@[simp] theorem State.modDie_clusters (s : State) (d : Nat) (f : Die → Die) : (s.modDie d f).clusters = s.clusters := rfl
@[simp] theorem State.modDie_engines (s : State) (d : Nat) (f : Die → Die) : (s.modDie d f).engines = s.engines := rfl
@[simp] theorem State.modDie_chans (s : State) (d : Nat) (f : Die → Die) : (s.modDie d f).chans = s.chans := rfl
@[simp] theorem State.modDie_fab (s : State) (d : Nat) (f : Die → Die) : (s.modDie d f).fab = s.fab := rfl
@[simp] theorem State.modDie_chunks (s : State) (d : Nat) (f : Die → Die) : (s.modDie d f).chunks = s.chunks := rfl
@[simp] theorem State.modDie_aways (s : State) (d : Nat) (f : Die → Die) : (s.modDie d f).aways = s.aways := rfl
@[simp] theorem State.modDie_svc (s : State) (d : Nat) (f : Die → Die) : (s.modDie d f).svc = s.svc := rfl
@[simp] theorem State.modDie_sections (s : State) (d : Nat) (f : Die → Die) : (s.modDie d f).sections = s.sections := rfl
@[simp] theorem State.modDie_irqs (s : State) (d : Nat) (f : Die → Die) : (s.modDie d f).irqs = s.irqs := rfl
@[simp] theorem State.modDie_fresh (s : State) (d : Nat) (f : Die → Die) : (s.modDie d f).fresh = s.fresh := rfl
@[simp] theorem State.modDie_agenda (s : State) (d : Nat) (f : Die → Die) : (s.modDie d f).agenda = s.agenda := rfl
@[simp] theorem State.modDie_eoc (s : State) (d : Nat) (f : Die → Die) : (s.modDie d f).eoc = s.eoc := rfl
@[simp] theorem State.modDie_inputs (s : State) (d : Nat) (f : Die → Die) : (s.modDie d f).inputs = s.inputs := rfl
@[simp] theorem State.modDie_acted (s : State) (d : Nat) (f : Die → Die) : (s.modDie d f).acted = s.acted := rfl
@[simp] theorem State.modDie_closing (s : State) (d : Nat) (f : Die → Die) : (s.modDie d f).closing = s.closing := rfl
@[simp] theorem State.modDie_watched (s : State) (d : Nat) (f : Die → Die) : (s.modDie d f).watched = s.watched := rfl
@[simp] theorem State.modDie_chosen (s : State) (d : Nat) (f : Die → Die) : (s.modDie d f).chosen = s.chosen := rfl
@[simp] theorem State.modDie_issues (s : State) (d : Nat) (f : Die → Die) : (s.modDie d f).issues = s.issues := rfl
@[simp] theorem State.modDie_parks (s : State) (d : Nat) (f : Die → Die) : (s.modDie d f).parks = s.parks := rfl
@[simp] theorem State.modDie_cur (s : State) (d : Nat) (f : Die → Die) : (s.modDie d f).cur = s.cur := rfl
@[simp] theorem State.modDie_ev (s : State) (d : Nat) (f : Die → Die) : (s.modDie d f).ev = s.ev := rfl

@[simp] theorem State.modCore_clock (s : State) (d c : Nat) (f : Core → Core) : (s.modCore d c f).clock = s.clock := rfl
@[simp] theorem State.modCore_mem (s : State) (d c : Nat) (f : Core → Core) : (s.modCore d c f).mem = s.mem := rfl
@[simp] theorem State.modCore_scratch (s : State) (d c : Nat) (f : Core → Core) : (s.modCore d c f).scratch = s.scratch := rfl
@[simp] theorem State.modCore_srace (s : State) (d c : Nat) (f : Core → Core) : (s.modCore d c f).srace = s.srace := rfl
@[simp] theorem State.modCore_rels (s : State) (d c : Nat) (f : Core → Core) : (s.modCore d c f).rels = s.rels := rfl
@[simp] theorem State.modCore_atoms (s : State) (d c : Nat) (f : Core → Core) : (s.modCore d c f).atoms = s.atoms := rfl
@[simp] theorem State.modCore_hw (s : State) (d c : Nat) (f : Core → Core) : (s.modCore d c f).hw = s.hw := rfl
@[simp] theorem State.modCore_lastRead (s : State) (d c : Nat) (f : Core → Core) : (s.modCore d c f).lastRead = s.lastRead := rfl
@[simp] theorem State.modCore_teams (s : State) (d c : Nat) (f : Core → Core) : (s.modCore d c f).teams = s.teams := rfl
@[simp] theorem State.modCore_groups (s : State) (d c : Nat) (f : Core → Core) : (s.modCore d c f).groups = s.groups := rfl
@[simp] theorem State.modCore_bars (s : State) (d c : Nat) (f : Core → Core) : (s.modCore d c f).bars = s.bars := rfl
@[simp] theorem State.modCore_binds (s : State) (d c : Nat) (f : Core → Core) : (s.modCore d c f).binds = s.binds := rfl
@[simp] theorem State.modCore_cbars (s : State) (d c : Nat) (f : Core → Core) : (s.modCore d c f).cbars = s.cbars := rfl
@[simp] theorem State.modCore_ctxs (s : State) (d c : Nat) (f : Core → Core) : (s.modCore d c f).ctxs = s.ctxs := rfl
@[simp] theorem State.modCore_plans (s : State) (d c : Nat) (f : Core → Core) : (s.modCore d c f).plans = s.plans := rfl
@[simp] theorem State.modCore_pipes (s : State) (d c : Nat) (f : Core → Core) : (s.modCore d c f).pipes = s.pipes := rfl
@[simp] theorem State.modCore_dies (s : State) (d c : Nat) (f : Core → Core) : (s.modCore d c f).dies = s.dies := rfl
@[simp] theorem State.modCore_clusters (s : State) (d c : Nat) (f : Core → Core) : (s.modCore d c f).clusters = s.clusters := rfl
@[simp] theorem State.modCore_engines (s : State) (d c : Nat) (f : Core → Core) : (s.modCore d c f).engines = s.engines := rfl
@[simp] theorem State.modCore_chans (s : State) (d c : Nat) (f : Core → Core) : (s.modCore d c f).chans = s.chans := rfl
@[simp] theorem State.modCore_fab (s : State) (d c : Nat) (f : Core → Core) : (s.modCore d c f).fab = s.fab := rfl
@[simp] theorem State.modCore_chunks (s : State) (d c : Nat) (f : Core → Core) : (s.modCore d c f).chunks = s.chunks := rfl
@[simp] theorem State.modCore_aways (s : State) (d c : Nat) (f : Core → Core) : (s.modCore d c f).aways = s.aways := rfl
@[simp] theorem State.modCore_svc (s : State) (d c : Nat) (f : Core → Core) : (s.modCore d c f).svc = s.svc := rfl
@[simp] theorem State.modCore_sections (s : State) (d c : Nat) (f : Core → Core) : (s.modCore d c f).sections = s.sections := rfl
@[simp] theorem State.modCore_irqs (s : State) (d c : Nat) (f : Core → Core) : (s.modCore d c f).irqs = s.irqs := rfl
@[simp] theorem State.modCore_fresh (s : State) (d c : Nat) (f : Core → Core) : (s.modCore d c f).fresh = s.fresh := rfl
@[simp] theorem State.modCore_agenda (s : State) (d c : Nat) (f : Core → Core) : (s.modCore d c f).agenda = s.agenda := rfl
@[simp] theorem State.modCore_eoc (s : State) (d c : Nat) (f : Core → Core) : (s.modCore d c f).eoc = s.eoc := rfl
@[simp] theorem State.modCore_inputs (s : State) (d c : Nat) (f : Core → Core) : (s.modCore d c f).inputs = s.inputs := rfl
@[simp] theorem State.modCore_acted (s : State) (d c : Nat) (f : Core → Core) : (s.modCore d c f).acted = s.acted := rfl
@[simp] theorem State.modCore_closing (s : State) (d c : Nat) (f : Core → Core) : (s.modCore d c f).closing = s.closing := rfl
@[simp] theorem State.modCore_watched (s : State) (d c : Nat) (f : Core → Core) : (s.modCore d c f).watched = s.watched := rfl
@[simp] theorem State.modCore_chosen (s : State) (d c : Nat) (f : Core → Core) : (s.modCore d c f).chosen = s.chosen := rfl
@[simp] theorem State.modCore_issues (s : State) (d c : Nat) (f : Core → Core) : (s.modCore d c f).issues = s.issues := rfl
@[simp] theorem State.modCore_parks (s : State) (d c : Nat) (f : Core → Core) : (s.modCore d c f).parks = s.parks := rfl
@[simp] theorem State.modCore_cur (s : State) (d c : Nat) (f : Core → Core) : (s.modCore d c f).cur = s.cur := rfl
@[simp] theorem State.modCore_ev (s : State) (d c : Nat) (f : Core → Core) : (s.modCore d c f).ev = s.ev := rfl

@[simp] theorem State.modCluster_clock (s : State) (d c : Nat) (f : Cluster → Cluster) : (s.modCluster d c f).clock = s.clock := rfl
@[simp] theorem State.modCluster_mem (s : State) (d c : Nat) (f : Cluster → Cluster) : (s.modCluster d c f).mem = s.mem := rfl
@[simp] theorem State.modCluster_scratch (s : State) (d c : Nat) (f : Cluster → Cluster) : (s.modCluster d c f).scratch = s.scratch := rfl
@[simp] theorem State.modCluster_srace (s : State) (d c : Nat) (f : Cluster → Cluster) : (s.modCluster d c f).srace = s.srace := rfl
@[simp] theorem State.modCluster_rels (s : State) (d c : Nat) (f : Cluster → Cluster) : (s.modCluster d c f).rels = s.rels := rfl
@[simp] theorem State.modCluster_atoms (s : State) (d c : Nat) (f : Cluster → Cluster) : (s.modCluster d c f).atoms = s.atoms := rfl
@[simp] theorem State.modCluster_hw (s : State) (d c : Nat) (f : Cluster → Cluster) : (s.modCluster d c f).hw = s.hw := rfl
@[simp] theorem State.modCluster_lastRead (s : State) (d c : Nat) (f : Cluster → Cluster) : (s.modCluster d c f).lastRead = s.lastRead := rfl
@[simp] theorem State.modCluster_teams (s : State) (d c : Nat) (f : Cluster → Cluster) : (s.modCluster d c f).teams = s.teams := rfl
@[simp] theorem State.modCluster_groups (s : State) (d c : Nat) (f : Cluster → Cluster) : (s.modCluster d c f).groups = s.groups := rfl
@[simp] theorem State.modCluster_bars (s : State) (d c : Nat) (f : Cluster → Cluster) : (s.modCluster d c f).bars = s.bars := rfl
@[simp] theorem State.modCluster_binds (s : State) (d c : Nat) (f : Cluster → Cluster) : (s.modCluster d c f).binds = s.binds := rfl
@[simp] theorem State.modCluster_cbars (s : State) (d c : Nat) (f : Cluster → Cluster) : (s.modCluster d c f).cbars = s.cbars := rfl
@[simp] theorem State.modCluster_ctxs (s : State) (d c : Nat) (f : Cluster → Cluster) : (s.modCluster d c f).ctxs = s.ctxs := rfl
@[simp] theorem State.modCluster_plans (s : State) (d c : Nat) (f : Cluster → Cluster) : (s.modCluster d c f).plans = s.plans := rfl
@[simp] theorem State.modCluster_pipes (s : State) (d c : Nat) (f : Cluster → Cluster) : (s.modCluster d c f).pipes = s.pipes := rfl
@[simp] theorem State.modCluster_dies (s : State) (d c : Nat) (f : Cluster → Cluster) : (s.modCluster d c f).dies = s.dies := rfl
@[simp] theorem State.modCluster_cores (s : State) (d c : Nat) (f : Cluster → Cluster) : (s.modCluster d c f).cores = s.cores := rfl
@[simp] theorem State.modCluster_engines (s : State) (d c : Nat) (f : Cluster → Cluster) : (s.modCluster d c f).engines = s.engines := rfl
@[simp] theorem State.modCluster_chans (s : State) (d c : Nat) (f : Cluster → Cluster) : (s.modCluster d c f).chans = s.chans := rfl
@[simp] theorem State.modCluster_fab (s : State) (d c : Nat) (f : Cluster → Cluster) : (s.modCluster d c f).fab = s.fab := rfl
@[simp] theorem State.modCluster_chunks (s : State) (d c : Nat) (f : Cluster → Cluster) : (s.modCluster d c f).chunks = s.chunks := rfl
@[simp] theorem State.modCluster_aways (s : State) (d c : Nat) (f : Cluster → Cluster) : (s.modCluster d c f).aways = s.aways := rfl
@[simp] theorem State.modCluster_svc (s : State) (d c : Nat) (f : Cluster → Cluster) : (s.modCluster d c f).svc = s.svc := rfl
@[simp] theorem State.modCluster_sections (s : State) (d c : Nat) (f : Cluster → Cluster) : (s.modCluster d c f).sections = s.sections := rfl
@[simp] theorem State.modCluster_irqs (s : State) (d c : Nat) (f : Cluster → Cluster) : (s.modCluster d c f).irqs = s.irqs := rfl
@[simp] theorem State.modCluster_fresh (s : State) (d c : Nat) (f : Cluster → Cluster) : (s.modCluster d c f).fresh = s.fresh := rfl
@[simp] theorem State.modCluster_agenda (s : State) (d c : Nat) (f : Cluster → Cluster) : (s.modCluster d c f).agenda = s.agenda := rfl
@[simp] theorem State.modCluster_eoc (s : State) (d c : Nat) (f : Cluster → Cluster) : (s.modCluster d c f).eoc = s.eoc := rfl
@[simp] theorem State.modCluster_inputs (s : State) (d c : Nat) (f : Cluster → Cluster) : (s.modCluster d c f).inputs = s.inputs := rfl
@[simp] theorem State.modCluster_acted (s : State) (d c : Nat) (f : Cluster → Cluster) : (s.modCluster d c f).acted = s.acted := rfl
@[simp] theorem State.modCluster_closing (s : State) (d c : Nat) (f : Cluster → Cluster) : (s.modCluster d c f).closing = s.closing := rfl
@[simp] theorem State.modCluster_watched (s : State) (d c : Nat) (f : Cluster → Cluster) : (s.modCluster d c f).watched = s.watched := rfl
@[simp] theorem State.modCluster_chosen (s : State) (d c : Nat) (f : Cluster → Cluster) : (s.modCluster d c f).chosen = s.chosen := rfl
@[simp] theorem State.modCluster_issues (s : State) (d c : Nat) (f : Cluster → Cluster) : (s.modCluster d c f).issues = s.issues := rfl
@[simp] theorem State.modCluster_parks (s : State) (d c : Nat) (f : Cluster → Cluster) : (s.modCluster d c f).parks = s.parks := rfl
@[simp] theorem State.modCluster_cur (s : State) (d c : Nat) (f : Cluster → Cluster) : (s.modCluster d c f).cur = s.cur := rfl
@[simp] theorem State.modCluster_ev (s : State) (d c : Nat) (f : Cluster → Cluster) : (s.modCluster d c f).ev = s.ev := rfl

@[simp] theorem State.modEngine_clock (s : State) (d e : Nat) (f : Engine → Engine) : (s.modEngine d e f).clock = s.clock := rfl
@[simp] theorem State.modEngine_mem (s : State) (d e : Nat) (f : Engine → Engine) : (s.modEngine d e f).mem = s.mem := rfl
@[simp] theorem State.modEngine_scratch (s : State) (d e : Nat) (f : Engine → Engine) : (s.modEngine d e f).scratch = s.scratch := rfl
@[simp] theorem State.modEngine_srace (s : State) (d e : Nat) (f : Engine → Engine) : (s.modEngine d e f).srace = s.srace := rfl
@[simp] theorem State.modEngine_rels (s : State) (d e : Nat) (f : Engine → Engine) : (s.modEngine d e f).rels = s.rels := rfl
@[simp] theorem State.modEngine_atoms (s : State) (d e : Nat) (f : Engine → Engine) : (s.modEngine d e f).atoms = s.atoms := rfl
@[simp] theorem State.modEngine_hw (s : State) (d e : Nat) (f : Engine → Engine) : (s.modEngine d e f).hw = s.hw := rfl
@[simp] theorem State.modEngine_lastRead (s : State) (d e : Nat) (f : Engine → Engine) : (s.modEngine d e f).lastRead = s.lastRead := rfl
@[simp] theorem State.modEngine_teams (s : State) (d e : Nat) (f : Engine → Engine) : (s.modEngine d e f).teams = s.teams := rfl
@[simp] theorem State.modEngine_groups (s : State) (d e : Nat) (f : Engine → Engine) : (s.modEngine d e f).groups = s.groups := rfl
@[simp] theorem State.modEngine_bars (s : State) (d e : Nat) (f : Engine → Engine) : (s.modEngine d e f).bars = s.bars := rfl
@[simp] theorem State.modEngine_binds (s : State) (d e : Nat) (f : Engine → Engine) : (s.modEngine d e f).binds = s.binds := rfl
@[simp] theorem State.modEngine_cbars (s : State) (d e : Nat) (f : Engine → Engine) : (s.modEngine d e f).cbars = s.cbars := rfl
@[simp] theorem State.modEngine_ctxs (s : State) (d e : Nat) (f : Engine → Engine) : (s.modEngine d e f).ctxs = s.ctxs := rfl
@[simp] theorem State.modEngine_plans (s : State) (d e : Nat) (f : Engine → Engine) : (s.modEngine d e f).plans = s.plans := rfl
@[simp] theorem State.modEngine_pipes (s : State) (d e : Nat) (f : Engine → Engine) : (s.modEngine d e f).pipes = s.pipes := rfl
@[simp] theorem State.modEngine_dies (s : State) (d e : Nat) (f : Engine → Engine) : (s.modEngine d e f).dies = s.dies := rfl
@[simp] theorem State.modEngine_cores (s : State) (d e : Nat) (f : Engine → Engine) : (s.modEngine d e f).cores = s.cores := rfl
@[simp] theorem State.modEngine_clusters (s : State) (d e : Nat) (f : Engine → Engine) : (s.modEngine d e f).clusters = s.clusters := rfl
@[simp] theorem State.modEngine_chans (s : State) (d e : Nat) (f : Engine → Engine) : (s.modEngine d e f).chans = s.chans := rfl
@[simp] theorem State.modEngine_fab (s : State) (d e : Nat) (f : Engine → Engine) : (s.modEngine d e f).fab = s.fab := rfl
@[simp] theorem State.modEngine_chunks (s : State) (d e : Nat) (f : Engine → Engine) : (s.modEngine d e f).chunks = s.chunks := rfl
@[simp] theorem State.modEngine_aways (s : State) (d e : Nat) (f : Engine → Engine) : (s.modEngine d e f).aways = s.aways := rfl
@[simp] theorem State.modEngine_svc (s : State) (d e : Nat) (f : Engine → Engine) : (s.modEngine d e f).svc = s.svc := rfl
@[simp] theorem State.modEngine_sections (s : State) (d e : Nat) (f : Engine → Engine) : (s.modEngine d e f).sections = s.sections := rfl
@[simp] theorem State.modEngine_irqs (s : State) (d e : Nat) (f : Engine → Engine) : (s.modEngine d e f).irqs = s.irqs := rfl
@[simp] theorem State.modEngine_fresh (s : State) (d e : Nat) (f : Engine → Engine) : (s.modEngine d e f).fresh = s.fresh := rfl
@[simp] theorem State.modEngine_agenda (s : State) (d e : Nat) (f : Engine → Engine) : (s.modEngine d e f).agenda = s.agenda := rfl
@[simp] theorem State.modEngine_eoc (s : State) (d e : Nat) (f : Engine → Engine) : (s.modEngine d e f).eoc = s.eoc := rfl
@[simp] theorem State.modEngine_inputs (s : State) (d e : Nat) (f : Engine → Engine) : (s.modEngine d e f).inputs = s.inputs := rfl
@[simp] theorem State.modEngine_acted (s : State) (d e : Nat) (f : Engine → Engine) : (s.modEngine d e f).acted = s.acted := rfl
@[simp] theorem State.modEngine_closing (s : State) (d e : Nat) (f : Engine → Engine) : (s.modEngine d e f).closing = s.closing := rfl
@[simp] theorem State.modEngine_watched (s : State) (d e : Nat) (f : Engine → Engine) : (s.modEngine d e f).watched = s.watched := rfl
@[simp] theorem State.modEngine_chosen (s : State) (d e : Nat) (f : Engine → Engine) : (s.modEngine d e f).chosen = s.chosen := rfl
@[simp] theorem State.modEngine_issues (s : State) (d e : Nat) (f : Engine → Engine) : (s.modEngine d e f).issues = s.issues := rfl
@[simp] theorem State.modEngine_parks (s : State) (d e : Nat) (f : Engine → Engine) : (s.modEngine d e f).parks = s.parks := rfl
@[simp] theorem State.modEngine_cur (s : State) (d e : Nat) (f : Engine → Engine) : (s.modEngine d e f).cur = s.cur := rfl
@[simp] theorem State.modEngine_ev (s : State) (d e : Nat) (f : Engine → Engine) : (s.modEngine d e f).ev = s.ev := rfl

@[simp] theorem State.modChan_clock (s : State) (d c i : Nat) (f : Chan → Chan) : (s.modChan d c i f).clock = s.clock := rfl
@[simp] theorem State.modChan_mem (s : State) (d c i : Nat) (f : Chan → Chan) : (s.modChan d c i f).mem = s.mem := rfl
@[simp] theorem State.modChan_scratch (s : State) (d c i : Nat) (f : Chan → Chan) : (s.modChan d c i f).scratch = s.scratch := rfl
@[simp] theorem State.modChan_srace (s : State) (d c i : Nat) (f : Chan → Chan) : (s.modChan d c i f).srace = s.srace := rfl
@[simp] theorem State.modChan_rels (s : State) (d c i : Nat) (f : Chan → Chan) : (s.modChan d c i f).rels = s.rels := rfl
@[simp] theorem State.modChan_atoms (s : State) (d c i : Nat) (f : Chan → Chan) : (s.modChan d c i f).atoms = s.atoms := rfl
@[simp] theorem State.modChan_hw (s : State) (d c i : Nat) (f : Chan → Chan) : (s.modChan d c i f).hw = s.hw := rfl
@[simp] theorem State.modChan_lastRead (s : State) (d c i : Nat) (f : Chan → Chan) : (s.modChan d c i f).lastRead = s.lastRead := rfl
@[simp] theorem State.modChan_teams (s : State) (d c i : Nat) (f : Chan → Chan) : (s.modChan d c i f).teams = s.teams := rfl
@[simp] theorem State.modChan_groups (s : State) (d c i : Nat) (f : Chan → Chan) : (s.modChan d c i f).groups = s.groups := rfl
@[simp] theorem State.modChan_bars (s : State) (d c i : Nat) (f : Chan → Chan) : (s.modChan d c i f).bars = s.bars := rfl
@[simp] theorem State.modChan_binds (s : State) (d c i : Nat) (f : Chan → Chan) : (s.modChan d c i f).binds = s.binds := rfl
@[simp] theorem State.modChan_cbars (s : State) (d c i : Nat) (f : Chan → Chan) : (s.modChan d c i f).cbars = s.cbars := rfl
@[simp] theorem State.modChan_ctxs (s : State) (d c i : Nat) (f : Chan → Chan) : (s.modChan d c i f).ctxs = s.ctxs := rfl
@[simp] theorem State.modChan_plans (s : State) (d c i : Nat) (f : Chan → Chan) : (s.modChan d c i f).plans = s.plans := rfl
@[simp] theorem State.modChan_pipes (s : State) (d c i : Nat) (f : Chan → Chan) : (s.modChan d c i f).pipes = s.pipes := rfl
@[simp] theorem State.modChan_dies (s : State) (d c i : Nat) (f : Chan → Chan) : (s.modChan d c i f).dies = s.dies := rfl
@[simp] theorem State.modChan_cores (s : State) (d c i : Nat) (f : Chan → Chan) : (s.modChan d c i f).cores = s.cores := rfl
@[simp] theorem State.modChan_clusters (s : State) (d c i : Nat) (f : Chan → Chan) : (s.modChan d c i f).clusters = s.clusters := rfl
@[simp] theorem State.modChan_engines (s : State) (d c i : Nat) (f : Chan → Chan) : (s.modChan d c i f).engines = s.engines := rfl
@[simp] theorem State.modChan_fab (s : State) (d c i : Nat) (f : Chan → Chan) : (s.modChan d c i f).fab = s.fab := rfl
@[simp] theorem State.modChan_chunks (s : State) (d c i : Nat) (f : Chan → Chan) : (s.modChan d c i f).chunks = s.chunks := rfl
@[simp] theorem State.modChan_aways (s : State) (d c i : Nat) (f : Chan → Chan) : (s.modChan d c i f).aways = s.aways := rfl
@[simp] theorem State.modChan_svc (s : State) (d c i : Nat) (f : Chan → Chan) : (s.modChan d c i f).svc = s.svc := rfl
@[simp] theorem State.modChan_sections (s : State) (d c i : Nat) (f : Chan → Chan) : (s.modChan d c i f).sections = s.sections := rfl
@[simp] theorem State.modChan_irqs (s : State) (d c i : Nat) (f : Chan → Chan) : (s.modChan d c i f).irqs = s.irqs := rfl
@[simp] theorem State.modChan_fresh (s : State) (d c i : Nat) (f : Chan → Chan) : (s.modChan d c i f).fresh = s.fresh := rfl
@[simp] theorem State.modChan_agenda (s : State) (d c i : Nat) (f : Chan → Chan) : (s.modChan d c i f).agenda = s.agenda := rfl
@[simp] theorem State.modChan_eoc (s : State) (d c i : Nat) (f : Chan → Chan) : (s.modChan d c i f).eoc = s.eoc := rfl
@[simp] theorem State.modChan_inputs (s : State) (d c i : Nat) (f : Chan → Chan) : (s.modChan d c i f).inputs = s.inputs := rfl
@[simp] theorem State.modChan_acted (s : State) (d c i : Nat) (f : Chan → Chan) : (s.modChan d c i f).acted = s.acted := rfl
@[simp] theorem State.modChan_closing (s : State) (d c i : Nat) (f : Chan → Chan) : (s.modChan d c i f).closing = s.closing := rfl
@[simp] theorem State.modChan_watched (s : State) (d c i : Nat) (f : Chan → Chan) : (s.modChan d c i f).watched = s.watched := rfl
@[simp] theorem State.modChan_chosen (s : State) (d c i : Nat) (f : Chan → Chan) : (s.modChan d c i f).chosen = s.chosen := rfl
@[simp] theorem State.modChan_issues (s : State) (d c i : Nat) (f : Chan → Chan) : (s.modChan d c i f).issues = s.issues := rfl
@[simp] theorem State.modChan_parks (s : State) (d c i : Nat) (f : Chan → Chan) : (s.modChan d c i f).parks = s.parks := rfl
@[simp] theorem State.modChan_cur (s : State) (d c i : Nat) (f : Chan → Chan) : (s.modChan d c i f).cur = s.cur := rfl
@[simp] theorem State.modChan_ev (s : State) (d c i : Nat) (f : Chan → Chan) : (s.modChan d c i f).ev = s.ev := rfl

@[simp] theorem State.modBar_clock (s : State) (b : BarRef) (f : Bar → Bar) : (s.modBar b f).clock = s.clock := rfl
@[simp] theorem State.modBar_mem (s : State) (b : BarRef) (f : Bar → Bar) : (s.modBar b f).mem = s.mem := rfl
@[simp] theorem State.modBar_scratch (s : State) (b : BarRef) (f : Bar → Bar) : (s.modBar b f).scratch = s.scratch := rfl
@[simp] theorem State.modBar_srace (s : State) (b : BarRef) (f : Bar → Bar) : (s.modBar b f).srace = s.srace := rfl
@[simp] theorem State.modBar_rels (s : State) (b : BarRef) (f : Bar → Bar) : (s.modBar b f).rels = s.rels := rfl
@[simp] theorem State.modBar_atoms (s : State) (b : BarRef) (f : Bar → Bar) : (s.modBar b f).atoms = s.atoms := rfl
@[simp] theorem State.modBar_hw (s : State) (b : BarRef) (f : Bar → Bar) : (s.modBar b f).hw = s.hw := rfl
@[simp] theorem State.modBar_lastRead (s : State) (b : BarRef) (f : Bar → Bar) : (s.modBar b f).lastRead = s.lastRead := rfl
@[simp] theorem State.modBar_teams (s : State) (b : BarRef) (f : Bar → Bar) : (s.modBar b f).teams = s.teams := rfl
@[simp] theorem State.modBar_groups (s : State) (b : BarRef) (f : Bar → Bar) : (s.modBar b f).groups = s.groups := rfl
@[simp] theorem State.modBar_binds (s : State) (b : BarRef) (f : Bar → Bar) : (s.modBar b f).binds = s.binds := rfl
@[simp] theorem State.modBar_cbars (s : State) (b : BarRef) (f : Bar → Bar) : (s.modBar b f).cbars = s.cbars := rfl
@[simp] theorem State.modBar_ctxs (s : State) (b : BarRef) (f : Bar → Bar) : (s.modBar b f).ctxs = s.ctxs := rfl
@[simp] theorem State.modBar_plans (s : State) (b : BarRef) (f : Bar → Bar) : (s.modBar b f).plans = s.plans := rfl
@[simp] theorem State.modBar_pipes (s : State) (b : BarRef) (f : Bar → Bar) : (s.modBar b f).pipes = s.pipes := rfl
@[simp] theorem State.modBar_dies (s : State) (b : BarRef) (f : Bar → Bar) : (s.modBar b f).dies = s.dies := rfl
@[simp] theorem State.modBar_cores (s : State) (b : BarRef) (f : Bar → Bar) : (s.modBar b f).cores = s.cores := rfl
@[simp] theorem State.modBar_clusters (s : State) (b : BarRef) (f : Bar → Bar) : (s.modBar b f).clusters = s.clusters := rfl
@[simp] theorem State.modBar_engines (s : State) (b : BarRef) (f : Bar → Bar) : (s.modBar b f).engines = s.engines := rfl
@[simp] theorem State.modBar_chans (s : State) (b : BarRef) (f : Bar → Bar) : (s.modBar b f).chans = s.chans := rfl
@[simp] theorem State.modBar_fab (s : State) (b : BarRef) (f : Bar → Bar) : (s.modBar b f).fab = s.fab := rfl
@[simp] theorem State.modBar_chunks (s : State) (b : BarRef) (f : Bar → Bar) : (s.modBar b f).chunks = s.chunks := rfl
@[simp] theorem State.modBar_aways (s : State) (b : BarRef) (f : Bar → Bar) : (s.modBar b f).aways = s.aways := rfl
@[simp] theorem State.modBar_svc (s : State) (b : BarRef) (f : Bar → Bar) : (s.modBar b f).svc = s.svc := rfl
@[simp] theorem State.modBar_sections (s : State) (b : BarRef) (f : Bar → Bar) : (s.modBar b f).sections = s.sections := rfl
@[simp] theorem State.modBar_irqs (s : State) (b : BarRef) (f : Bar → Bar) : (s.modBar b f).irqs = s.irqs := rfl
@[simp] theorem State.modBar_fresh (s : State) (b : BarRef) (f : Bar → Bar) : (s.modBar b f).fresh = s.fresh := rfl
@[simp] theorem State.modBar_agenda (s : State) (b : BarRef) (f : Bar → Bar) : (s.modBar b f).agenda = s.agenda := rfl
@[simp] theorem State.modBar_eoc (s : State) (b : BarRef) (f : Bar → Bar) : (s.modBar b f).eoc = s.eoc := rfl
@[simp] theorem State.modBar_inputs (s : State) (b : BarRef) (f : Bar → Bar) : (s.modBar b f).inputs = s.inputs := rfl
@[simp] theorem State.modBar_acted (s : State) (b : BarRef) (f : Bar → Bar) : (s.modBar b f).acted = s.acted := rfl
@[simp] theorem State.modBar_closing (s : State) (b : BarRef) (f : Bar → Bar) : (s.modBar b f).closing = s.closing := rfl
@[simp] theorem State.modBar_watched (s : State) (b : BarRef) (f : Bar → Bar) : (s.modBar b f).watched = s.watched := rfl
@[simp] theorem State.modBar_chosen (s : State) (b : BarRef) (f : Bar → Bar) : (s.modBar b f).chosen = s.chosen := rfl
@[simp] theorem State.modBar_issues (s : State) (b : BarRef) (f : Bar → Bar) : (s.modBar b f).issues = s.issues := rfl
@[simp] theorem State.modBar_parks (s : State) (b : BarRef) (f : Bar → Bar) : (s.modBar b f).parks = s.parks := rfl
@[simp] theorem State.modBar_cur (s : State) (b : BarRef) (f : Bar → Bar) : (s.modBar b f).cur = s.cur := rfl
@[simp] theorem State.modBar_ev (s : State) (b : BarRef) (f : Bar → Bar) : (s.modBar b f).ev = s.ev := rfl

@[simp] theorem State.modChunk_clock (s : State) (x r c : Nat) (f : Chunk → Chunk) : (s.modChunk x r c f).clock = s.clock := rfl
@[simp] theorem State.modChunk_mem (s : State) (x r c : Nat) (f : Chunk → Chunk) : (s.modChunk x r c f).mem = s.mem := rfl
@[simp] theorem State.modChunk_scratch (s : State) (x r c : Nat) (f : Chunk → Chunk) : (s.modChunk x r c f).scratch = s.scratch := rfl
@[simp] theorem State.modChunk_srace (s : State) (x r c : Nat) (f : Chunk → Chunk) : (s.modChunk x r c f).srace = s.srace := rfl
@[simp] theorem State.modChunk_rels (s : State) (x r c : Nat) (f : Chunk → Chunk) : (s.modChunk x r c f).rels = s.rels := rfl
@[simp] theorem State.modChunk_atoms (s : State) (x r c : Nat) (f : Chunk → Chunk) : (s.modChunk x r c f).atoms = s.atoms := rfl
@[simp] theorem State.modChunk_hw (s : State) (x r c : Nat) (f : Chunk → Chunk) : (s.modChunk x r c f).hw = s.hw := rfl
@[simp] theorem State.modChunk_lastRead (s : State) (x r c : Nat) (f : Chunk → Chunk) : (s.modChunk x r c f).lastRead = s.lastRead := rfl
@[simp] theorem State.modChunk_teams (s : State) (x r c : Nat) (f : Chunk → Chunk) : (s.modChunk x r c f).teams = s.teams := rfl
@[simp] theorem State.modChunk_groups (s : State) (x r c : Nat) (f : Chunk → Chunk) : (s.modChunk x r c f).groups = s.groups := rfl
@[simp] theorem State.modChunk_bars (s : State) (x r c : Nat) (f : Chunk → Chunk) : (s.modChunk x r c f).bars = s.bars := rfl
@[simp] theorem State.modChunk_binds (s : State) (x r c : Nat) (f : Chunk → Chunk) : (s.modChunk x r c f).binds = s.binds := rfl
@[simp] theorem State.modChunk_cbars (s : State) (x r c : Nat) (f : Chunk → Chunk) : (s.modChunk x r c f).cbars = s.cbars := rfl
@[simp] theorem State.modChunk_ctxs (s : State) (x r c : Nat) (f : Chunk → Chunk) : (s.modChunk x r c f).ctxs = s.ctxs := rfl
@[simp] theorem State.modChunk_plans (s : State) (x r c : Nat) (f : Chunk → Chunk) : (s.modChunk x r c f).plans = s.plans := rfl
@[simp] theorem State.modChunk_pipes (s : State) (x r c : Nat) (f : Chunk → Chunk) : (s.modChunk x r c f).pipes = s.pipes := rfl
@[simp] theorem State.modChunk_dies (s : State) (x r c : Nat) (f : Chunk → Chunk) : (s.modChunk x r c f).dies = s.dies := rfl
@[simp] theorem State.modChunk_cores (s : State) (x r c : Nat) (f : Chunk → Chunk) : (s.modChunk x r c f).cores = s.cores := rfl
@[simp] theorem State.modChunk_clusters (s : State) (x r c : Nat) (f : Chunk → Chunk) : (s.modChunk x r c f).clusters = s.clusters := rfl
@[simp] theorem State.modChunk_engines (s : State) (x r c : Nat) (f : Chunk → Chunk) : (s.modChunk x r c f).engines = s.engines := rfl
@[simp] theorem State.modChunk_chans (s : State) (x r c : Nat) (f : Chunk → Chunk) : (s.modChunk x r c f).chans = s.chans := rfl
@[simp] theorem State.modChunk_fab (s : State) (x r c : Nat) (f : Chunk → Chunk) : (s.modChunk x r c f).fab = s.fab := rfl
@[simp] theorem State.modChunk_svc (s : State) (x r c : Nat) (f : Chunk → Chunk) : (s.modChunk x r c f).svc = s.svc := rfl
@[simp] theorem State.modChunk_sections (s : State) (x r c : Nat) (f : Chunk → Chunk) : (s.modChunk x r c f).sections = s.sections := rfl
@[simp] theorem State.modChunk_irqs (s : State) (x r c : Nat) (f : Chunk → Chunk) : (s.modChunk x r c f).irqs = s.irqs := rfl
@[simp] theorem State.modChunk_fresh (s : State) (x r c : Nat) (f : Chunk → Chunk) : (s.modChunk x r c f).fresh = s.fresh := rfl
@[simp] theorem State.modChunk_agenda (s : State) (x r c : Nat) (f : Chunk → Chunk) : (s.modChunk x r c f).agenda = s.agenda := rfl
@[simp] theorem State.modChunk_eoc (s : State) (x r c : Nat) (f : Chunk → Chunk) : (s.modChunk x r c f).eoc = s.eoc := rfl
@[simp] theorem State.modChunk_inputs (s : State) (x r c : Nat) (f : Chunk → Chunk) : (s.modChunk x r c f).inputs = s.inputs := rfl
@[simp] theorem State.modChunk_acted (s : State) (x r c : Nat) (f : Chunk → Chunk) : (s.modChunk x r c f).acted = s.acted := rfl
@[simp] theorem State.modChunk_closing (s : State) (x r c : Nat) (f : Chunk → Chunk) : (s.modChunk x r c f).closing = s.closing := rfl
@[simp] theorem State.modChunk_watched (s : State) (x r c : Nat) (f : Chunk → Chunk) : (s.modChunk x r c f).watched = s.watched := rfl
@[simp] theorem State.modChunk_chosen (s : State) (x r c : Nat) (f : Chunk → Chunk) : (s.modChunk x r c f).chosen = s.chosen := rfl
@[simp] theorem State.modChunk_issues (s : State) (x r c : Nat) (f : Chunk → Chunk) : (s.modChunk x r c f).issues = s.issues := rfl
@[simp] theorem State.modChunk_parks (s : State) (x r c : Nat) (f : Chunk → Chunk) : (s.modChunk x r c f).parks = s.parks := rfl
@[simp] theorem State.modChunk_cur (s : State) (x r c : Nat) (f : Chunk → Chunk) : (s.modChunk x r c f).cur = s.cur := rfl
@[simp] theorem State.modChunk_ev (s : State) (x r c : Nat) (f : Chunk → Chunk) : (s.modChunk x r c f).ev = s.ev := rfl

@[simp] theorem State.after_clock (s : State) (n : Nat) (e : Event) : (s.after n e).clock = s.clock := rfl
@[simp] theorem State.after_mem (s : State) (n : Nat) (e : Event) : (s.after n e).mem = s.mem := rfl
@[simp] theorem State.after_scratch (s : State) (n : Nat) (e : Event) : (s.after n e).scratch = s.scratch := rfl
@[simp] theorem State.after_srace (s : State) (n : Nat) (e : Event) : (s.after n e).srace = s.srace := rfl
@[simp] theorem State.after_rels (s : State) (n : Nat) (e : Event) : (s.after n e).rels = s.rels := rfl
@[simp] theorem State.after_atoms (s : State) (n : Nat) (e : Event) : (s.after n e).atoms = s.atoms := rfl
@[simp] theorem State.after_hw (s : State) (n : Nat) (e : Event) : (s.after n e).hw = s.hw := rfl
@[simp] theorem State.after_lastRead (s : State) (n : Nat) (e : Event) : (s.after n e).lastRead = s.lastRead := rfl
@[simp] theorem State.after_teams (s : State) (n : Nat) (e : Event) : (s.after n e).teams = s.teams := rfl
@[simp] theorem State.after_groups (s : State) (n : Nat) (e : Event) : (s.after n e).groups = s.groups := rfl
@[simp] theorem State.after_bars (s : State) (n : Nat) (e : Event) : (s.after n e).bars = s.bars := rfl
@[simp] theorem State.after_binds (s : State) (n : Nat) (e : Event) : (s.after n e).binds = s.binds := rfl
@[simp] theorem State.after_cbars (s : State) (n : Nat) (e : Event) : (s.after n e).cbars = s.cbars := rfl
@[simp] theorem State.after_ctxs (s : State) (n : Nat) (e : Event) : (s.after n e).ctxs = s.ctxs := rfl
@[simp] theorem State.after_plans (s : State) (n : Nat) (e : Event) : (s.after n e).plans = s.plans := rfl
@[simp] theorem State.after_pipes (s : State) (n : Nat) (e : Event) : (s.after n e).pipes = s.pipes := rfl
@[simp] theorem State.after_dies (s : State) (n : Nat) (e : Event) : (s.after n e).dies = s.dies := rfl
@[simp] theorem State.after_cores (s : State) (n : Nat) (e : Event) : (s.after n e).cores = s.cores := rfl
@[simp] theorem State.after_clusters (s : State) (n : Nat) (e : Event) : (s.after n e).clusters = s.clusters := rfl
@[simp] theorem State.after_engines (s : State) (n : Nat) (e : Event) : (s.after n e).engines = s.engines := rfl
@[simp] theorem State.after_chans (s : State) (n : Nat) (e : Event) : (s.after n e).chans = s.chans := rfl
@[simp] theorem State.after_fab (s : State) (n : Nat) (e : Event) : (s.after n e).fab = s.fab := rfl
@[simp] theorem State.after_chunks (s : State) (n : Nat) (e : Event) : (s.after n e).chunks = s.chunks := rfl
@[simp] theorem State.after_aways (s : State) (n : Nat) (e : Event) : (s.after n e).aways = s.aways := rfl
@[simp] theorem State.after_svc (s : State) (n : Nat) (e : Event) : (s.after n e).svc = s.svc := rfl
@[simp] theorem State.after_sections (s : State) (n : Nat) (e : Event) : (s.after n e).sections = s.sections := rfl
@[simp] theorem State.after_irqs (s : State) (n : Nat) (e : Event) : (s.after n e).irqs = s.irqs := rfl
@[simp] theorem State.after_fresh (s : State) (n : Nat) (e : Event) : (s.after n e).fresh = s.fresh := rfl
@[simp] theorem State.after_eoc (s : State) (n : Nat) (e : Event) : (s.after n e).eoc = s.eoc := rfl
@[simp] theorem State.after_inputs (s : State) (n : Nat) (e : Event) : (s.after n e).inputs = s.inputs := rfl
@[simp] theorem State.after_acted (s : State) (n : Nat) (e : Event) : (s.after n e).acted = s.acted := rfl
@[simp] theorem State.after_closing (s : State) (n : Nat) (e : Event) : (s.after n e).closing = s.closing := rfl
@[simp] theorem State.after_watched (s : State) (n : Nat) (e : Event) : (s.after n e).watched = s.watched := rfl
@[simp] theorem State.after_chosen (s : State) (n : Nat) (e : Event) : (s.after n e).chosen = s.chosen := rfl
@[simp] theorem State.after_issues (s : State) (n : Nat) (e : Event) : (s.after n e).issues = s.issues := rfl
@[simp] theorem State.after_parks (s : State) (n : Nat) (e : Event) : (s.after n e).parks = s.parks := rfl
@[simp] theorem State.after_cur (s : State) (n : Nat) (e : Event) : (s.after n e).cur = s.cur := rfl
@[simp] theorem State.after_ev (s : State) (n : Nat) (e : Event) : (s.after n e).ev = s.ev := rfl

@[simp] theorem State.atCycle_clock (s : State) (n : Nat) (e : Event) : (s.at_ n e).clock = s.clock := rfl
@[simp] theorem State.atCycle_mem (s : State) (n : Nat) (e : Event) : (s.at_ n e).mem = s.mem := rfl
@[simp] theorem State.atCycle_scratch (s : State) (n : Nat) (e : Event) : (s.at_ n e).scratch = s.scratch := rfl
@[simp] theorem State.atCycle_srace (s : State) (n : Nat) (e : Event) : (s.at_ n e).srace = s.srace := rfl
@[simp] theorem State.atCycle_rels (s : State) (n : Nat) (e : Event) : (s.at_ n e).rels = s.rels := rfl
@[simp] theorem State.atCycle_atoms (s : State) (n : Nat) (e : Event) : (s.at_ n e).atoms = s.atoms := rfl
@[simp] theorem State.atCycle_hw (s : State) (n : Nat) (e : Event) : (s.at_ n e).hw = s.hw := rfl
@[simp] theorem State.atCycle_lastRead (s : State) (n : Nat) (e : Event) : (s.at_ n e).lastRead = s.lastRead := rfl
@[simp] theorem State.atCycle_teams (s : State) (n : Nat) (e : Event) : (s.at_ n e).teams = s.teams := rfl
@[simp] theorem State.atCycle_groups (s : State) (n : Nat) (e : Event) : (s.at_ n e).groups = s.groups := rfl
@[simp] theorem State.atCycle_bars (s : State) (n : Nat) (e : Event) : (s.at_ n e).bars = s.bars := rfl
@[simp] theorem State.atCycle_binds (s : State) (n : Nat) (e : Event) : (s.at_ n e).binds = s.binds := rfl
@[simp] theorem State.atCycle_cbars (s : State) (n : Nat) (e : Event) : (s.at_ n e).cbars = s.cbars := rfl
@[simp] theorem State.atCycle_ctxs (s : State) (n : Nat) (e : Event) : (s.at_ n e).ctxs = s.ctxs := rfl
@[simp] theorem State.atCycle_plans (s : State) (n : Nat) (e : Event) : (s.at_ n e).plans = s.plans := rfl
@[simp] theorem State.atCycle_pipes (s : State) (n : Nat) (e : Event) : (s.at_ n e).pipes = s.pipes := rfl
@[simp] theorem State.atCycle_dies (s : State) (n : Nat) (e : Event) : (s.at_ n e).dies = s.dies := rfl
@[simp] theorem State.atCycle_cores (s : State) (n : Nat) (e : Event) : (s.at_ n e).cores = s.cores := rfl
@[simp] theorem State.atCycle_clusters (s : State) (n : Nat) (e : Event) : (s.at_ n e).clusters = s.clusters := rfl
@[simp] theorem State.atCycle_engines (s : State) (n : Nat) (e : Event) : (s.at_ n e).engines = s.engines := rfl
@[simp] theorem State.atCycle_chans (s : State) (n : Nat) (e : Event) : (s.at_ n e).chans = s.chans := rfl
@[simp] theorem State.atCycle_fab (s : State) (n : Nat) (e : Event) : (s.at_ n e).fab = s.fab := rfl
@[simp] theorem State.atCycle_chunks (s : State) (n : Nat) (e : Event) : (s.at_ n e).chunks = s.chunks := rfl
@[simp] theorem State.atCycle_aways (s : State) (n : Nat) (e : Event) : (s.at_ n e).aways = s.aways := rfl
@[simp] theorem State.atCycle_svc (s : State) (n : Nat) (e : Event) : (s.at_ n e).svc = s.svc := rfl
@[simp] theorem State.atCycle_sections (s : State) (n : Nat) (e : Event) : (s.at_ n e).sections = s.sections := rfl
@[simp] theorem State.atCycle_irqs (s : State) (n : Nat) (e : Event) : (s.at_ n e).irqs = s.irqs := rfl
@[simp] theorem State.atCycle_fresh (s : State) (n : Nat) (e : Event) : (s.at_ n e).fresh = s.fresh := rfl
@[simp] theorem State.atCycle_eoc (s : State) (n : Nat) (e : Event) : (s.at_ n e).eoc = s.eoc := rfl
@[simp] theorem State.atCycle_inputs (s : State) (n : Nat) (e : Event) : (s.at_ n e).inputs = s.inputs := rfl
@[simp] theorem State.atCycle_acted (s : State) (n : Nat) (e : Event) : (s.at_ n e).acted = s.acted := rfl
@[simp] theorem State.atCycle_closing (s : State) (n : Nat) (e : Event) : (s.at_ n e).closing = s.closing := rfl
@[simp] theorem State.atCycle_watched (s : State) (n : Nat) (e : Event) : (s.at_ n e).watched = s.watched := rfl
@[simp] theorem State.atCycle_chosen (s : State) (n : Nat) (e : Event) : (s.at_ n e).chosen = s.chosen := rfl
@[simp] theorem State.atCycle_issues (s : State) (n : Nat) (e : Event) : (s.at_ n e).issues = s.issues := rfl
@[simp] theorem State.atCycle_parks (s : State) (n : Nat) (e : Event) : (s.at_ n e).parks = s.parks := rfl
@[simp] theorem State.atCycle_cur (s : State) (n : Nat) (e : Event) : (s.at_ n e).cur = s.cur := rfl
@[simp] theorem State.atCycle_ev (s : State) (n : Nat) (e : Event) : (s.at_ n e).ev = s.ev := rfl

@[simp] theorem State.memPut_clock (s : State) (a : Nat) (bs : List Byte) : (s.memPut a bs).clock = s.clock := rfl
@[simp] theorem State.memPut_scratch (s : State) (a : Nat) (bs : List Byte) : (s.memPut a bs).scratch = s.scratch := rfl
@[simp] theorem State.memPut_srace (s : State) (a : Nat) (bs : List Byte) : (s.memPut a bs).srace = s.srace := rfl
@[simp] theorem State.memPut_rels (s : State) (a : Nat) (bs : List Byte) : (s.memPut a bs).rels = s.rels := rfl
@[simp] theorem State.memPut_atoms (s : State) (a : Nat) (bs : List Byte) : (s.memPut a bs).atoms = s.atoms := rfl
@[simp] theorem State.memPut_hw (s : State) (a : Nat) (bs : List Byte) : (s.memPut a bs).hw = s.hw := rfl
@[simp] theorem State.memPut_lastRead (s : State) (a : Nat) (bs : List Byte) : (s.memPut a bs).lastRead = s.lastRead := rfl
@[simp] theorem State.memPut_teams (s : State) (a : Nat) (bs : List Byte) : (s.memPut a bs).teams = s.teams := rfl
@[simp] theorem State.memPut_groups (s : State) (a : Nat) (bs : List Byte) : (s.memPut a bs).groups = s.groups := rfl
@[simp] theorem State.memPut_bars (s : State) (a : Nat) (bs : List Byte) : (s.memPut a bs).bars = s.bars := rfl
@[simp] theorem State.memPut_binds (s : State) (a : Nat) (bs : List Byte) : (s.memPut a bs).binds = s.binds := rfl
@[simp] theorem State.memPut_cbars (s : State) (a : Nat) (bs : List Byte) : (s.memPut a bs).cbars = s.cbars := rfl
@[simp] theorem State.memPut_ctxs (s : State) (a : Nat) (bs : List Byte) : (s.memPut a bs).ctxs = s.ctxs := rfl
@[simp] theorem State.memPut_plans (s : State) (a : Nat) (bs : List Byte) : (s.memPut a bs).plans = s.plans := rfl
@[simp] theorem State.memPut_pipes (s : State) (a : Nat) (bs : List Byte) : (s.memPut a bs).pipes = s.pipes := rfl
@[simp] theorem State.memPut_dies (s : State) (a : Nat) (bs : List Byte) : (s.memPut a bs).dies = s.dies := rfl
@[simp] theorem State.memPut_cores (s : State) (a : Nat) (bs : List Byte) : (s.memPut a bs).cores = s.cores := rfl
@[simp] theorem State.memPut_clusters (s : State) (a : Nat) (bs : List Byte) : (s.memPut a bs).clusters = s.clusters := rfl
@[simp] theorem State.memPut_engines (s : State) (a : Nat) (bs : List Byte) : (s.memPut a bs).engines = s.engines := rfl
@[simp] theorem State.memPut_chans (s : State) (a : Nat) (bs : List Byte) : (s.memPut a bs).chans = s.chans := rfl
@[simp] theorem State.memPut_fab (s : State) (a : Nat) (bs : List Byte) : (s.memPut a bs).fab = s.fab := rfl
@[simp] theorem State.memPut_chunks (s : State) (a : Nat) (bs : List Byte) : (s.memPut a bs).chunks = s.chunks := rfl
@[simp] theorem State.memPut_aways (s : State) (a : Nat) (bs : List Byte) : (s.memPut a bs).aways = s.aways := rfl
@[simp] theorem State.memPut_svc (s : State) (a : Nat) (bs : List Byte) : (s.memPut a bs).svc = s.svc := rfl
@[simp] theorem State.memPut_sections (s : State) (a : Nat) (bs : List Byte) : (s.memPut a bs).sections = s.sections := rfl
@[simp] theorem State.memPut_irqs (s : State) (a : Nat) (bs : List Byte) : (s.memPut a bs).irqs = s.irqs := rfl
@[simp] theorem State.memPut_fresh (s : State) (a : Nat) (bs : List Byte) : (s.memPut a bs).fresh = s.fresh := rfl
@[simp] theorem State.memPut_agenda (s : State) (a : Nat) (bs : List Byte) : (s.memPut a bs).agenda = s.agenda := rfl
@[simp] theorem State.memPut_eoc (s : State) (a : Nat) (bs : List Byte) : (s.memPut a bs).eoc = s.eoc := rfl
@[simp] theorem State.memPut_inputs (s : State) (a : Nat) (bs : List Byte) : (s.memPut a bs).inputs = s.inputs := rfl
@[simp] theorem State.memPut_acted (s : State) (a : Nat) (bs : List Byte) : (s.memPut a bs).acted = s.acted := rfl
@[simp] theorem State.memPut_closing (s : State) (a : Nat) (bs : List Byte) : (s.memPut a bs).closing = s.closing := rfl
@[simp] theorem State.memPut_watched (s : State) (a : Nat) (bs : List Byte) : (s.memPut a bs).watched = s.watched := rfl
@[simp] theorem State.memPut_chosen (s : State) (a : Nat) (bs : List Byte) : (s.memPut a bs).chosen = s.chosen := rfl
@[simp] theorem State.memPut_issues (s : State) (a : Nat) (bs : List Byte) : (s.memPut a bs).issues = s.issues := rfl
@[simp] theorem State.memPut_parks (s : State) (a : Nat) (bs : List Byte) : (s.memPut a bs).parks = s.parks := rfl
@[simp] theorem State.memPut_cur (s : State) (a : Nat) (bs : List Byte) : (s.memPut a bs).cur = s.cur := rfl
@[simp] theorem State.memPut_ev (s : State) (a : Nat) (bs : List Byte) : (s.memPut a bs).ev = s.ev := rfl

@[simp] theorem State.scrPut_clock (s : State) (a : Nat) (bs : List Byte) : (s.scrPut a bs).clock = s.clock := rfl
@[simp] theorem State.scrPut_mem (s : State) (a : Nat) (bs : List Byte) : (s.scrPut a bs).mem = s.mem := rfl
@[simp] theorem State.scrPut_srace (s : State) (a : Nat) (bs : List Byte) : (s.scrPut a bs).srace = s.srace := rfl
@[simp] theorem State.scrPut_rels (s : State) (a : Nat) (bs : List Byte) : (s.scrPut a bs).rels = s.rels := rfl
@[simp] theorem State.scrPut_atoms (s : State) (a : Nat) (bs : List Byte) : (s.scrPut a bs).atoms = s.atoms := rfl
@[simp] theorem State.scrPut_hw (s : State) (a : Nat) (bs : List Byte) : (s.scrPut a bs).hw = s.hw := rfl
@[simp] theorem State.scrPut_lastRead (s : State) (a : Nat) (bs : List Byte) : (s.scrPut a bs).lastRead = s.lastRead := rfl
@[simp] theorem State.scrPut_teams (s : State) (a : Nat) (bs : List Byte) : (s.scrPut a bs).teams = s.teams := rfl
@[simp] theorem State.scrPut_groups (s : State) (a : Nat) (bs : List Byte) : (s.scrPut a bs).groups = s.groups := rfl
@[simp] theorem State.scrPut_bars (s : State) (a : Nat) (bs : List Byte) : (s.scrPut a bs).bars = s.bars := rfl
@[simp] theorem State.scrPut_binds (s : State) (a : Nat) (bs : List Byte) : (s.scrPut a bs).binds = s.binds := rfl
@[simp] theorem State.scrPut_cbars (s : State) (a : Nat) (bs : List Byte) : (s.scrPut a bs).cbars = s.cbars := rfl
@[simp] theorem State.scrPut_ctxs (s : State) (a : Nat) (bs : List Byte) : (s.scrPut a bs).ctxs = s.ctxs := rfl
@[simp] theorem State.scrPut_plans (s : State) (a : Nat) (bs : List Byte) : (s.scrPut a bs).plans = s.plans := rfl
@[simp] theorem State.scrPut_pipes (s : State) (a : Nat) (bs : List Byte) : (s.scrPut a bs).pipes = s.pipes := rfl
@[simp] theorem State.scrPut_dies (s : State) (a : Nat) (bs : List Byte) : (s.scrPut a bs).dies = s.dies := rfl
@[simp] theorem State.scrPut_cores (s : State) (a : Nat) (bs : List Byte) : (s.scrPut a bs).cores = s.cores := rfl
@[simp] theorem State.scrPut_clusters (s : State) (a : Nat) (bs : List Byte) : (s.scrPut a bs).clusters = s.clusters := rfl
@[simp] theorem State.scrPut_engines (s : State) (a : Nat) (bs : List Byte) : (s.scrPut a bs).engines = s.engines := rfl
@[simp] theorem State.scrPut_chans (s : State) (a : Nat) (bs : List Byte) : (s.scrPut a bs).chans = s.chans := rfl
@[simp] theorem State.scrPut_fab (s : State) (a : Nat) (bs : List Byte) : (s.scrPut a bs).fab = s.fab := rfl
@[simp] theorem State.scrPut_chunks (s : State) (a : Nat) (bs : List Byte) : (s.scrPut a bs).chunks = s.chunks := rfl
@[simp] theorem State.scrPut_aways (s : State) (a : Nat) (bs : List Byte) : (s.scrPut a bs).aways = s.aways := rfl
@[simp] theorem State.scrPut_svc (s : State) (a : Nat) (bs : List Byte) : (s.scrPut a bs).svc = s.svc := rfl
@[simp] theorem State.scrPut_sections (s : State) (a : Nat) (bs : List Byte) : (s.scrPut a bs).sections = s.sections := rfl
@[simp] theorem State.scrPut_irqs (s : State) (a : Nat) (bs : List Byte) : (s.scrPut a bs).irqs = s.irqs := rfl
@[simp] theorem State.scrPut_fresh (s : State) (a : Nat) (bs : List Byte) : (s.scrPut a bs).fresh = s.fresh := rfl
@[simp] theorem State.scrPut_agenda (s : State) (a : Nat) (bs : List Byte) : (s.scrPut a bs).agenda = s.agenda := rfl
@[simp] theorem State.scrPut_eoc (s : State) (a : Nat) (bs : List Byte) : (s.scrPut a bs).eoc = s.eoc := rfl
@[simp] theorem State.scrPut_inputs (s : State) (a : Nat) (bs : List Byte) : (s.scrPut a bs).inputs = s.inputs := rfl
@[simp] theorem State.scrPut_acted (s : State) (a : Nat) (bs : List Byte) : (s.scrPut a bs).acted = s.acted := rfl
@[simp] theorem State.scrPut_closing (s : State) (a : Nat) (bs : List Byte) : (s.scrPut a bs).closing = s.closing := rfl
@[simp] theorem State.scrPut_watched (s : State) (a : Nat) (bs : List Byte) : (s.scrPut a bs).watched = s.watched := rfl
@[simp] theorem State.scrPut_chosen (s : State) (a : Nat) (bs : List Byte) : (s.scrPut a bs).chosen = s.chosen := rfl
@[simp] theorem State.scrPut_issues (s : State) (a : Nat) (bs : List Byte) : (s.scrPut a bs).issues = s.issues := rfl
@[simp] theorem State.scrPut_parks (s : State) (a : Nat) (bs : List Byte) : (s.scrPut a bs).parks = s.parks := rfl
@[simp] theorem State.scrPut_cur (s : State) (a : Nat) (bs : List Byte) : (s.scrPut a bs).cur = s.cur := rfl
@[simp] theorem State.scrPut_ev (s : State) (a : Nat) (bs : List Byte) : (s.scrPut a bs).ev = s.ev := rfl

@[simp] theorem State.setReg_clock (s : State) (d o : Nat) (v : W64) : (s.setReg d o v).clock = s.clock := rfl
@[simp] theorem State.setReg_mem (s : State) (d o : Nat) (v : W64) : (s.setReg d o v).mem = s.mem := rfl
@[simp] theorem State.setReg_scratch (s : State) (d o : Nat) (v : W64) : (s.setReg d o v).scratch = s.scratch := rfl
@[simp] theorem State.setReg_srace (s : State) (d o : Nat) (v : W64) : (s.setReg d o v).srace = s.srace := rfl
@[simp] theorem State.setReg_rels (s : State) (d o : Nat) (v : W64) : (s.setReg d o v).rels = s.rels := rfl
@[simp] theorem State.setReg_atoms (s : State) (d o : Nat) (v : W64) : (s.setReg d o v).atoms = s.atoms := rfl
@[simp] theorem State.setReg_lastRead (s : State) (d o : Nat) (v : W64) : (s.setReg d o v).lastRead = s.lastRead := rfl
@[simp] theorem State.setReg_teams (s : State) (d o : Nat) (v : W64) : (s.setReg d o v).teams = s.teams := rfl
@[simp] theorem State.setReg_groups (s : State) (d o : Nat) (v : W64) : (s.setReg d o v).groups = s.groups := rfl
@[simp] theorem State.setReg_bars (s : State) (d o : Nat) (v : W64) : (s.setReg d o v).bars = s.bars := rfl
@[simp] theorem State.setReg_binds (s : State) (d o : Nat) (v : W64) : (s.setReg d o v).binds = s.binds := rfl
@[simp] theorem State.setReg_cbars (s : State) (d o : Nat) (v : W64) : (s.setReg d o v).cbars = s.cbars := rfl
@[simp] theorem State.setReg_ctxs (s : State) (d o : Nat) (v : W64) : (s.setReg d o v).ctxs = s.ctxs := rfl
@[simp] theorem State.setReg_plans (s : State) (d o : Nat) (v : W64) : (s.setReg d o v).plans = s.plans := rfl
@[simp] theorem State.setReg_pipes (s : State) (d o : Nat) (v : W64) : (s.setReg d o v).pipes = s.pipes := rfl
@[simp] theorem State.setReg_dies (s : State) (d o : Nat) (v : W64) : (s.setReg d o v).dies = s.dies := rfl
@[simp] theorem State.setReg_cores (s : State) (d o : Nat) (v : W64) : (s.setReg d o v).cores = s.cores := rfl
@[simp] theorem State.setReg_clusters (s : State) (d o : Nat) (v : W64) : (s.setReg d o v).clusters = s.clusters := rfl
@[simp] theorem State.setReg_engines (s : State) (d o : Nat) (v : W64) : (s.setReg d o v).engines = s.engines := rfl
@[simp] theorem State.setReg_chans (s : State) (d o : Nat) (v : W64) : (s.setReg d o v).chans = s.chans := rfl
@[simp] theorem State.setReg_fab (s : State) (d o : Nat) (v : W64) : (s.setReg d o v).fab = s.fab := rfl
@[simp] theorem State.setReg_chunks (s : State) (d o : Nat) (v : W64) : (s.setReg d o v).chunks = s.chunks := rfl
@[simp] theorem State.setReg_aways (s : State) (d o : Nat) (v : W64) : (s.setReg d o v).aways = s.aways := rfl
@[simp] theorem State.setReg_svc (s : State) (d o : Nat) (v : W64) : (s.setReg d o v).svc = s.svc := rfl
@[simp] theorem State.setReg_sections (s : State) (d o : Nat) (v : W64) : (s.setReg d o v).sections = s.sections := rfl
@[simp] theorem State.setReg_irqs (s : State) (d o : Nat) (v : W64) : (s.setReg d o v).irqs = s.irqs := rfl
@[simp] theorem State.setReg_fresh (s : State) (d o : Nat) (v : W64) : (s.setReg d o v).fresh = s.fresh := rfl
@[simp] theorem State.setReg_agenda (s : State) (d o : Nat) (v : W64) : (s.setReg d o v).agenda = s.agenda := rfl
@[simp] theorem State.setReg_eoc (s : State) (d o : Nat) (v : W64) : (s.setReg d o v).eoc = s.eoc := rfl
@[simp] theorem State.setReg_inputs (s : State) (d o : Nat) (v : W64) : (s.setReg d o v).inputs = s.inputs := rfl
@[simp] theorem State.setReg_acted (s : State) (d o : Nat) (v : W64) : (s.setReg d o v).acted = s.acted := rfl
@[simp] theorem State.setReg_closing (s : State) (d o : Nat) (v : W64) : (s.setReg d o v).closing = s.closing := rfl
@[simp] theorem State.setReg_watched (s : State) (d o : Nat) (v : W64) : (s.setReg d o v).watched = s.watched := rfl
@[simp] theorem State.setReg_chosen (s : State) (d o : Nat) (v : W64) : (s.setReg d o v).chosen = s.chosen := rfl
@[simp] theorem State.setReg_issues (s : State) (d o : Nat) (v : W64) : (s.setReg d o v).issues = s.issues := rfl
@[simp] theorem State.setReg_parks (s : State) (d o : Nat) (v : W64) : (s.setReg d o v).parks = s.parks := rfl
@[simp] theorem State.setReg_cur (s : State) (d o : Nat) (v : W64) : (s.setReg d o v).cur = s.cur := rfl
@[simp] theorem State.setReg_ev (s : State) (d o : Nat) (v : W64) : (s.setReg d o v).ev = s.ev := rfl

@[simp] theorem State.setFld_clock (s : State) (d o i j v : Nat) : (s.setFld d o i j v).clock = s.clock := rfl
@[simp] theorem State.setFld_mem (s : State) (d o i j v : Nat) : (s.setFld d o i j v).mem = s.mem := rfl
@[simp] theorem State.setFld_scratch (s : State) (d o i j v : Nat) : (s.setFld d o i j v).scratch = s.scratch := rfl
@[simp] theorem State.setFld_srace (s : State) (d o i j v : Nat) : (s.setFld d o i j v).srace = s.srace := rfl
@[simp] theorem State.setFld_rels (s : State) (d o i j v : Nat) : (s.setFld d o i j v).rels = s.rels := rfl
@[simp] theorem State.setFld_atoms (s : State) (d o i j v : Nat) : (s.setFld d o i j v).atoms = s.atoms := rfl
@[simp] theorem State.setFld_lastRead (s : State) (d o i j v : Nat) : (s.setFld d o i j v).lastRead = s.lastRead := rfl
@[simp] theorem State.setFld_teams (s : State) (d o i j v : Nat) : (s.setFld d o i j v).teams = s.teams := rfl
@[simp] theorem State.setFld_groups (s : State) (d o i j v : Nat) : (s.setFld d o i j v).groups = s.groups := rfl
@[simp] theorem State.setFld_bars (s : State) (d o i j v : Nat) : (s.setFld d o i j v).bars = s.bars := rfl
@[simp] theorem State.setFld_binds (s : State) (d o i j v : Nat) : (s.setFld d o i j v).binds = s.binds := rfl
@[simp] theorem State.setFld_cbars (s : State) (d o i j v : Nat) : (s.setFld d o i j v).cbars = s.cbars := rfl
@[simp] theorem State.setFld_ctxs (s : State) (d o i j v : Nat) : (s.setFld d o i j v).ctxs = s.ctxs := rfl
@[simp] theorem State.setFld_plans (s : State) (d o i j v : Nat) : (s.setFld d o i j v).plans = s.plans := rfl
@[simp] theorem State.setFld_pipes (s : State) (d o i j v : Nat) : (s.setFld d o i j v).pipes = s.pipes := rfl
@[simp] theorem State.setFld_dies (s : State) (d o i j v : Nat) : (s.setFld d o i j v).dies = s.dies := rfl
@[simp] theorem State.setFld_cores (s : State) (d o i j v : Nat) : (s.setFld d o i j v).cores = s.cores := rfl
@[simp] theorem State.setFld_clusters (s : State) (d o i j v : Nat) : (s.setFld d o i j v).clusters = s.clusters := rfl
@[simp] theorem State.setFld_engines (s : State) (d o i j v : Nat) : (s.setFld d o i j v).engines = s.engines := rfl
@[simp] theorem State.setFld_chans (s : State) (d o i j v : Nat) : (s.setFld d o i j v).chans = s.chans := rfl
@[simp] theorem State.setFld_fab (s : State) (d o i j v : Nat) : (s.setFld d o i j v).fab = s.fab := rfl
@[simp] theorem State.setFld_chunks (s : State) (d o i j v : Nat) : (s.setFld d o i j v).chunks = s.chunks := rfl
@[simp] theorem State.setFld_aways (s : State) (d o i j v : Nat) : (s.setFld d o i j v).aways = s.aways := rfl
@[simp] theorem State.setFld_svc (s : State) (d o i j v : Nat) : (s.setFld d o i j v).svc = s.svc := rfl
@[simp] theorem State.setFld_sections (s : State) (d o i j v : Nat) : (s.setFld d o i j v).sections = s.sections := rfl
@[simp] theorem State.setFld_irqs (s : State) (d o i j v : Nat) : (s.setFld d o i j v).irqs = s.irqs := rfl
@[simp] theorem State.setFld_fresh (s : State) (d o i j v : Nat) : (s.setFld d o i j v).fresh = s.fresh := rfl
@[simp] theorem State.setFld_agenda (s : State) (d o i j v : Nat) : (s.setFld d o i j v).agenda = s.agenda := rfl
@[simp] theorem State.setFld_eoc (s : State) (d o i j v : Nat) : (s.setFld d o i j v).eoc = s.eoc := rfl
@[simp] theorem State.setFld_inputs (s : State) (d o i j v : Nat) : (s.setFld d o i j v).inputs = s.inputs := rfl
@[simp] theorem State.setFld_acted (s : State) (d o i j v : Nat) : (s.setFld d o i j v).acted = s.acted := rfl
@[simp] theorem State.setFld_closing (s : State) (d o i j v : Nat) : (s.setFld d o i j v).closing = s.closing := rfl
@[simp] theorem State.setFld_watched (s : State) (d o i j v : Nat) : (s.setFld d o i j v).watched = s.watched := rfl
@[simp] theorem State.setFld_chosen (s : State) (d o i j v : Nat) : (s.setFld d o i j v).chosen = s.chosen := rfl
@[simp] theorem State.setFld_issues (s : State) (d o i j v : Nat) : (s.setFld d o i j v).issues = s.issues := rfl
@[simp] theorem State.setFld_parks (s : State) (d o i j v : Nat) : (s.setFld d o i j v).parks = s.parks := rfl
@[simp] theorem State.setFld_cur (s : State) (d o i j v : Nat) : (s.setFld d o i j v).cur = s.cur := rfl
@[simp] theorem State.setFld_ev (s : State) (d o i j v : Nat) : (s.setFld d o i j v).ev = s.ev := rfl

@[simp] theorem State.bump_clock (s : State) (d o i j n : Nat) : (s.bump d o i j n).clock = s.clock := rfl
@[simp] theorem State.bump_mem (s : State) (d o i j n : Nat) : (s.bump d o i j n).mem = s.mem := rfl
@[simp] theorem State.bump_scratch (s : State) (d o i j n : Nat) : (s.bump d o i j n).scratch = s.scratch := rfl
@[simp] theorem State.bump_srace (s : State) (d o i j n : Nat) : (s.bump d o i j n).srace = s.srace := rfl
@[simp] theorem State.bump_rels (s : State) (d o i j n : Nat) : (s.bump d o i j n).rels = s.rels := rfl
@[simp] theorem State.bump_atoms (s : State) (d o i j n : Nat) : (s.bump d o i j n).atoms = s.atoms := rfl
@[simp] theorem State.bump_lastRead (s : State) (d o i j n : Nat) : (s.bump d o i j n).lastRead = s.lastRead := rfl
@[simp] theorem State.bump_teams (s : State) (d o i j n : Nat) : (s.bump d o i j n).teams = s.teams := rfl
@[simp] theorem State.bump_groups (s : State) (d o i j n : Nat) : (s.bump d o i j n).groups = s.groups := rfl
@[simp] theorem State.bump_bars (s : State) (d o i j n : Nat) : (s.bump d o i j n).bars = s.bars := rfl
@[simp] theorem State.bump_binds (s : State) (d o i j n : Nat) : (s.bump d o i j n).binds = s.binds := rfl
@[simp] theorem State.bump_cbars (s : State) (d o i j n : Nat) : (s.bump d o i j n).cbars = s.cbars := rfl
@[simp] theorem State.bump_ctxs (s : State) (d o i j n : Nat) : (s.bump d o i j n).ctxs = s.ctxs := rfl
@[simp] theorem State.bump_plans (s : State) (d o i j n : Nat) : (s.bump d o i j n).plans = s.plans := rfl
@[simp] theorem State.bump_pipes (s : State) (d o i j n : Nat) : (s.bump d o i j n).pipes = s.pipes := rfl
@[simp] theorem State.bump_dies (s : State) (d o i j n : Nat) : (s.bump d o i j n).dies = s.dies := rfl
@[simp] theorem State.bump_cores (s : State) (d o i j n : Nat) : (s.bump d o i j n).cores = s.cores := rfl
@[simp] theorem State.bump_clusters (s : State) (d o i j n : Nat) : (s.bump d o i j n).clusters = s.clusters := rfl
@[simp] theorem State.bump_engines (s : State) (d o i j n : Nat) : (s.bump d o i j n).engines = s.engines := rfl
@[simp] theorem State.bump_chans (s : State) (d o i j n : Nat) : (s.bump d o i j n).chans = s.chans := rfl
@[simp] theorem State.bump_fab (s : State) (d o i j n : Nat) : (s.bump d o i j n).fab = s.fab := rfl
@[simp] theorem State.bump_chunks (s : State) (d o i j n : Nat) : (s.bump d o i j n).chunks = s.chunks := rfl
@[simp] theorem State.bump_aways (s : State) (d o i j n : Nat) : (s.bump d o i j n).aways = s.aways := rfl
@[simp] theorem State.bump_svc (s : State) (d o i j n : Nat) : (s.bump d o i j n).svc = s.svc := rfl
@[simp] theorem State.bump_sections (s : State) (d o i j n : Nat) : (s.bump d o i j n).sections = s.sections := rfl
@[simp] theorem State.bump_irqs (s : State) (d o i j n : Nat) : (s.bump d o i j n).irqs = s.irqs := rfl
@[simp] theorem State.bump_fresh (s : State) (d o i j n : Nat) : (s.bump d o i j n).fresh = s.fresh := rfl
@[simp] theorem State.bump_agenda (s : State) (d o i j n : Nat) : (s.bump d o i j n).agenda = s.agenda := rfl
@[simp] theorem State.bump_eoc (s : State) (d o i j n : Nat) : (s.bump d o i j n).eoc = s.eoc := rfl
@[simp] theorem State.bump_inputs (s : State) (d o i j n : Nat) : (s.bump d o i j n).inputs = s.inputs := rfl
@[simp] theorem State.bump_acted (s : State) (d o i j n : Nat) : (s.bump d o i j n).acted = s.acted := rfl
@[simp] theorem State.bump_closing (s : State) (d o i j n : Nat) : (s.bump d o i j n).closing = s.closing := rfl
@[simp] theorem State.bump_watched (s : State) (d o i j n : Nat) : (s.bump d o i j n).watched = s.watched := rfl
@[simp] theorem State.bump_chosen (s : State) (d o i j n : Nat) : (s.bump d o i j n).chosen = s.chosen := rfl
@[simp] theorem State.bump_issues (s : State) (d o i j n : Nat) : (s.bump d o i j n).issues = s.issues := rfl
@[simp] theorem State.bump_parks (s : State) (d o i j n : Nat) : (s.bump d o i j n).parks = s.parks := rfl
@[simp] theorem State.bump_cur (s : State) (d o i j n : Nat) : (s.bump d o i j n).cur = s.cur := rfl
@[simp] theorem State.bump_ev (s : State) (d o i j n : Nat) : (s.bump d o i j n).ev = s.ev := rfl

/-! What the updates write. -/

@[simp] theorem State.modTeam_teams (s : State) (t : TeamRef) (f : Team → Team) :
    (s.modTeam t f).teams = updIf s.teams (·.ref == t) f := rfl
@[simp] theorem State.memPut_mem (s : State) (a : Nat) (bs : List Byte) : (s.memPut a bs).mem = cellsPut s.mem a bs := rfl
@[simp] theorem State.scrPut_scratch (s : State) (a : Nat) (bs : List Byte) :
    (s.scrPut a bs).scratch = cellsPut s.scratch a bs := rfl
@[simp] theorem State.after_agenda (s : State) (n : Nat) (e : Event) :
    (s.after n e).agenda = s.agenda ++ [(s.clock + n, e)] := rfl

/-- The update of entries keeps their number. -/
@[simp] theorem updIf_length {α : Type} (l : List α) (p : α → Bool) (f : α → α) : (updIf l p f).length = l.length := by
  simp [updIf]

theorem find_updIf {α : Type} (l : List α) (p : α → Bool) (f : α → α) (hf : ∀ x, p x = true → p (f x) = true) :
    (updIf l p f).find? p = (l.find? p).map f := by
  induction l with
  | nil => rfl
  | cons x l ih =>
    unfold updIf at ih ⊢
    rw [List.map_cons, List.find?_cons, List.find?_cons, ih]
    cases h : p x
    · simp [h]
    · simp [hf x h]

theorem find_updIf_ne {α : Type} (l : List α) (p q : α → Bool) (f : α → α)
    (hf : ∀ x, p x = true → q x = false ∧ q (f x) = false) : (updIf l p f).find? q = l.find? q := by
  induction l with
  | nil => rfl
  | cons x l ih =>
    unfold updIf at ih ⊢
    rw [List.map_cons, List.find?_cons, List.find?_cons, ih]
    cases h : p x
    · simp
    · simp [hf x h]

/-- The team named after an update of it that keeps its name. -/
theorem State.team?_modTeam (s : State) (t : TeamRef) (f : Team → Team) (hf : ∀ x, (f x).ref = x.ref) :
    (s.modTeam t f).team? t = (s.team? t).map f :=
  find_updIf _ _ _ fun x h => by simpa [hf] using h

/-- Other teams keep their state. -/
theorem State.team?_modTeam_ne (s : State) (t u : TeamRef) (f : Team → Team) (hf : ∀ x, (f x).ref = x.ref) (hne : u ≠ t) :
    (s.modTeam t f).team? u = s.team? u := by
  refine find_updIf_ne _ _ _ _ fun x h => ?_
  have hx : x.ref = t := by simpa using h
  have : ¬ t = u := fun e => hne e.symm
  simp [hf, hx, this]

/-- The lanes of a mask take an update; the others keep their state. -/
theorem State.lane_modLanes (s : State) (t : TeamRef) (m : Lanes) (f : Nat → Lane → Lane) (tm : Team)
    (h : s.team? t = some tm) (l : Nat) (hl : l < tm.lanes.length) :
    (s.modLanes t m f).lane t l = if m.getLsbD l then f l (tm.lane l) else tm.lane l := by
  have e := State.team?_modTeam s t
    (fun x => { x with lanes := x.lanes.zipIdx.map fun (y, i) => if m.getLsbD i then f i y else y }) fun _ => rfl
  unfold State.lane State.modLanes
  rw [e, h]
  simp only [Option.map_some, Team.lane, List.getD_eq_getElem?_getD, List.getElem?_map, List.getElem?_zipIdx]
  rw [List.getElem?_eq_getElem hl]
  simp

/-! ### Later k results -/

/-- No contention: no k result comes later. -/
@[simp] theorem State.lateK_zero (s : State) (t : TeamRef) (m : Nat) : s.lateK t m 0 = s := rfl

/-- Later k results change their own team and the agenda alone. -/
theorem State.lateK_frame (s : State) (t : TeamRef) (m n : Nat) :
    s.lateK t m n = { s with teams := (s.lateK t m n).teams, agenda := (s.lateK t m n).agenda } := by
  unfold State.lateK
  split
  · rfl
  · split <;> rfl

end Sys2Proof.Machine
end

