-- ==== Sys2Proof/Laws/Issue.lean ====
section
/-! SUPPORT. Everything that one issue can do: which lanes execute, and how the lanes go on. -/

namespace Sys2Proof.Machine

/-! ### Masks of lanes -/

theorem mem_lanesOf (m : Lanes) (l : Nat) : l ∈ lanesOf m ↔ l < 32 ∧ m.getLsbD l = true := by
  simp [lanesOf]

theorem lt_of_getLsbD (m : Lanes) (l : Nat) (h : m.getLsbD l = true) : l < 32 := by
  by_contra hc
  rw [BitVec.getLsbD_of_ge _ _ (by omega)] at h
  cases h

theorem getLsbD_maskOf_aux (ls : List Nat) (m : Lanes) (l : Nat) :
    (ls.foldl (fun m l => m ||| (1#32 <<< l)) m).getLsbD l = (m.getLsbD l || (decide (l < 32) && decide (l ∈ ls))) := by
  induction ls generalizing m with
  | nil => simp
  | cons x t ih =>
    rw [List.foldl_cons, ih]
    rw [BitVec.getLsbD_or, BitVec.getLsbD_shiftLeft, BitVec.getLsbD_one]
    by_cases hl : l < 32 <;> by_cases hx : l < x <;> by_cases he : l = x <;> by_cases ht : l ∈ t <;>
      simp [hl, hx, he, ht] <;> omega

theorem getLsbD_maskOf (ls : List Nat) (l : Nat) : (maskOf ls).getLsbD l = (decide (l < 32) && decide (l ∈ ls)) := by
  simp [maskOf, getLsbD_maskOf_aux]

theorem getLsbD_pick (m : Lanes) (p : Nat → Bool) (l : Nat) : (pick m p).getLsbD l = (m.getLsbD l && p l) := by
  rw [pick, getLsbD_maskOf]
  by_cases h : m.getLsbD l = true
  · have := lt_of_getLsbD m l h
    simp [mem_lanesOf, h, this]
  · simp [mem_lanesOf, h]

theorem pick_eq_self (m : Lanes) (p : Nat → Bool) (h : ∀ l, m.getLsbD l = true → p l = true) : pick m p = m := by
  apply BitVec.eq_of_getLsbD_eq
  intro l _
  rw [getLsbD_pick]
  by_cases hm : m.getLsbD l = true
  · simp [hm, h l hm]
  · simp [hm]

theorem lanesOf_zero : lanesOf 0 = [] := by decide

theorem mem_lanes_envOf (iss : Issue) (tm : Team) (v : View) (l : Nat) :
    l ∈ (envOf iss tm v).lanes ↔ (issueE iss tm v).getLsbD l = true := by
  rw [Env.lanes, mem_lanesOf]
  exact ⟨fun h => h.2, fun h => ⟨lt_of_getLsbD _ _ h, h⟩⟩

/-! ### Checks before the effect -/

variable {s : State} {iss : Issue} {tm : Team} {v : View}

theorem filterMap_lanesOf_nil {β : Type} (m : Lanes) (f : Nat → Option β) (h : ∀ l, m.getLsbD l = true → f l = none) :
    (lanesOf m).filterMap f = [] := by
  rw [List.filterMap_eq_nil_iff]
  exact fun l hl => h l ((mem_lanesOf m l).1 hl).2

/-- Where no check fails, no lane traps, and E is the lanes whose guard is true. -/
theorem front_ready (h : Ready s iss tm v) :
    front { s with cur := none } iss tm v = ⟨[], issueOff iss tm v, envOf iss tm v⟩ := by
  have h1 : lookTraps tm v iss.lanes = [] :=
    filterMap_lanesOf_nil _ _ fun l hl => by rw [h.guards l hl]; rfl
  have h2 : (pick iss.lanes fun l => !(([] : List (Nat × TrapInfo)).any (·.1 == l))) = iss.lanes :=
    pick_eq_self _ _ fun _ _ => rfl
  have h3 : ((lanesOf (issueE iss tm v)).filterMap fun l =>
      (operandViolation (envOf iss tm v) l).map fun p => (l, violationInfo p)) = [] :=
    filterMap_lanesOf_nil _ _ fun l hl => by rw [h.operands l hl]; rfl
  have h4 : issueCheck { s with cur := none } iss.team v (({ s with cur := none } : State).regsOf tm) = none := h.check
  simp only [front, h1, h2, h4]
  have h3' : ((lanesOf (pick iss.lanes fun l => guardOf v.h (tm.lane l))).filterMap fun l =>
      (operandViolation ⟨iss.team, tm, pick iss.lanes fun l => guardOf v.h (tm.lane l), iss.pc, v⟩ l).map
        fun p => (l, violationInfo p)) = [] := h3
  rw [h3']
  have h5 : ∀ m : Lanes, (pick m fun l => !(([] : List (Nat × TrapInfo)).any (·.1 == l))) = m :=
    fun m => pick_eq_self _ _ fun _ _ => rfl
  rw [h5]
  rfl

theorem raise_nil (t : TeamRef) (pc : Addr) (key : Nat) (q : Lanes) : s.raise t pc key [] q = s := rfl

/-! ### Lanes after an issue -/

/-- The lanes of a team after an update of the lanes of a mask. -/
def updLanes (m : Lanes) (f : Nat → Lane → Lane) (ls : List Lane) : List Lane :=
  ls.zipIdx.map fun (y, i) => if m.getLsbD i then f i y else y

theorem length_updLanes (m : Lanes) (f : Nat → Lane → Lane) (ls : List Lane) : (updLanes m f ls).length = ls.length := by
  simp [updLanes]

theorem getElem_updLanes (ls : List Lane) (m : Lanes) (f : Nat → Lane → Lane) (l : Nat) (y : Lane) (h : ls[l]? = some y) :
    (updLanes m f ls)[l]? = some (if m.getLsbD l then f l y else y) := by
  rw [updLanes, List.getElem?_map, List.getElem?_zipIdx, h]
  simp

theorem team?_modLanes (t : TeamRef) (m : Lanes) (f : Nat → Lane → Lane) :
    (s.modLanes t m f).team? t = (s.team? t).map fun x => { x with lanes := updLanes m f x.lanes } := by
  rw [State.modLanes, State.team?_modTeam]
  · rfl
  · intro x; rfl


/-- The state `u`, with an issue's effect made, after the lanes of the issue have gone on, before any trap of it is raised. -/
def afterLanes (s : State) (iss : Issue) (tm : Team) (v : View) (late extra : Nat) (r : Res) (u : State) : State :=
  (u.modLanes iss.team (issueE iss tm v) fun l y => finishLane s.clock late extra v (envOf iss tm v) r l y).modLanes iss.team
    (issueOff iss tm v) fun _ y => suppressLane s.clock (if issueE iss tm v = 0 then 0 else v.latency + late) v iss.pc y

/-- How the lanes of E leave an instruction. -/
def Leaves (r : Res) (iss : Issue) (l : Nat) (o : Option Addr) : Prop :=
  (o = some (nextPc iss.pc) ∧ r.fate l = .pass) ∨ (∃ a, o = some a ∧ r.fate l = .jump a) ∨
    (o = none ∧ (r.fate l = .stay ∨ ∃ i, r.fate l = .trap i))

theorem off_not_e (l : Nat) (h : (issueOff iss tm v).getLsbD l = true) : (issueE iss tm v).getLsbD l = false := by
  rw [issueOff, getLsbD_pick] at h
  rw [issueE, getLsbD_pick]
  revert h
  cases iss.lanes.getLsbD l <;> cases guardOf v.h (tm.lane l) <;> simp

theorem e_not_off (l : Nat) (h : (issueE iss tm v).getLsbD l = true) : (issueOff iss tm v).getLsbD l = false := by
  by_contra hc
  rw [off_not_e l (by simpa using hc)] at h
  cases h

theorem not_in_issue (l : Nat) (h : iss.lanes.getLsbD l = false) :
    (issueE iss tm v).getLsbD l = false ∧ (issueOff iss tm v).getLsbD l = false := by
  simp [issueE, issueOff, getLsbD_pick, h]

theorem goesTo_afterLanes (late extra : Nat) (r : Res) (u : State) (to_ : Nat → Option Addr)
    (hf : ∀ l, (issueE iss tm v).getLsbD l = true → Leaves r iss l (to_ l)) :
    GoesTo u (afterLanes s iss tm v late extra r u) iss tm v to_ := by
  refine ⟨rfl, ?_, ?_⟩
  · intro q hq
    unfold afterLanes State.modLanes
    rw [State.team?_modTeam_ne, State.team?_modTeam_ne] <;> first | exact hq | exact fun _ => rfl
  · intro um hum
    have e1 := team?_modLanes (s := u) iss.team (issueE iss tm v) fun l y =>
      finishLane s.clock late extra v (envOf iss tm v) r l y
    have e := team?_modLanes (s := u.modLanes iss.team (issueE iss tm v) fun l y =>
      finishLane s.clock late extra v (envOf iss tm v) r l y) iss.team (issueOff iss tm v)
      fun _ y => suppressLane s.clock (if issueE iss tm v = 0 then 0 else v.latency + late) v iss.pc y
    rw [e1, hum, Option.map_some, Option.map_some] at e
    refine ⟨_, e, rfl, ?_, ?_⟩
    · simp only [length_updLanes]
    · intro l y hy
      have e2 := getElem_updLanes _ (issueOff iss tm v)
        (fun _ y => suppressLane s.clock (if issueE iss tm v = 0 then 0 else v.latency + late) v iss.pc y) l _
        (getElem_updLanes _ (issueE iss tm v) (fun l y => finishLane s.clock late extra v (envOf iss tm v) r l y) l y hy)
      refine ⟨_, e2, ?_⟩
      · refine ⟨?_, ?_, ?_⟩
        · intro he
          have ho := e_not_off l he
          simp only [he, ho, if_true, Bool.false_eq_true, if_false]
          rcases hf l he with ⟨h1, h2⟩ | ⟨a, h1, h2⟩ | ⟨h1, h2 | ⟨i, h2⟩⟩ <;> rw [h1] <;> simp only [finishLane, h2]
          · simp only [Lane.pass, Passed, envOf]
          · simp only [Lane.pass, Passed]
        · intro ho
          have he := off_not_e l ho
          simp only [he, ho, if_true, Bool.false_eq_true, if_false, suppressLane, Lane.pass, Passed]
        · intro hn
          obtain ⟨he, ho⟩ := not_in_issue (tm := tm) (v := v) l hn
          simp only [he, ho, Bool.false_eq_true, if_false]

/-- All that an issue does whose lanes pass the checks of R145. -/
theorem runIssue_ready (h : Ready s iss tm v) (body : Env → State → Res) (r : Res)
    (hr : (if issueE iss tm v = 0 then Res.ok (begun s iss v) 0 else body (envOf iss tm v) (begun s iss v)) = r) :
    ∃ late extra, runIssue v body iss tm s =
      (let t := afterLanes s iss tm v late extra r (settled s iss tm v r.s)
       let t1 := t.raise iss.team iss.pc
        (tm.key ((lanesOf (maskOf ((r.traps (issueE iss tm v)).map (·.1)))).headD 0)) (r.traps (issueE iss tm v))
        (r.quiet (issueE iss tm v))
       if v.h.yld then t1.modTeam iss.team fun x => { x with yldTo := max x.yldTo (s.clock + 8) } else t1) := by
  subst hr
  refine ⟨(State.occupy { s with cur := none } iss.team v).2 + bankExtra v.gReads, bankExtra v.gReads, ?_⟩
  unfold runIssue
  simp only [front_ready h, List.nil_append]
  rfl

/-- An issue in which no lane traps: its effect, with the lanes gone on. -/
theorem runIssue_goesTo (h : Ready s iss tm v) (body : Env → State → Res) (r : Res) (to_ : Nat → Option Addr)
    (hr : (if issueE iss tm v = 0 then Res.ok (begun s iss v) 0 else body (envOf iss tm v) (begun s iss v)) = r)
    (hf : ∀ l, (issueE iss tm v).getLsbD l = true → Leaves r iss l (to_ l))
    (ht : ∀ l i, (issueE iss tm v).getLsbD l = true → r.fate l ≠ .trap i ∧ r.fate l ≠ .along i) :
    GoesTo (settled s iss tm v r.s) (runIssue v body iss tm s) iss tm v to_ := by
  obtain ⟨late, extra, e⟩ := runIssue_ready h body r hr
  have hn : r.traps (issueE iss tm v) = [] := by
    refine filterMap_lanesOf_nil _ _ fun l hl => ?_
    split
    · rename_i i hi; exact absurd hi (ht l i hl).1
    · rename_i i hi; exact absurd hi (ht l i hl).2
    · rfl
  have g := goesTo_afterLanes (s := s) (iss := iss) (tm := tm) (v := v) late extra r (settled s iss tm v r.s) to_ hf
  rw [e]
  simp only [hn, raise_nil]
  split
  · obtain ⟨g1, g2, g3⟩ := g
    refine ⟨by rw [State.modTeam, g1], ?_, ?_⟩
    · intro q hq
      rw [State.team?_modTeam_ne _ _ _ _ (by intro x; rfl) hq]
      exact g2 q hq
    · intro um hum
      obtain ⟨tm', a1, a2, a3, a4⟩ := g3 um hum
      refine ⟨{ tm' with yldTo := max tm'.yldTo (s.clock + 8) }, by
        rw [State.team?_modTeam _ _ _ (by intro x; rfl), a1, Option.map_some], ?_, a3, a4⟩
      cases tm'; cases um
      simp only [Team.mk.injEq] at a2 ⊢
      obtain ⟨b1, b2, b3, b4, b5, b6, b7, b8, _, b9, b10, b11, b12, b13, _⟩ := a2
      exact ⟨b1, b2, b3, b4, b5, b6, b7, b8, trivial, b9, b10, b11, b12, b13, trivial⟩
  · exact g

/-- An instruction whose body lets every lane of E pass. -/
theorem runIssue_goesOn (h : Ready s iss tm v) (body : Env → State → Res) (hE : issueE iss tm v ≠ 0) (r : Res)
    (hr : body (envOf iss tm v) (begun s iss v) = r) (hf : ∀ l, (issueE iss tm v).getLsbD l = true → r.fate l = .pass) :
    GoesOn (settled s iss tm v r.s) (runIssue v body iss tm s) iss tm v :=
  runIssue_goesTo h body r _ (by rw [if_neg hE, hr]) (fun l hl => .inl ⟨rfl, hf l hl⟩)
    fun l i hl => by rw [hf l hl]; exact ⟨nofun, nofun⟩

theorem issueWord_ready (h : Ready s iss tm v) (body : Env → State → Res) :
    issueWord v body s = .next (runIssue v body iss tm s) := by
  simp only [issueWord, h.cur, h.team]

/-- An instruction with the body `body`, none of whose lanes traps where `ok` holds, completes. -/
theorem completesTo_of (i : Instr) (body : Env → State → Res) (ok : Env → State → Prop) (eff : Env → State → State)
    (to_ : Env → Nat → Option Addr) (hx : ∀ s, exec i s = issueWord v body s)
    (hb : ∀ x s, x.v = v → x.e ≠ 0 → ok x s → (body x s).s = eff x s ∧ ∀ l, x.e.getLsbD l = true →
      (to_ x l = some (nextPc x.pc) ∧ (body x s).fate l = .pass) ∨ (∃ a, to_ x l = some a ∧ (body x s).fate l = .jump a) ∨
        (to_ x l = none ∧ (body x s).fate l = .stay)) : CompletesTo i v ok eff to_ := by
  intro s iss tm h hE ho
  obtain ⟨h1, h2⟩ := hb (envOf iss tm v) (begun s iss v) rfl hE ho
  refine ⟨_, by rw [hx, issueWord_ready h], ?_⟩
  rw [← h1]
  refine runIssue_goesTo h body _ _ (by rw [if_neg hE]) (fun l hl => ?_) fun l j hl => ?_
  · rcases h2 l hl with a | a | a
    · exact .inl a
    · exact .inr (.inl a)
    · exact .inr (.inr ⟨a.1, .inl a.2⟩)
  · rcases h2 l hl with ⟨_, a⟩ | ⟨b, _, a⟩ | ⟨_, a⟩ <;> rw [a] <;> exact ⟨nofun, nofun⟩

/-- An instruction with the body `body`, all of whose lanes pass where `ok` holds, completes. -/
theorem completes_of (i : Instr) (body : Env → State → Res) (ok : Env → State → Prop) (eff : Env → State → State)
    (hx : ∀ s, exec i s = issueWord v body s)
    (hb : ∀ x s, x.v = v → x.e ≠ 0 → ok x s → (body x s).s = eff x s ∧ ∀ l, x.e.getLsbD l = true → (body x s).fate l = .pass) :
    Completes i v ok eff :=
  completesTo_of i body ok eff _ hx fun x s hv hE ho => ⟨(hb x s hv hE ho).1, fun l hl => .inl ⟨rfl, (hb x s hv hE ho).2 l hl⟩⟩

/-- An instruction whose body is one state and a latency completes. -/
theorem completes_ok (i : Instr) (eff : Env → State → State) (lat : Env → State → Nat)
    (hx : ∀ s, exec i s = issueWord v (fun x s => .ok (eff x s) (lat x s)) s) : Completes i v always eff :=
  completes_of i _ _ _ hx fun _ _ _ _ _ => ⟨rfl, fun _ _ => rfl⟩

end Sys2Proof.Machine
end

