-- ==== Sys2Proof/Laws/Memory.lean ====
section
/-! SUPPORT. Byte stores keep their canonical form; a read sees the last write. -/

namespace Sys2Proof.Machine

/-- Every listed address lies above `x`. -/
def Above (x : Nat) (m : List Host.Cell) : Prop := ∀ c ∈ m, x < c.1

theorem wf_cons (x : Nat) (b : Byte) (t : List Host.Cell) :
    Memory.wf ((x, b) :: t) = true ↔ b ≠ 0 ∧ Above x t ∧ Memory.wf t = true := by
  induction t generalizing x b with
  | nil => simp [Memory.wf, Above]
  | cons y l ih =>
    obtain ⟨y, c⟩ := y
    have e : Memory.wf ((x, b) :: (y, c) :: l) = true ↔ b ≠ 0 ∧ x < y ∧ Memory.wf ((y, c) :: l) = true := by
      simp [Memory.wf, and_assoc]
    rw [e]
    constructor
    · rintro ⟨hb, hx, hw⟩
      refine ⟨hb, ?_, hw⟩
      have ha := ((ih y c).1 hw).2.1
      intro z hz
      rcases List.mem_cons.1 hz with rfl | hz
      · exact hx
      · exact lt_trans hx (ha z hz)
    · rintro ⟨hb, ha, hw⟩
      exact ⟨hb, ha (y, c) (List.mem_cons_self ..), hw⟩

theorem above_cellPut (x : Nat) (m : List Host.Cell) (a : Nat) (v : Byte) (hx : x < a) (h : Above x m) :
    Above x (cellPut m a v) := by
  induction m with
  | nil =>
    unfold cellPut
    split
    · intro c hc; simp at hc
    · intro c hc; simp at hc; rw [hc]; exact hx
  | cons y l ih =>
    obtain ⟨y, b⟩ := y
    have hy : x < y := h (y, b) (List.mem_cons_self ..)
    have hl : Above x l := fun c hc => h c (List.mem_cons_of_mem _ hc)
    have put : ∀ c ∈ (a, v) :: l, x < c.1 := by
      intro c hc
      rcases List.mem_cons.1 hc with rfl | hc
      · exact hx
      · exact hl c hc
    unfold cellPut
    split
    · split
      · exact h
      · intro c hc
        rcases List.mem_cons.1 hc with rfl | hc
        · exact hx
        · exact h c hc
    · split
      · split
        · exact hl
        · exact put
      · intro c hc
        rcases List.mem_cons.1 hc with rfl | hc
        · exact hy
        · exact ih hl c hc

/-- Writing a byte keeps the canonical form. -/
theorem cellPut_wf (m : List Host.Cell) (a : Nat) (v : Byte) (h : Memory.wf m = true) : Memory.wf (cellPut m a v) = true := by
  induction m with
  | nil =>
    unfold cellPut
    split
    · rfl
    · simpa [Memory.wf]
  | cons y l ih =>
    obtain ⟨y, b⟩ := y
    obtain ⟨hb, ha, hl⟩ := (wf_cons y b l).1 h
    unfold cellPut
    split
    · split
      · exact h
      · rename_i hlt hv
        refine (wf_cons _ _ _).2 ⟨hv, ?_, h⟩
        intro c hc
        rcases List.mem_cons.1 hc with rfl | hc
        · exact hlt
        · exact lt_trans hlt (ha c hc)
    · split
      · subst_vars
        split
        · exact hl
        · exact (wf_cons _ _ _).2 ⟨‹_›, ha, hl⟩
      · exact (wf_cons _ _ _).2 ⟨hb, above_cellPut y l a v (by omega) ha, ih hl⟩

theorem cellGet_above (m : List Host.Cell) (x : Nat) (h : Above x m) : cellGet m x = 0 := by
  cases m with
  | nil => rfl
  | cons y l =>
    obtain ⟨y, b⟩ := y
    have hy : x < y := h (y, b) (List.mem_cons_self ..)
    unfold cellGet
    rw [if_neg (by omega), if_pos hy]

/-- The byte written reads back. -/
theorem cellGet_cellPut (m : List Host.Cell) (a : Nat) (v : Byte) (h : Memory.wf m = true) :
    cellGet (cellPut m a v) a = v := by
  induction m with
  | nil =>
    unfold cellPut
    split
    · simp_all [cellGet]
    · simp [cellGet]
  | cons y l ih =>
    obtain ⟨y, b⟩ := y
    obtain ⟨_, ha, hl⟩ := (wf_cons y b l).1 h
    unfold cellPut
    split
    · split
      · subst_vars
        simp only [cellGet]
        rw [if_neg (by omega), if_pos ‹_›]
      · simp [cellGet]
    · split
      · subst_vars
        split
        · subst_vars; exact cellGet_above l _ ha
        · simp [cellGet]
      · simp only [cellGet]
        rw [if_neg (by assumption), if_neg (by assumption)]
        exact ih hl

/-- Other bytes read as before. -/
theorem cellGet_cellPut_ne (m : List Host.Cell) (a x : Nat) (v : Byte) (h : Memory.wf m = true) (hne : x ≠ a) :
    cellGet (cellPut m a v) x = cellGet m x := by
  induction m with
  | nil =>
    unfold cellPut
    split
    · rfl
    · simp [cellGet]; omega
  | cons y l ih =>
    obtain ⟨y, b⟩ := y
    obtain ⟨_, ha, hl⟩ := (wf_cons y b l).1 h
    unfold cellPut
    split
    · split
      · rfl
      · show (if a = x then v else if x < a then 0 else cellGet ((y, b) :: l) x) = _
        rw [if_neg (fun e => hne e.symm)]
        split
        · symm
          refine cellGet_above _ _ ?_
          intro c hc
          rcases List.mem_cons.1 hc with rfl | hc
          · show x < y; omega
          · have := ha c hc; omega
        · rfl
    · split
      · subst_vars
        split
        · simp only [cellGet]
          rw [if_neg (fun e => hne e.symm)]
          split
          · exact cellGet_above l x fun c hc => lt_trans ‹_› (ha c hc)
          · rfl
        · have h' : ¬ y = x := fun e => hne e.symm
          simp only [cellGet, h', if_false]
      · simp only [cellGet]
        split
        · rfl
        · split
          · rfl
          · exact ih hl

theorem cellsPut_wf (bs : List Byte) (m : List Host.Cell) (a : Nat) (h : Memory.wf m = true) :
    Memory.wf (cellsPut m a bs) = true := by
  induction bs generalizing m a with
  | nil => exact h
  | cons b bs ih => exact ih _ _ (cellPut_wf m a b h)

/-- Bytes outside a write read as before. -/
theorem cellGet_cellsPut_out (bs : List Byte) (m : List Host.Cell) (a x : Nat) (h : Memory.wf m = true)
    (hx : x < a ∨ a + bs.length ≤ x) : cellGet (cellsPut m a bs) x = cellGet m x := by
  induction bs generalizing m a with
  | nil => rfl
  | cons b bs ih =>
    simp only [List.length_cons] at hx
    have e := ih (cellPut m a b) (a + 1) (cellPut_wf m a b h) (by omega)
    simp only [cellsPut]
    rw [e, cellGet_cellPut_ne m a x b h (by omega)]

/-- A written range reads back. -/
theorem cellsGet_cellsPut (bs : List Byte) (m : List Host.Cell) (a : Nat) (h : Memory.wf m = true) :
    cellsGet (cellsPut m a bs) a bs.length = bs := by
  induction bs generalizing m a with
  | nil => rfl
  | cons b bs ih =>
    simp only [cellsPut, List.length_cons, cellsGet]
    have hw := cellPut_wf m a b h
    rw [cellGet_cellsPut_out bs _ (a + 1) a hw (by omega), cellGet_cellPut m a b h, ih _ _ hw]

theorem filter_wf (m : List Host.Cell) (p : Host.Cell → Bool) (h : Memory.wf m = true) :
    Memory.wf (m.filter p) = true := by
  induction m with
  | nil => rfl
  | cons y l ih =>
    obtain ⟨y, b⟩ := y
    obtain ⟨hb, ha, hl⟩ := (wf_cons y b l).1 h
    rw [List.filter_cons]
    split
    · exact (wf_cons _ _ _).2 ⟨hb, fun c hc => ha c (List.mem_filter.1 hc).1, ih hl⟩
    · exact ih hl

/-- Dropping a range keeps the canonical form. -/
theorem cellsClear_wf (m : List Host.Cell) (lo hi : Nat) (h : Memory.wf m = true) :
    Memory.wf (cellsClear m lo hi) = true := filter_wf m _ h

theorem State.memPut_wf (s : State) (a : Nat) (bs : List Byte) (h : Memory.wf s.mem = true) :
    Memory.wf (s.memPut a bs).mem = true := cellsPut_wf bs s.mem a h

theorem State.scrPut_wf (s : State) (a : Nat) (bs : List Byte) (h : Memory.wf s.scratch = true) :
    Memory.wf (s.scrPut a bs).scratch = true := cellsPut_wf bs s.scratch a h

theorem State.reset_mem_wf : Memory.wf State.reset.mem = true ∧ Memory.wf State.reset.scratch = true := ⟨rfl, rfl⟩

end Sys2Proof.Machine
end

