-- ==== Sys2Proof/Laws/PerInstr.lean ====
section
/-! SUPPORT. Per instruction: the word that the encoder writes splits into the instruction's fields, and those fields build it. -/

namespace Sys2Proof.Laws.Fields

open Sys2Proof Machine

set_option Elab.async false

/-- The fields of the instruction's word are its own, and build it. -/
def Statement (i : Instr) : Prop :=
  ∀ v, viewOf i = some v → i.subOp = true → splitWord (joinWord v) = some v ∧ build v = some i

theorem of_word {i : Instr} (v : View) (hv : viewOf i = some v) (hc : v.cls < 16) (ho : v.opn < 64)
    (hf : (formOf v.cls v.opn).any (fun f => bShape f.b v.b) = true) (hi : i.subOp = true → build v = some i) : Statement i := by
  intro u hu hs
  obtain ⟨f, hf, hb⟩ := (Option.any_eq_true _ _).mp hf
  obtain rfl : v = u := by rw [hv] at hu; exact Option.some.inj hu
  exact ⟨splitWord_joinWord v f hc ho hf hb, hi hs⟩

theorem of_event {i : Instr} (hv : viewOf i = none) : Statement i := by
  intro u hu
  rw [hv] at hu
  cases hu

theorem nop (h : Hdr) (o : RegForm) : Statement (.nop h o) :=
  of_word (o.view 0 0 h) rfl (by show 0 < 16; omega) (by show 0 < 64; omega) rfl (fun _ => rfl)
theorem bra (h : Hdr) (o : ImmForm) : Statement (.bra h o) :=
  of_word (o.view 0 1 h) rfl (by show 0 < 16; omega) (by show 1 < 64; omega) rfl (fun _ => rfl)
theorem brx (h : Hdr) (o : RegForm) : Statement (.brx h o) :=
  of_word (o.view 0 2 h) rfl (by show 0 < 16; omega) (by show 2 < 64; omega) rfl (fun _ => rfl)
theorem call (h : Hdr) (o : ImmForm) : Statement (.call h o) :=
  of_word (o.view 0 3 h) rfl (by show 0 < 16; omega) (by show 3 < 64; omega) rfl (fun _ => rfl)
theorem ret (h : Hdr) (o : RegForm) : Statement (.ret h o) :=
  of_word (o.view 0 4 h) rfl (by show 0 < 16; omega) (by show 4 < 64; omega) rfl (fun _ => rfl)
theorem join (h : Hdr) (o : RegForm) : Statement (.join h o) :=
  of_word (o.view 0 5 h) rfl (by show 0 < 16; omega) (by show 5 < 64; omega) rfl (fun _ => rfl)
theorem jset (h : Hdr) (o : RegForm) : Statement (.jset h o) :=
  of_word (o.view 0 6 h) rfl (by show 0 < 16; omega) (by show 6 < 64; omega) rfl (fun _ => rfl)
theorem jclr (h : Hdr) (o : RegForm) : Statement (.jclr h o) :=
  of_word (o.view 0 7 h) rfl (by show 0 < 16; omega) (by show 7 < 64; omega) rfl (fun _ => rfl)
theorem exit (h : Hdr) (o : RegForm) : Statement (.exit h o) :=
  of_word (o.view 0 8 h) rfl (by show 0 < 16; omega) (by show 8 < 64; omega) rfl (fun _ => rfl)
theorem yield (h : Hdr) (o : RegForm) : Statement (.yield h o) :=
  of_word (o.view 0 9 h) rfl (by show 0 < 16; omega) (by show 9 < 64; omega) rfl (fun _ => rfl)
theorem sleep (h : Hdr) (o : ImmForm) : Statement (.sleep h o) :=
  of_word (o.view 0 10 h) rfl (by show 0 < 16; omega) (by show 10 < 64; omega) rfl (fun _ => rfl)
theorem fjmp (h : Hdr) (o : ImmForm) : Statement (.fjmp h o) :=
  of_word (o.view 0 11 h) rfl (by show 0 < 16; omega) (by show 11 < 64; omega) rfl (fun _ => rfl)
theorem cfetch (h : Hdr) (o : RegForm) : Statement (.cfetch h o) :=
  of_word (o.view 0 12 h) rfl (by show 0 < 16; omega) (by show 12 < 64; omega) rfl (fun _ => rfl)
theorem prefi (h : Hdr) (o : ImmForm) : Statement (.prefi h o) :=
  of_word (o.view 0 13 h) rfl (by show 0 < 16; omega) (by show 13 < 64; omega) rfl (fun _ => rfl)
theorem iadd (h : Hdr) (o : RegForm) : Statement (.iadd h o) :=
  of_word (o.view 1 0 h) rfl (by show 1 < 16; omega) (by show 0 < 64; omega) rfl (fun _ => rfl)
theorem isub (h : Hdr) (o : RegForm) : Statement (.isub h o) :=
  of_word (o.view 1 1 h) rfl (by show 1 < 16; omega) (by show 1 < 64; omega) rfl (fun _ => rfl)
theorem imul (h : Hdr) (o : RegForm) : Statement (.imul h o) :=
  of_word (o.view 1 2 h) rfl (by show 1 < 16; omega) (by show 2 < 64; omega) rfl (fun _ => rfl)
theorem imulhi (h : Hdr) (o : RegForm) : Statement (.imulhi h o) :=
  of_word (o.view 1 3 h) rfl (by show 1 < 16; omega) (by show 3 < 64; omega) rfl (fun _ => rfl)
theorem imad (h : Hdr) (o : RegForm) : Statement (.imad h o) :=
  of_word (o.view 1 4 h) rfl (by show 1 < 16; omega) (by show 4 < 64; omega) rfl (fun _ => rfl)
theorem imadw (h : Hdr) (o : RegForm) : Statement (.imadw h o) :=
  of_word (o.view 1 5 h) rfl (by show 1 < 16; omega) (by show 5 < 64; omega) rfl (fun _ => rfl)
theorem idiv (h : Hdr) (o : RegForm) : Statement (.idiv h o) :=
  of_word (o.view 1 6 h) rfl (by show 1 < 16; omega) (by show 6 < 64; omega) rfl (fun _ => rfl)
theorem irem (h : Hdr) (o : RegForm) : Statement (.irem h o) :=
  of_word (o.view 1 7 h) rfl (by show 1 < 16; omega) (by show 7 < 64; omega) rfl (fun _ => rfl)
theorem ineg (h : Hdr) (o : RegForm) : Statement (.ineg h o) :=
  of_word (o.view 1 8 h) rfl (by show 1 < 16; omega) (by show 8 < 64; omega) rfl (fun _ => rfl)
theorem iabs (h : Hdr) (o : RegForm) : Statement (.iabs h o) :=
  of_word (o.view 1 9 h) rfl (by show 1 < 16; omega) (by show 9 < 64; omega) rfl (fun _ => rfl)
theorem imin (h : Hdr) (o : RegForm) : Statement (.imin h o) :=
  of_word (o.view 1 10 h) rfl (by show 1 < 16; omega) (by show 10 < 64; omega) rfl (fun _ => rfl)
theorem imax (h : Hdr) (o : RegForm) : Statement (.imax h o) :=
  of_word (o.view 1 11 h) rfl (by show 1 < 16; omega) (by show 11 < 64; omega) rfl (fun _ => rfl)
theorem iclamp (h : Hdr) (o : RegForm) : Statement (.iclamp h o) :=
  of_word (o.view 1 12 h) rfl (by show 1 < 16; omega) (by show 12 < 64; omega) rfl (fun _ => rfl)
theorem isad (h : Hdr) (o : RegForm) : Statement (.isad h o) :=
  of_word (o.view 1 13 h) rfl (by show 1 < 16; omega) (by show 13 < 64; omega) rfl (fun _ => rfl)
theorem aadd (h : Hdr) (o : RegForm) : Statement (.aadd h o) :=
  of_word (o.view 1 14 h) rfl (by show 1 < 16; omega) (by show 14 < 64; omega) rfl (fun _ => rfl)
theorem lea (h : Hdr) (o : RegForm) : Statement (.lea h o) :=
  of_word (o.view 1 15 h) rfl (by show 1 < 16; omega) (by show 15 < 64; omega) rfl (fun _ => rfl)
theorem mov (h : Hdr) (o : RegForm) : Statement (.mov h o) :=
  of_word (o.view 1 16 h) rfl (by show 1 < 16; omega) (by show 16 < 64; omega) rfl (fun _ => rfl)
theorem movi (h : Hdr) (o : ImmForm) : Statement (.movi h o) :=
  of_word (o.view 1 17 h) rfl (by show 1 < 16; omega) (by show 17 < 64; omega) rfl (fun _ => rfl)
theorem movk (h : Hdr) (o : ImmForm) : Statement (.movk h o) :=
  of_word (o.view 1 18 h) rfl (by show 1 < 16; omega) (by show 18 < 64; omega) rfl (fun _ => rfl)
theorem sel (h : Hdr) (o : RegForm) : Statement (.sel h o) :=
  of_word (o.view 1 19 h) rfl (by show 1 < 16; omega) (by show 19 < 64; omega) rfl (fun _ => rfl)
theorem and (h : Hdr) (o : RegForm) : Statement (.and h o) :=
  of_word (o.view 2 0 h) rfl (by show 2 < 16; omega) (by show 0 < 64; omega) rfl (fun _ => rfl)
theorem or (h : Hdr) (o : RegForm) : Statement (.or h o) :=
  of_word (o.view 2 1 h) rfl (by show 2 < 16; omega) (by show 1 < 64; omega) rfl (fun _ => rfl)
theorem xor (h : Hdr) (o : RegForm) : Statement (.xor h o) :=
  of_word (o.view 2 2 h) rfl (by show 2 < 16; omega) (by show 2 < 64; omega) rfl (fun _ => rfl)
theorem not (h : Hdr) (o : RegForm) : Statement (.not h o) :=
  of_word (o.view 2 3 h) rfl (by show 2 < 16; omega) (by show 3 < 64; omega) rfl (fun _ => rfl)
theorem lop3 (h : Hdr) (o : ImmForm) : Statement (.lop3 h o) :=
  of_word (o.view 2 4 h) rfl (by show 2 < 16; omega) (by show 4 < 64; omega) rfl (fun _ => rfl)
theorem shl (h : Hdr) (o : RegForm) : Statement (.shl h o) :=
  of_word (o.view 2 5 h) rfl (by show 2 < 16; omega) (by show 5 < 64; omega) rfl (fun _ => rfl)
theorem shr (h : Hdr) (o : RegForm) : Statement (.shr h o) :=
  of_word (o.view 2 6 h) rfl (by show 2 < 16; omega) (by show 6 < 64; omega) rfl (fun _ => rfl)
theorem sar (h : Hdr) (o : RegForm) : Statement (.sar h o) :=
  of_word (o.view 2 7 h) rfl (by show 2 < 16; omega) (by show 7 < 64; omega) rfl (fun _ => rfl)
theorem rot (h : Hdr) (o : RegForm) : Statement (.rot h o) :=
  of_word (o.view 2 8 h) rfl (by show 2 < 16; omega) (by show 8 < 64; omega) rfl (fun _ => rfl)
theorem shf (h : Hdr) (o : RegForm) : Statement (.shf h o) :=
  of_word (o.view 2 9 h) rfl (by show 2 < 16; omega) (by show 9 < 64; omega) rfl (fun _ => rfl)
theorem popc (h : Hdr) (o : RegForm) : Statement (.popc h o) :=
  of_word (o.view 2 10 h) rfl (by show 2 < 16; omega) (by show 10 < 64; omega) rfl (fun _ => rfl)
theorem clz (h : Hdr) (o : RegForm) : Statement (.clz h o) :=
  of_word (o.view 2 11 h) rfl (by show 2 < 16; omega) (by show 11 < 64; omega) rfl (fun _ => rfl)
theorem ctz (h : Hdr) (o : RegForm) : Statement (.ctz h o) :=
  of_word (o.view 2 12 h) rfl (by show 2 < 16; omega) (by show 12 < 64; omega) rfl (fun _ => rfl)
theorem brev (h : Hdr) (o : RegForm) : Statement (.brev h o) :=
  of_word (o.view 2 13 h) rfl (by show 2 < 16; omega) (by show 13 < 64; omega) rfl (fun _ => rfl)
theorem bfe (h : Hdr) (o : RegForm) : Statement (.bfe h o) :=
  of_word (o.view 2 14 h) rfl (by show 2 < 16; omega) (by show 14 < 64; omega) rfl (fun _ => rfl)
theorem bfi (h : Hdr) (o : RegForm) : Statement (.bfi h o) :=
  of_word (o.view 2 15 h) rfl (by show 2 < 16; omega) (by show 15 < 64; omega) rfl (fun _ => rfl)
theorem prmt (h : Hdr) (o : RegForm) : Statement (.prmt h o) :=
  of_word (o.view 2 16 h) rfl (by show 2 < 16; omega) (by show 16 < 64; omega) rfl (fun _ => rfl)
theorem sext (h : Hdr) (o : RegForm) : Statement (.sext h o) :=
  of_word (o.view 2 17 h) rfl (by show 2 < 16; omega) (by show 17 < 64; omega) rfl (fun _ => rfl)
theorem icmp (h : Hdr) (o : RegForm) : Statement (.icmp h o) :=
  of_word (o.view 3 0 h) rfl (by show 3 < 16; omega) (by show 0 < 64; omega) rfl (fun _ => rfl)
theorem fcmp (h : Hdr) (o : RegForm) : Statement (.fcmp h o) :=
  of_word (o.view 3 1 h) rfl (by show 3 < 16; omega) (by show 1 < 64; omega) rfl (fun _ => rfl)
theorem pset (h : Hdr) (o : ImmForm) : Statement (.pset h o) :=
  of_word (o.view 3 2 h) rfl (by show 3 < 16; omega) (by show 2 < 64; omega) rfl (fun _ => rfl)
theorem p2g (h : Hdr) (o : RegForm) : Statement (.p2g h o) :=
  of_word (o.view 3 3 h) rfl (by show 3 < 16; omega) (by show 3 < 64; omega) rfl (fun _ => rfl)
theorem g2p (h : Hdr) (o : RegForm) : Statement (.g2p h o) :=
  of_word (o.view 3 4 h) rfl (by show 3 < 16; omega) (by show 4 < 64; omega) rfl (fun _ => rfl)
theorem ballot (h : Hdr) (o : RegForm) : Statement (.ballot h o) :=
  of_word (o.view 3 5 h) rfl (by show 3 < 16; omega) (by show 5 < 64; omega) rfl (fun _ => rfl)
theorem vote (h : Hdr) (o : ImmForm) : Statement (.vote h o) :=
  of_word (o.view 3 6 h) rfl (by show 3 < 16; omega) (by show 6 < 64; omega) rfl (fun _ => rfl)
theorem shfl (h : Hdr) (o : RegForm) : Statement (.shfl h o) :=
  of_word (o.view 4 0 h) rfl (by show 4 < 16; omega) (by show 0 < 64; omega) rfl (fun _ => rfl)
theorem bcast (h : Hdr) (o : RegForm) : Statement (.bcast h o) :=
  of_word (o.view 4 1 h) rfl (by show 4 < 16; omega) (by show 1 < 64; omega) rfl (fun _ => rfl)
theorem tred (h : Hdr) (o : RegForm) : Statement (.tred h o) :=
  of_word (o.view 4 2 h) rfl (by show 4 < 16; omega) (by show 2 < 64; omega) rfl (fun _ => rfl)
theorem tscan (h : Hdr) (o : RegForm) : Statement (.tscan h o) :=
  of_word (o.view 4 3 h) rfl (by show 4 < 16; omega) (by show 3 < 64; omega) rfl (fun _ => rfl)
theorem matchLanes (h : Hdr) (o : RegForm) : Statement (.matchLanes h o) :=
  of_word (o.view 4 4 h) rfl (by show 4 < 16; omega) (by show 4 < 64; omega) rfl (fun _ => rfl)
theorem kmov (h : Hdr) (o : RegForm) : Statement (.kmov h o) :=
  of_word (o.view 4 5 h) rfl (by show 4 < 16; omega) (by show 5 < 64; omega) rfl (fun _ => rfl)
theorem kadd (h : Hdr) (o : RegForm) : Statement (.kadd h o) :=
  of_word (o.view 4 6 h) rfl (by show 4 < 16; omega) (by show 6 < 64; omega) rfl (fun _ => rfl)
theorem kcmp (h : Hdr) (o : RegForm) : Statement (.kcmp h o) :=
  of_word (o.view 4 7 h) rfl (by show 4 < 16; omega) (by show 7 < 64; omega) rfl (fun _ => rfl)
theorem kld (h : Hdr) (o : MemForm) : Statement (.kld h o) :=
  of_word (o.view 4 8 h) rfl (by show 4 < 16; omega) (by show 8 < 64; omega) rfl (fun _ => rfl)
theorem rdsr (h : Hdr) (o : RegForm) : Statement (.rdsr h o) :=
  of_word (o.view 4 9 h) rfl (by show 4 < 16; omega) (by show 9 < 64; omega) rfl (fun _ => rfl)
theorem wrsr (h : Hdr) (o : RegForm) : Statement (.wrsr h o) :=
  of_word (o.view 4 10 h) rfl (by show 4 < 16; omega) (by show 10 < 64; omega) rfl (fun _ => rfl)
theorem clk (h : Hdr) (o : RegForm) : Statement (.clk h o) :=
  of_word (o.view 4 11 h) rfl (by show 4 < 16; omega) (by show 11 < 64; omega) rfl (fun _ => rfl)
theorem fadd (h : Hdr) (o : RegForm) : Statement (.fadd h o) :=
  of_word (o.view 5 0 h) rfl (by show 5 < 16; omega) (by show 0 < 64; omega) rfl (fun _ => rfl)
theorem fsub (h : Hdr) (o : RegForm) : Statement (.fsub h o) :=
  of_word (o.view 5 1 h) rfl (by show 5 < 16; omega) (by show 1 < 64; omega) rfl (fun _ => rfl)
theorem fmul (h : Hdr) (o : RegForm) : Statement (.fmul h o) :=
  of_word (o.view 5 2 h) rfl (by show 5 < 16; omega) (by show 2 < 64; omega) rfl (fun _ => rfl)
theorem ffma (h : Hdr) (o : RegForm) : Statement (.ffma h o) :=
  of_word (o.view 5 3 h) rfl (by show 5 < 16; omega) (by show 3 < 64; omega) rfl (fun _ => rfl)
theorem fmin (h : Hdr) (o : RegForm) : Statement (.fmin h o) :=
  of_word (o.view 5 4 h) rfl (by show 5 < 16; omega) (by show 4 < 64; omega) rfl (fun _ => rfl)
theorem fmax (h : Hdr) (o : RegForm) : Statement (.fmax h o) :=
  of_word (o.view 5 5 h) rfl (by show 5 < 16; omega) (by show 5 < 64; omega) rfl (fun _ => rfl)
theorem frcp (h : Hdr) (o : RegForm) : Statement (.frcp h o) :=
  of_word (o.view 5 6 h) rfl (by show 5 < 16; omega) (by show 6 < 64; omega) rfl (fun _ => rfl)
theorem frsq (h : Hdr) (o : RegForm) : Statement (.frsq h o) :=
  of_word (o.view 5 7 h) rfl (by show 5 < 16; omega) (by show 7 < 64; omega) rfl (fun _ => rfl)
theorem fsqrt (h : Hdr) (o : RegForm) : Statement (.fsqrt h o) :=
  of_word (o.view 5 8 h) rfl (by show 5 < 16; omega) (by show 8 < 64; omega) rfl (fun _ => rfl)
theorem fdiv (h : Hdr) (o : RegForm) : Statement (.fdiv h o) :=
  of_word (o.view 5 9 h) rfl (by show 5 < 16; omega) (by show 9 < 64; omega) rfl (fun _ => rfl)
theorem fex2 (h : Hdr) (o : RegForm) : Statement (.fex2 h o) :=
  of_word (o.view 5 10 h) rfl (by show 5 < 16; omega) (by show 10 < 64; omega) rfl (fun _ => rfl)
theorem flg2 (h : Hdr) (o : RegForm) : Statement (.flg2 h o) :=
  of_word (o.view 5 11 h) rfl (by show 5 < 16; omega) (by show 11 < 64; omega) rfl (fun _ => rfl)
theorem fsin (h : Hdr) (o : RegForm) : Statement (.fsin h o) :=
  of_word (o.view 5 12 h) rfl (by show 5 < 16; omega) (by show 12 < 64; omega) rfl (fun _ => rfl)
theorem fcos (h : Hdr) (o : RegForm) : Statement (.fcos h o) :=
  of_word (o.view 5 13 h) rfl (by show 5 < 16; omega) (by show 13 < 64; omega) rfl (fun _ => rfl)
theorem ftanh (h : Hdr) (o : RegForm) : Statement (.ftanh h o) :=
  of_word (o.view 5 14 h) rfl (by show 5 < 16; omega) (by show 14 < 64; omega) rfl (fun _ => rfl)
theorem fclass (h : Hdr) (o : RegForm) : Statement (.fclass h o) :=
  of_word (o.view 5 15 h) rfl (by show 5 < 16; omega) (by show 15 < 64; omega) rfl (fun _ => rfl)
theorem fscale (h : Hdr) (o : RegForm) : Statement (.fscale h o) :=
  of_word (o.view 5 16 h) rfl (by show 5 < 16; omega) (by show 16 < 64; omega) rfl (fun _ => rfl)
theorem frnd (h : Hdr) (o : RegForm) : Statement (.frnd h o) :=
  of_word (o.view 5 17 h) rfl (by show 5 < 16; omega) (by show 17 < 64; omega) rfl (fun _ => rfl)
theorem hadd2F16 (h : Hdr) (o : RegForm) : Statement (.hadd2F16 h o) :=
  of_word (o.view 6 0 h) rfl (by show 6 < 16; omega) (by show 0 < 64; omega) (by show (formOf 6 0).any _ = true; rfl) (fun _ => rfl)
theorem hmul2F16 (h : Hdr) (o : RegForm) : Statement (.hmul2F16 h o) :=
  of_word (o.view 6 1 h) rfl (by show 6 < 16; omega) (by show 1 < 64; omega) (by show (formOf 6 1).any _ = true; rfl) (fun _ => rfl)
theorem hfma2F16 (h : Hdr) (o : RegForm) : Statement (.hfma2F16 h o) :=
  of_word (o.view 6 2 h) rfl (by show 6 < 16; omega) (by show 2 < 64; omega) (by show (formOf 6 2).any _ = true; rfl) (fun _ => rfl)
theorem hmin2F16 (h : Hdr) (o : RegForm) : Statement (.hmin2F16 h o) :=
  of_word (o.view 6 3 h) rfl (by show 6 < 16; omega) (by show 3 < 64; omega) (by show (formOf 6 3).any _ = true; rfl) (fun _ => rfl)
theorem hmax2F16 (h : Hdr) (o : RegForm) : Statement (.hmax2F16 h o) :=
  of_word (o.view 6 4 h) rfl (by show 6 < 16; omega) (by show 4 < 64; omega) (by show (formOf 6 4).any _ = true; rfl) (fun _ => rfl)
theorem hdot2F16 (h : Hdr) (o : RegForm) : Statement (.hdot2F16 h o) :=
  of_word (o.view 6 5 h) rfl (by show 6 < 16; omega) (by show 5 < 64; omega) (by show (formOf 6 5).any _ = true; rfl) (fun _ => rfl)
theorem hadd2Bf16 (h : Hdr) (o : RegForm) : Statement (.hadd2Bf16 h o) :=
  of_word (o.view 6 8 h) rfl (by show 6 < 16; omega) (by show 8 < 64; omega) (by show (formOf 6 8).any _ = true; rfl) (fun _ => rfl)
theorem hmul2Bf16 (h : Hdr) (o : RegForm) : Statement (.hmul2Bf16 h o) :=
  of_word (o.view 6 9 h) rfl (by show 6 < 16; omega) (by show 9 < 64; omega) (by show (formOf 6 9).any _ = true; rfl) (fun _ => rfl)
theorem hfma2Bf16 (h : Hdr) (o : RegForm) : Statement (.hfma2Bf16 h o) :=
  of_word (o.view 6 10 h) rfl (by show 6 < 16; omega) (by show 10 < 64; omega) (by show (formOf 6 10).any _ = true; rfl) (fun _ => rfl)
theorem hmin2Bf16 (h : Hdr) (o : RegForm) : Statement (.hmin2Bf16 h o) :=
  of_word (o.view 6 11 h) rfl (by show 6 < 16; omega) (by show 11 < 64; omega) (by show (formOf 6 11).any _ = true; rfl) (fun _ => rfl)
theorem hmax2Bf16 (h : Hdr) (o : RegForm) : Statement (.hmax2Bf16 h o) :=
  of_word (o.view 6 12 h) rfl (by show 6 < 16; omega) (by show 12 < 64; omega) (by show (formOf 6 12).any _ = true; rfl) (fun _ => rfl)
theorem hdot2Bf16 (h : Hdr) (o : RegForm) : Statement (.hdot2Bf16 h o) :=
  of_word (o.view 6 13 h) rfl (by show 6 < 16; omega) (by show 13 < 64; omega) (by show (formOf 6 13).any _ = true; rfl) (fun _ => rfl)
theorem cvt (h : Hdr) (o : RegForm) : Statement (.cvt h o) :=
  of_word (o.view 7 0 h) rfl (by show 7 < 16; omega) (by show 0 < 64; omega) rfl (fun _ => rfl)
theorem quant (h : Hdr) (o : RegForm) : Statement (.quant h o) :=
  of_word (o.view 7 1 h) rfl (by show 7 < 16; omega) (by show 1 < 64; omega) rfl (fun _ => rfl)
theorem dequant (h : Hdr) (o : RegForm) : Statement (.dequant h o) :=
  of_word (o.view 7 2 h) rfl (by show 7 < 16; omega) (by show 2 < 64; omega) rfl (fun _ => rfl)
theorem packPlanes (h : Hdr) (o : RegForm) : Statement (.packPlanes h o) :=
  of_word (o.view 7 3 h) rfl (by show 7 < 16; omega) (by show 3 < 64; omega) rfl (fun hs => by simp_all [build, Instr.subOp, buildReg, build7Reg, RegForm.view])
theorem packPair (h : Hdr) (o : RegForm) : Statement (.packPair h o) :=
  of_word (o.view 7 3 h) rfl (by show 7 < 16; omega) (by show 3 < 64; omega) rfl (fun hs => by simp_all [build, Instr.subOp, buildReg, build7Reg, RegForm.view])
theorem unpackPlanes (h : Hdr) (o : RegForm) : Statement (.unpackPlanes h o) :=
  of_word (o.view 7 4 h) rfl (by show 7 < 16; omega) (by show 4 < 64; omega) rfl (fun hs => by simp_all [build, Instr.subOp, buildReg, build7Reg, RegForm.view])
theorem unpackPair (h : Hdr) (o : RegForm) : Statement (.unpackPair h o) :=
  of_word (o.view 7 4 h) rfl (by show 7 < 16; omega) (by show 4 < 64; omega) rfl (fun hs => by simp_all [build, Instr.subOp, buildReg, build7Reg, RegForm.view])
theorem scalmax (h : Hdr) (o : RegForm) : Statement (.scalmax h o) :=
  of_word (o.view 7 5 h) rfl (by show 7 < 16; omega) (by show 5 < 64; omega) rfl (fun _ => rfl)
theorem ld (h : Hdr) (o : MemForm) : Statement (.ld h o) :=
  of_word (o.view 8 0 h) rfl (by show 8 < 16; omega) (by show 0 < 64; omega) rfl (fun _ => rfl)
theorem st (h : Hdr) (o : MemForm) : Statement (.st h o) :=
  of_word (o.view 8 1 h) rfl (by show 8 < 16; omega) (by show 1 < 64; omega) rfl (fun _ => rfl)
theorem ldk (h : Hdr) (o : MemForm) : Statement (.ldk h o) :=
  of_word (o.view 8 2 h) rfl (by show 8 < 16; omega) (by show 2 < 64; omega) rfl (fun _ => rfl)
theorem stc (h : Hdr) (o : MemForm) : Statement (.stc h o) :=
  of_word (o.view 8 3 h) rfl (by show 8 < 16; omega) (by show 3 < 64; omega) rfl (fun _ => rfl)
theorem lde (h : Hdr) (o : MemForm) : Statement (.lde h o) :=
  of_word (o.view 8 4 h) rfl (by show 8 < 16; omega) (by show 4 < 64; omega) rfl (fun _ => rfl)
theorem prefd (h : Hdr) (o : MemForm) : Statement (.prefd h o) :=
  of_word (o.view 8 5 h) rfl (by show 8 < 16; omega) (by show 5 < 64; omega) rfl (fun _ => rfl)
theorem cctlIcinv (h : Hdr) (o : MemForm) : Statement (.cctlIcinv h o) :=
  of_word (o.view 8 6 h) rfl (by show 8 < 16; omega) (by show 6 < 64; omega) rfl (fun hs => by simp_all [build, Instr.subOp, buildMem, build8Mem, MemForm.view])
theorem cctlRdcinv (h : Hdr) (o : MemForm) : Statement (.cctlRdcinv h o) :=
  of_word (o.view 8 6 h) rfl (by show 8 < 16; omega) (by show 6 < 64; omega) rfl (fun hs => by simp_all [build, Instr.subOp, buildMem, build8Mem, MemForm.view])
theorem cctlWb (h : Hdr) (o : MemForm) : Statement (.cctlWb h o) :=
  of_word (o.view 8 6 h) rfl (by show 8 < 16; omega) (by show 6 < 64; omega) rfl (fun hs => by simp_all [build, Instr.subOp, buildMem, build8Mem, MemForm.view])
theorem cctlWbinv (h : Hdr) (o : MemForm) : Statement (.cctlWbinv h o) :=
  of_word (o.view 8 6 h) rfl (by show 8 < 16; omega) (by show 6 < 64; omega) rfl (fun hs => by simp_all [build, Instr.subOp, buildMem, build8Mem, MemForm.view])
theorem atom (h : Hdr) (o : MemForm) : Statement (.atom h o) :=
  of_word (o.view 9 0 h) rfl (by show 9 < 16; omega) (by show 0 < 64; omega) rfl (fun _ => rfl)
theorem red (h : Hdr) (o : MemForm) : Statement (.red h o) :=
  of_word (o.view 9 1 h) rfl (by show 9 < 16; omega) (by show 1 < 64; omega) rfl (fun _ => rfl)
theorem cas (h : Hdr) (o : MemForm) : Statement (.cas h o) :=
  of_word (o.view 9 2 h) rfl (by show 9 < 16; omega) (by show 2 < 64; omega) rfl (fun _ => rfl)
theorem ordadd (h : Hdr) (o : MemForm) : Statement (.ordadd h o) :=
  of_word (o.view 9 3 h) rfl (by show 9 < 16; omega) (by show 3 < 64; omega) rfl (fun _ => rfl)
theorem flushord (h : Hdr) (o : RegForm) : Statement (.flushord h o) :=
  of_word (o.view 9 4 h) rfl (by show 9 < 16; omega) (by show 4 < 64; omega) rfl (fun _ => rfl)
theorem fence (h : Hdr) (o : ImmForm) : Statement (.fence h o) :=
  of_word (o.view 9 5 h) rfl (by show 9 < 16; omega) (by show 5 < 64; omega) rfl (fun _ => rfl)
theorem cpy (h : Hdr) (o : MemForm) : Statement (.cpy h o) :=
  of_word (o.view 10 0 h) rfl (by show 10 < 16; omega) (by show 0 < 64; omega) rfl (fun _ => rfl)
theorem cpytIn (h : Hdr) (o : RegForm) : Statement (.cpytIn h o) :=
  of_word (o.view 10 1 h) rfl (by show 10 < 16; omega) (by show 1 < 64; omega) rfl (fun hs => by simp_all [build, Instr.subOp, buildReg, build10Reg, RegForm.view])
theorem cpytOut (h : Hdr) (o : RegForm) : Statement (.cpytOut h o) :=
  of_word (o.view 10 1 h) rfl (by show 10 < 16; omega) (by show 1 < 64; omega) rfl (fun hs => by simp_all [build, Instr.subOp, buildReg, build10Reg, RegForm.view])
theorem cpycsr (h : Hdr) (o : RegForm) : Statement (.cpycsr h o) :=
  of_word (o.view 10 2 h) rfl (by show 10 < 16; omega) (by show 2 < 64; omega) rfl (fun _ => rfl)
theorem bsetArm (h : Hdr) (o : RegForm) : Statement (.bsetArm h o) :=
  of_word (o.view 10 3 h) rfl (by show 10 < 16; omega) (by show 3 < 64; omega) rfl (fun hs => by simp_all [build, Instr.subOp, buildReg, build10Reg, RegForm.view])
theorem bsetClose (h : Hdr) (o : RegForm) : Statement (.bsetClose h o) :=
  of_word (o.view 10 3 h) rfl (by show 10 < 16; omega) (by show 3 < 64; omega) rfl (fun hs => by simp_all [build, Instr.subOp, buildReg, build10Reg, RegForm.view])
theorem bsetDrain (h : Hdr) (o : RegForm) : Statement (.bsetDrain h o) :=
  of_word (o.view 10 3 h) rfl (by show 10 < 16; omega) (by show 3 < 64; omega) rfl (fun hs => by simp_all [build, Instr.subOp, buildReg, build10Reg, RegForm.view])
theorem bsetFree (h : Hdr) (o : RegForm) : Statement (.bsetFree h o) :=
  of_word (o.view 10 3 h) rfl (by show 10 < 16; omega) (by show 3 < 64; omega) rfl (fun hs => by simp_all [build, Instr.subOp, buildReg, build10Reg, RegForm.view])
theorem bsetReset (h : Hdr) (o : RegForm) : Statement (.bsetReset h o) :=
  of_word (o.view 10 3 h) rfl (by show 10 < 16; omega) (by show 3 < 64; omega) rfl (fun hs => by simp_all [build, Instr.subOp, buildReg, build10Reg, RegForm.view])
theorem bwait (h : Hdr) (o : RegForm) : Statement (.bwait h o) :=
  of_word (o.view 10 4 h) rfl (by show 10 < 16; omega) (by show 4 < 64; omega) rfl (fun _ => rfl)
theorem bquery (h : Hdr) (o : RegForm) : Statement (.bquery h o) :=
  of_word (o.view 10 5 h) rfl (by show 10 < 16; omega) (by show 5 < 64; omega) rfl (fun _ => rfl)
theorem wptr (h : Hdr) (o : RegForm) : Statement (.wptr h o) :=
  of_word (o.view 10 6 h) rfl (by show 10 < 16; omega) (by show 6 < 64; omega) rfl (fun hs => by simp_all [build, Instr.subOp, buildReg, build10Reg, RegForm.view])
theorem wptrGe (h : Hdr) (o : RegForm) : Statement (.wptrGe h o) :=
  of_word (o.view 10 6 h) rfl (by show 10 < 16; omega) (by show 6 < 64; omega) rfl (fun hs => by simp_all [build, Instr.subOp, buildReg, build10Reg, RegForm.view])
theorem pres (h : Hdr) (o : RegForm) : Statement (.pres h o) :=
  of_word (o.view 11 0 h) rfl (by show 11 < 16; omega) (by show 0 < 64; omega) rfl (fun _ => rfl)
theorem pcom (h : Hdr) (o : RegForm) : Statement (.pcom h o) :=
  of_word (o.view 11 1 h) rfl (by show 11 < 16; omega) (by show 1 < 64; omega) rfl (fun _ => rfl)
theorem ptake (h : Hdr) (o : RegForm) : Statement (.ptake h o) :=
  of_word (o.view 11 2 h) rfl (by show 11 < 16; omega) (by show 2 < 64; omega) rfl (fun _ => rfl)
theorem prel (h : Hdr) (o : RegForm) : Statement (.prel h o) :=
  of_word (o.view 11 3 h) rfl (by show 11 < 16; omega) (by show 3 < 64; omega) rfl (fun _ => rfl)
theorem pcpyIn (h : Hdr) (o : RegForm) : Statement (.pcpyIn h o) :=
  of_word (o.view 11 4 h) rfl (by show 11 < 16; omega) (by show 4 < 64; omega) rfl (fun hs => by simp_all [build, Instr.subOp, buildReg, build11Reg, RegForm.view])
theorem pcpyOut (h : Hdr) (o : RegForm) : Statement (.pcpyOut h o) :=
  of_word (o.view 11 4 h) rfl (by show 11 < 16; omega) (by show 4 < 64; omega) rfl (fun hs => by simp_all [build, Instr.subOp, buildReg, build11Reg, RegForm.view])
theorem pquery (h : Hdr) (o : RegForm) : Statement (.pquery h o) :=
  of_word (o.view 11 5 h) rfl (by show 11 < 16; omega) (by show 5 < 64; omega) rfl (fun _ => rfl)
theorem pspill (h : Hdr) (o : RegForm) : Statement (.pspill h o) :=
  of_word (o.view 11 6 h) rfl (by show 11 < 16; omega) (by show 6 < 64; omega) rfl (fun _ => rfl)
theorem pdrain (h : Hdr) (o : RegForm) : Statement (.pdrain h o) :=
  of_word (o.view 11 7 h) rfl (by show 11 < 16; omega) (by show 7 < 64; omega) rfl (fun _ => rfl)
theorem mxLdb (h : Hdr) (o : RegForm) : Statement (.mxLdb h o) :=
  of_word (o.view 12 0 h) rfl (by show 12 < 16; omega) (by show 0 < 64; omega) rfl (fun _ => rfl)
theorem mxMma (h : Hdr) (o : RegForm) : Statement (.mxMma h o) :=
  of_word (o.view 12 1 h) rfl (by show 12 < 16; omega) (by show 1 < 64; omega) rfl (fun _ => rfl)
theorem mxGmma (h : Hdr) (o : RegForm) : Statement (.mxGmma h o) :=
  of_word (o.view 12 2 h) rfl (by show 12 < 16; omega) (by show 2 < 64; omega) rfl (fun _ => rfl)
theorem mxRd (h : Hdr) (o : RegForm) : Statement (.mxRd h o) :=
  of_word (o.view 12 3 h) rfl (by show 12 < 16; omega) (by show 3 < 64; omega) rfl (fun _ => rfl)
theorem mxClr (h : Hdr) (o : RegForm) : Statement (.mxClr h o) :=
  of_word (o.view 12 4 h) rfl (by show 12 < 16; omega) (by show 4 < 64; omega) rfl (fun _ => rfl)
theorem mxPost (h : Hdr) (o : MemForm) : Statement (.mxPost h o) :=
  of_word (o.view 12 5 h) rfl (by show 12 < 16; omega) (by show 5 < 64; omega) rfl (fun _ => rfl)
theorem mxRing (h : Hdr) (o : RegForm) : Statement (.mxRing h o) :=
  of_word (o.view 12 6 h) rfl (by show 12 < 16; omega) (by show 6 < 64; omega) rfl (fun _ => rfl)
theorem mxStat (h : Hdr) (o : ImmForm) : Statement (.mxStat h o) :=
  of_word (o.view 12 7 h) rfl (by show 12 < 16; omega) (by show 7 < 64; omega) rfl (fun _ => rfl)
theorem barArr (h : Hdr) (o : RegForm) : Statement (.barArr h o) :=
  of_word (o.view 13 0 h) rfl (by show 13 < 16; omega) (by show 0 < 64; omega) rfl (fun _ => rfl)
theorem barWait (h : Hdr) (o : RegForm) : Statement (.barWait h o) :=
  of_word (o.view 13 1 h) rfl (by show 13 < 16; omega) (by show 1 < 64; omega) rfl (fun _ => rfl)
theorem barSync (h : Hdr) (o : RegForm) : Statement (.barSync h o) :=
  of_word (o.view 13 2 h) rfl (by show 13 < 16; omega) (by show 2 < 64; omega) rfl (fun _ => rfl)
theorem barBytes (h : Hdr) (o : RegForm) : Statement (.barBytes h o) :=
  of_word (o.view 13 3 h) rfl (by show 13 < 16; omega) (by show 3 < 64; omega) rfl (fun _ => rfl)
theorem barMem (h : Hdr) (o : RegForm) : Statement (.barMem h o) :=
  of_word (o.view 13 4 h) rfl (by show 13 < 16; omega) (by show 4 < 64; omega) rfl (fun hs => by simp_all [build, Instr.subOp, buildReg, build13Reg, RegForm.view])
theorem barMemBind (h : Hdr) (o : RegForm) : Statement (.barMemBind h o) :=
  of_word (o.view 13 4 h) rfl (by show 13 < 16; omega) (by show 4 < 64; omega) rfl (fun hs => by simp_all [build, Instr.subOp, buildReg, build13Reg, RegForm.view])
theorem barMemUnbind (h : Hdr) (o : RegForm) : Statement (.barMemUnbind h o) :=
  of_word (o.view 13 4 h) rfl (by show 13 < 16; omega) (by show 4 < 64; omega) rfl (fun hs => by simp_all [build, Instr.subOp, buildReg, build13Reg, RegForm.view])
theorem tlSig (h : Hdr) (o : RegForm) : Statement (.tlSig h o) :=
  of_word (o.view 13 8 h) rfl (by show 13 < 16; omega) (by show 8 < 64; omega) rfl (fun _ => rfl)
theorem tlWait (h : Hdr) (o : RegForm) : Statement (.tlWait h o) :=
  of_word (o.view 13 9 h) rfl (by show 13 < 16; omega) (by show 9 < 64; omega) rfl (fun _ => rfl)
theorem tlRd (h : Hdr) (o : RegForm) : Statement (.tlRd h o) :=
  of_word (o.view 13 10 h) rfl (by show 13 < 16; omega) (by show 10 < 64; omega) rfl (fun _ => rfl)
theorem ltSet (h : Hdr) (o : RegForm) : Statement (.ltSet h o) :=
  of_word (o.view 13 16 h) rfl (by show 13 < 16; omega) (by show 16 < 64; omega) rfl (fun _ => rfl)
theorem ltAdv (h : Hdr) (o : RegForm) : Statement (.ltAdv h o) :=
  of_word (o.view 13 17 h) rfl (by show 13 < 16; omega) (by show 17 < 64; omega) rfl (fun _ => rfl)
theorem ltHold (h : Hdr) (o : RegForm) : Statement (.ltHold h o) :=
  of_word (o.view 13 18 h) rfl (by show 13 < 16; omega) (by show 18 < 64; omega) rfl (fun hs => by simp_all [build, Instr.subOp, buildReg, build13Reg, RegForm.view])
theorem ltHoldRoot (h : Hdr) (o : RegForm) : Statement (.ltHoldRoot h o) :=
  of_word (o.view 13 18 h) rfl (by show 13 < 16; omega) (by show 18 < 64; omega) rfl (fun hs => by simp_all [build, Instr.subOp, buildReg, build13Reg, RegForm.view])
theorem ltDrop (h : Hdr) (o : RegForm) : Statement (.ltDrop h o) :=
  of_word (o.view 13 19 h) rfl (by show 13 < 16; omega) (by show 19 < 64; omega) rfl (fun hs => by simp_all [build, Instr.subOp, buildReg, build13Reg, RegForm.view])
theorem ltDropRoot (h : Hdr) (o : RegForm) : Statement (.ltDropRoot h o) :=
  of_word (o.view 13 19 h) rfl (by show 13 < 16; omega) (by show 19 < 64; omega) rfl (fun hs => by simp_all [build, Instr.subOp, buildReg, build13Reg, RegForm.view])
theorem ltFront (h : Hdr) (o : RegForm) : Statement (.ltFront h o) :=
  of_word (o.view 13 20 h) rfl (by show 13 < 16; omega) (by show 20 < 64; omega) rfl (fun _ => rfl)
theorem ltAwait (h : Hdr) (o : RegForm) : Statement (.ltAwait h o) :=
  of_word (o.view 13 21 h) rfl (by show 13 < 16; omega) (by show 21 < 64; omega) rfl (fun _ => rfl)
theorem tkPost (h : Hdr) (o : RegForm) : Statement (.tkPost h o) :=
  of_word (o.view 13 24 h) rfl (by show 13 < 16; omega) (by show 24 < 64; omega) rfl (fun _ => rfl)
theorem tkDone (h : Hdr) (o : RegForm) : Statement (.tkDone h o) :=
  of_word (o.view 13 25 h) rfl (by show 13 < 16; omega) (by show 25 < 64; omega) rfl (fun _ => rfl)
theorem tkArmBind (h : Hdr) (o : RegForm) : Statement (.tkArmBind h o) :=
  of_word (o.view 13 26 h) rfl (by show 13 < 16; omega) (by show 26 < 64; omega) rfl (fun hs => by simp_all [build, Instr.subOp, buildReg, build13Reg, RegForm.view])
theorem tkArmUnbind (h : Hdr) (o : RegForm) : Statement (.tkArmUnbind h o) :=
  of_word (o.view 13 26 h) rfl (by show 13 < 16; omega) (by show 26 < 64; omega) rfl (fun hs => by simp_all [build, Instr.subOp, buildReg, build13Reg, RegForm.view])
theorem tkArmTake (h : Hdr) (o : RegForm) : Statement (.tkArmTake h o) :=
  of_word (o.view 13 26 h) rfl (by show 13 < 16; omega) (by show 26 < 64; omega) rfl (fun hs => by simp_all [build, Instr.subOp, buildReg, build13Reg, RegForm.view])
theorem tkArmTakeDirect (h : Hdr) (o : RegForm) : Statement (.tkArmTakeDirect h o) :=
  of_word (o.view 13 26 h) rfl (by show 13 < 16; omega) (by show 26 < 64; omega) rfl (fun hs => by simp_all [build, Instr.subOp, buildReg, build13Reg, RegForm.view])
theorem fxSend (h : Hdr) (o : RegForm) : Statement (.fxSend h o) :=
  of_word (o.view 14 0 h) rfl (by show 14 < 16; omega) (by show 0 < 64; omega) rfl (fun _ => rfl)
theorem fxCirc (h : Hdr) (o : RegForm) : Statement (.fxCirc h o) :=
  of_word (o.view 14 1 h) rfl (by show 14 < 16; omega) (by show 1 < 64; omega) rfl (fun _ => rfl)
theorem fxGen (h : Hdr) (o : RegForm) : Statement (.fxGen h o) :=
  of_word (o.view 14 2 h) rfl (by show 14 < 16; omega) (by show 2 < 64; omega) rfl (fun hs => by simp_all [build, Instr.subOp, buildReg, build14Reg, RegForm.view])
theorem fxGenNe (h : Hdr) (o : RegForm) : Statement (.fxGenNe h o) :=
  of_word (o.view 14 2 h) rfl (by show 14 < 16; omega) (by show 2 < 64; omega) rfl (fun hs => by simp_all [build, Instr.subOp, buildReg, build14Reg, RegForm.view])
theorem fxSlot (h : Hdr) (o : RegForm) : Statement (.fxSlot h o) :=
  of_word (o.view 14 3 h) rfl (by show 14 < 16; omega) (by show 3 < 64; omega) rfl (fun _ => rfl)
theorem fxQstat (h : Hdr) (o : RegForm) : Statement (.fxQstat h o) :=
  of_word (o.view 14 4 h) rfl (by show 14 < 16; omega) (by show 4 < 64; omega) rfl (fun _ => rfl)
theorem coFire (h : Hdr) (o : RegForm) : Statement (.coFire h o) :=
  of_word (o.view 14 8 h) rfl (by show 14 < 16; omega) (by show 8 < 64; omega) rfl (fun _ => rfl)
theorem coAck (h : Hdr) (o : RegForm) : Statement (.coAck h o) :=
  of_word (o.view 14 9 h) rfl (by show 14 < 16; omega) (by show 9 < 64; omega) rfl (fun hs => by simp_all [build, Instr.subOp, buildReg, build14Reg, RegForm.view])
theorem coAckAll (h : Hdr) (o : RegForm) : Statement (.coAckAll h o) :=
  of_word (o.view 14 9 h) rfl (by show 14 < 16; omega) (by show 9 < 64; omega) rfl (fun hs => by simp_all [build, Instr.subOp, buildReg, build14Reg, RegForm.view])
theorem coStat (h : Hdr) (o : RegForm) : Statement (.coStat h o) :=
  of_word (o.view 14 10 h) rfl (by show 14 < 16; omega) (by show 10 < 64; omega) rfl (fun _ => rfl)
theorem trap (h : Hdr) (o : ImmForm) : Statement (.trap h o) :=
  of_word (o.view 15 0 h) rfl (by show 15 < 16; omega) (by show 0 < 64; omega) rfl (fun _ => rfl)
theorem brk (h : Hdr) (o : ImmForm) : Statement (.brk h o) :=
  of_word (o.view 15 1 h) rfl (by show 15 < 16; omega) (by show 1 < 64; omega) rfl (fun _ => rfl)
theorem sysc (h : Hdr) (o : ImmForm) : Statement (.sysc h o) :=
  of_word (o.view 15 2 h) rfl (by show 15 < 16; omega) (by show 2 < 64; omega) rfl (fun _ => rfl)
theorem wdkick (h : Hdr) (o : RegForm) : Statement (.wdkick h o) :=
  of_word (o.view 15 3 h) rfl (by show 15 < 16; omega) (by show 3 < 64; omega) rfl (fun _ => rfl)
theorem rte (h : Hdr) (o : RegForm) : Statement (.rte h o) :=
  of_word (o.view 15 56 h) rfl (by show 15 < 16; omega) (by show 56 < 64; omega) rfl (fun _ => rfl)
theorem rdwin (h : Hdr) (o : RegForm) : Statement (.rdwin h o) :=
  of_word (o.view 15 57 h) rfl (by show 15 < 16; omega) (by show 57 < 64; omega) rfl (fun _ => rfl)
theorem wrwin (h : Hdr) (o : RegForm) : Statement (.wrwin h o) :=
  of_word (o.view 15 58 h) rfl (by show 15 < 16; omega) (by show 58 < 64; omega) rfl (fun _ => rfl)
theorem park (h : Hdr) (o : RegForm) : Statement (.park h o) :=
  of_word (o.view 15 59 h) rfl (by show 15 < 16; omega) (by show 59 < 64; omega) rfl (fun _ => rfl)
theorem unpark (h : Hdr) (o : RegForm) : Statement (.unpark h o) :=
  of_word (o.view 15 60 h) rfl (by show 15 < 16; omega) (by show 60 < 64; omega) rfl (fun _ => rfl)
theorem csave (h : Hdr) (o : RegForm) : Statement (.csave h o) :=
  of_word (o.view 15 61 h) rfl (by show 15 < 16; omega) (by show 61 < 64; omega) rfl (fun _ => rfl)
theorem crest (h : Hdr) (o : RegForm) : Statement (.crest h o) :=
  of_word (o.view 15 62 h) rfl (by show 15 < 16; omega) (by show 62 < 64; omega) rfl (fun _ => rfl)
theorem halt (h : Hdr) (o : ImmForm) : Statement (.halt h o) :=
  of_word (o.view 15 63 h) rfl (by show 15 < 16; omega) (by show 63 < 64; omega) rfl (fun _ => rfl)
theorem quadIssue : Statement .quadIssue := of_event rfl
theorem watchdogExpiry : Statement .watchdogExpiry := of_event rfl
theorem sleepExpiry : Statement .sleepExpiry := of_event rfl
theorem lookaheadResult : Statement .lookaheadResult := of_event rfl
theorem icacheFill : Statement .icacheFill := of_event rfl
theorem cfetchLanded : Statement .cfetchLanded := of_event rfl
theorem tailSubmission : Statement .tailSubmission := of_event rfl
theorem fifoEntryEvaluation : Statement .fifoEntryEvaluation := of_event rfl
theorem tailerrClear : Statement .tailerrClear := of_event rfl
theorem queueEnable : Statement .queueEnable := of_event rfl
theorem qheadWrite : Statement .qheadWrite := of_event rfl
theorem cmdNop : Statement .cmdNop := of_event rfl
theorem cmdResume : Statement .cmdResume := of_event rfl
theorem cmdPreempt : Statement .cmdPreempt := of_event rfl
theorem cmdDrainPlan : Statement .cmdDrainPlan := of_event rfl
theorem cmdIndirect : Statement .cmdIndirect := of_event rfl
theorem cmdReturn : Statement .cmdReturn := of_event rfl
theorem cmdSignal : Statement .cmdSignal := of_event rfl
theorem cmdWaitTime : Statement .cmdWaitTime := of_event rfl
theorem cmdFence : Statement .cmdFence := of_event rfl
theorem waitTimePoll : Statement .waitTimePoll := of_event rfl
theorem fenceCommit : Statement .fenceCommit := of_event rfl
theorem firmwareRestart : Statement .firmwareRestart := of_event rfl
theorem ctxidWrite : Statement .ctxidWrite := of_event rfl
theorem restorePhase : Statement .restorePhase := of_event rfl
theorem startUnits : Statement .startUnits := of_event rfl
theorem gangPlace : Statement .gangPlace := of_event rfl
theorem plwaitExpiry : Statement .plwaitExpiry := of_event rfl
theorem shadowSlotTake : Statement .shadowSlotTake := of_event rfl
theorem weirSample : Statement .weirSample := of_event rfl
theorem weirIntervalEnd : Statement .weirIntervalEnd := of_event rfl
theorem sluiceDeferredServe : Statement .sluiceDeferredServe := of_event rfl
theorem dieLinkFail : Statement .dieLinkFail := of_event rfl
theorem dieUnreachable : Statement .dieUnreachable := of_event rfl
theorem memoryAccessPerform : Statement .memoryAccessPerform := of_event rfl
theorem translationWalk : Statement .translationWalk := of_event rfl
theorem rdcProbe : Statement .rdcProbe := of_event rfl
theorem probeAck : Statement .probeAck := of_event rfl
theorem dropNotice : Statement .dropNotice := of_event rfl
theorem hbmRefresh : Statement .hbmRefresh := of_event rfl
theorem invalidationStart : Statement .invalidationStart := of_event rfl
theorem invalidationComplete : Statement .invalidationComplete := of_event rfl
theorem migrationStart : Statement .migrationStart := of_event rfl
theorem migrationEnd : Statement .migrationEnd := of_event rfl
theorem hotnessHalving : Statement .hotnessHalving := of_event rfl
theorem orderedOverflow : Statement .orderedOverflow := of_event rfl
theorem orddrop : Statement .orddrop := of_event rfl
theorem copyDescriptorStart : Statement .copyDescriptorStart := of_event rfl
theorem copyReadComplete : Statement .copyReadComplete := of_event rfl
theorem deliveryCount : Statement .deliveryCount := of_event rfl
theorem outCopyEnd : Statement .outCopyEnd := of_event rfl
theorem handleWaiterWake : Statement .handleWaiterWake := of_event rfl
theorem pipeRequestArrival : Statement .pipeRequestArrival := of_event rfl
theorem pipeCounterChange : Statement .pipeCounterChange := of_event rfl
theorem tileSpill : Statement .tileSpill := of_event rfl
theorem deadlockDeclaration : Statement .deadlockDeclaration := of_event rfl
theorem stagingTransfer : Statement .stagingTransfer := of_event rfl
theorem tileArrival : Statement .tileArrival := of_event rfl
theorem creditReport : Statement .creditReport := of_event rfl
theorem stagingAck : Statement .stagingAck := of_event rfl
theorem jobStart : Statement .jobStart := of_event rfl
theorem jobLastRead : Statement .jobLastRead := of_event rfl
theorem engineArrival : Statement .engineArrival := of_event rfl
theorem jobComplete : Statement .jobComplete := of_event rfl
theorem selfTest : Statement .selfTest := of_event rfl
theorem controlStoreLoad : Statement .controlStoreLoad := of_event rfl
theorem barrierPhaseAdvance : Statement .barrierPhaseAdvance := of_event rfl
theorem barrierWaiterRelease : Statement .barrierWaiterRelease := of_event rfl
theorem tlSigComplete : Statement .tlSigComplete := of_event rfl
theorem timelineWaiterWake : Statement .timelineWaiterWake := of_event rfl
theorem tidelineBatchApply : Statement .tidelineBatchApply := of_event rfl
theorem frontierRecompute : Statement .frontierRecompute := of_event rfl
theorem frontierWaiterRelease : Statement .frontierWaiterRelease := of_event rfl
theorem tidelineHeldTimeout : Statement .tidelineHeldTimeout := of_event rfl
theorem taskRequestArrival : Statement .taskRequestArrival := of_event rfl
theorem taskVerdictReturn : Statement .taskVerdictReturn := of_event rfl
theorem ualinkReplay : Statement .ualinkReplay := of_event rfl
theorem ualinkPortFail : Statement .ualinkPortFail := of_event rfl
theorem ualinkPortRetrain : Statement .ualinkPortRetrain := of_event rfl
theorem ualinkRouteTimeout : Statement .ualinkRouteTimeout := of_event rfl
theorem sendEligible : Statement .sendEligible := of_event rfl
theorem dataPeriodStart : Statement .dataPeriodStart := of_event rfl
theorem guardInterval : Statement .guardInterval := of_event rfl
theorem frameReceive : Statement .frameReceive := of_event rfl
theorem frameAckReceive : Statement .frameAckReceive := of_event rfl
theorem controlMessage : Statement .controlMessage := of_event rfl
theorem circuitRequestArrival : Statement .circuitRequestArrival := of_event rfl
theorem tableActivation : Statement .tableActivation := of_event rfl
theorem circuitRequestWithdraw : Statement .circuitRequestWithdraw := of_event rfl
theorem receiveWindowEnable : Statement .receiveWindowEnable := of_event rfl
theorem childPartialArrival : Statement .childPartialArrival := of_event rfl
theorem reduceBlockEnd : Statement .reduceBlockEnd := of_event rfl
theorem commitRequest : Statement .commitRequest := of_event rfl
theorem broadcastArrival : Statement .broadcastArrival := of_event rfl
theorem redoRequest : Statement .redoRequest := of_event rfl
theorem redo : Statement .redo := of_event rfl
theorem collectiveFail : Statement .collectiveFail := of_event rfl
theorem faultRecordWrite : Statement .faultRecordWrite := of_event rfl
theorem drainEnd : Statement .drainEnd := of_event rfl
theorem forceCycle : Statement .forceCycle := of_event rfl
theorem quiesce : Statement .quiesce := of_event rfl
theorem groupResourcesFree : Statement .groupResourcesFree := of_event rfl
theorem launchRetire : Statement .launchRetire := of_event rfl
theorem planRetire : Statement .planRetire := of_event rfl
theorem engineReset : Statement .engineReset := of_event rfl
theorem channelReset : Statement .channelReset := of_event rfl
theorem walkerReset : Statement .walkerReset := of_event rfl
theorem tidelineNodeReset : Statement .tidelineNodeReset := of_event rfl
theorem coreReset : Statement .coreReset := of_event rfl
theorem dieReset : Statement .dieReset := of_event rfl
theorem packageWarmReset : Statement .packageWarmReset := of_event rfl
theorem packageColdReset : Statement .packageColdReset := of_event rfl
theorem managementDomainReset : Statement .managementDomainReset := of_event rfl
theorem dieBoot : Statement .dieBoot := of_event rfl
theorem hbmChannelRecalibration : Statement .hbmChannelRecalibration := of_event rfl
theorem wavelengthRecalibration : Statement .wavelengthRecalibration := of_event rfl
theorem firmwareUpdate : Statement .firmwareUpdate := of_event rfl
theorem firmwareActivation : Statement .firmwareActivation := of_event rfl
theorem thermalEvent : Statement .thermalEvent := of_event rfl
theorem thermalReset : Statement .thermalReset := of_event rfl
theorem telemetryRead : Statement .telemetryRead := of_event rfl
theorem counterReadClear : Statement .counterReadClear := of_event rfl
theorem registerWrite : Statement .registerWrite := of_event rfl
theorem waitTimeClockReached : Statement .waitTimeClockReached := of_event rfl
theorem fqbaseWrite : Statement .fqbaseWrite := of_event rfl
theorem fqtailWrite : Statement .fqtailWrite := of_event rfl
theorem firmwareRestartEnd : Statement .firmwareRestartEnd := of_event rfl

end Sys2Proof.Laws.Fields
end

