-- ==== Sys2Proof/Laws/Results.lean ====
section
/-! SUPPORT. The shapes of instruction that write results in the lanes of E: what each of their shared operations does. -/

namespace Sys2Proof.Machine

variable (i : Instr) (v : View)

theorem laneResult_of (r : Nat) (q : Env → Nat) (f g : Env → Nat → Nat) (lat : Env → Nat)
    (hx : ∀ s, exec i s = issueWord v (fun x s => .ok (x.put s (q x) (g x)) (lat x)) s) (hq : ∀ x, x.v = v → q x = r)
    (hf : ∀ x, x.v = v → ∀ l, g x l = f x l) : LaneResult i v r f :=
  completes_of i _ _ _ hx fun x s hv _ _ => ⟨by
    simp only [Res.ok, Env.put, hq x hv]
    exact congrArg (s.modLanes x.t x.e) (funext fun l => funext fun y => by rw [hf x hv l]), fun _ _ => rfl⟩

theorem laneResult_laneOp (f g : Env → Nat → Nat) (hx : ∀ s, exec i s = laneOp v g s)
    (hf : ∀ x, x.v = v → ∀ l, g x l = f x l) : LaneResult i v v.ty.regs f :=
  laneResult_of i v _ (fun _ => _) f g (fun _ => v.latency) hx (fun _ _ => rfl) hf

theorem laneResult_countOp (f g : Env → Nat → Nat) (hx : ∀ s, exec i s = countOp v g s)
    (hf : ∀ x, x.v = v → ∀ l, g x l = f x l) : LaneResult i v 1 f :=
  laneResult_of i v _ (fun _ => _) f g (fun _ => v.latency) hx (fun _ _ => rfl) hf

theorem laneResult_fltOp (f g : Env → Nat → Nat) (hx : ∀ s, exec i s = fltOp v g s)
    (hf : ∀ x, x.v = v → ∀ l, g x l = f x l) : LaneResult i v 1 f :=
  laneResult_of i v _ (fun _ => _) f g (fun _ => v.latency) hx (fun _ _ => rfl) hf

theorem packedResult_halfOp (f : Env → Nat → Nat → Nat) (hx : ∀ s, exec i s = halfOp v f s) : PackedResult i v f :=
  laneResult_of i v _ (fun _ => 1) _ _ (fun _ => v.latency) hx (fun _ _ => rfl) fun _ _ _ => rfl

theorem pairResult_pairOp (pe cm : Nat) (f g : Env → Nat → Bool) (hx : ∀ s, exec i s = pairOp v cm g s)
    (hp : v.pe.getD 7 = pe) (hf : ∀ x, x.v = v → ∀ l, g x l = f x l) : PairResult i v pe cm f :=
  completes_of i _ _ _ hx fun x s hv hE _ => ⟨by
    subst hp
    simp only [Res.ok, Env.putPair, if_neg hE]
    exact congrArg (State.modLanes _ x.t x.e) (funext fun l => funext fun y => by rw [hf x hv l]), fun _ _ => rfl⟩

theorem uniformResult_of (r : Nat) (q : Env → Nat) (f g : Env → State → Nat → Nat)
    (hx : ∀ s, exec i s = issueWord v (fun x s => .ok (x.putLaneOrK s (q x) x.v.latency (g x s)) x.v.latency) s)
    (hq : ∀ x, x.v = v → q x = r)
    (hf : ∀ x, x.v = v → ∀ s l, g x s l = f x s l) : UniformResult i v r f :=
  completes_of i _ _ _ hx fun x s hv hE _ => ⟨by
    have e : g x s = f x s := funext fun l => hf x hv s l
    simp only [Res.ok, Env.putLaneOrK, if_neg hE, e, hq x hv]
    rfl, fun _ _ => rfl⟩

end Sys2Proof.Machine
end

