-- ==== Sys2Proof/Laws/Walk.lean ====
section
/-! SUPPORT. What the walker's core and the shared operations of units on the memory side can do. -/

namespace Sys2Proof.Machine

/-! ### The walker's core -/

theorem Rv.get_zero (r : Rv) : r.get 0 = 0 := rfl
theorem Rv.set_zero (r : Rv) (v : W32) : r.set 0 v = r := rfl

theorem getElem?_updAt {α : Type} (l : List α) (n m : Nat) (f : α → α) (h : m ≠ n) : (updAt l n f)[m]? = l[m]? := by
  induction l generalizing n m with
  | nil => rfl
  | cons x t ih => cases n <;> cases m <;> simp_all [updAt]

theorem Rv.get_set (r : Rv) (n m : Nat) (v : W32) (hm : m ≠ n) : (r.set n v).get m = r.get m := by
  unfold Rv.set Rv.get
  split
  · rfl
  · split
    · rfl
    · simp only [List.getD_eq_getElem?_getD, getElem?_updAt _ _ _ _ hm]

/-- A write of one of the core's registers changes neither its pc, its window nor its store. -/
theorem Rv.set_frame (r : Rv) (n : Nat) (v : W32) : r.set n v = { r with x := (r.set n v).x } := by
  unfold Rv.set
  split <;> rfl

/-! ### Aperture lines -/

theorem State.dropAperture_frame (s : State) (d : Nat) : s.dropAperture d = { s with dies := (s.dropAperture d).dies } := rfl

/-- An acquire drops lines of a die at most: memory, teams and every other part of the package stay. -/
theorem State.acquireDrop_frame (s : State) (d ord scope : Nat) :
    s.acquireDrop d ord scope = { s with dies := (s.acquireDrop d ord scope).dies } := by
  unfold State.acquireDrop
  split <;> rfl

theorem State.lanesDrop_frame (s : State) (d : Nat) (m : Lanes) (scope : Nat) :
    s.lanesDrop d m scope = { s with dies := (s.lanesDrop d m scope).dies } := by
  unfold State.lanesDrop
  split
  · rfl
  · exact s.acquireDrop_frame d 2 scope

/-- An acquire of die scope or narrower drops nothing. -/
theorem State.acquireDrop_narrow (s : State) (d ord scope : Nat) (h : scope < 4) : s.acquireDrop d ord scope = s := by
  unfold State.acquireDrop
  rw [if_neg]
  simp
  omega

/-! ### Ports -/

/-- Waiting for a port changes the list of such waits alone. -/
theorem State.portWait_frame (s : State) (d core va : Nat) :
    (s.portWait d core va).2 = { s with fab := { s.fab with blocked := (s.portWait d core va).2.fab.blocked } } := by
  unfold State.portWait
  simp only []
  split <;> rfl

/-- What a unit reaches is what the checks of the access give, with a port up where it lies behind an aperture. -/
theorem State.unitLocate_ok (s : State) (d core : Nat) (g : GroupRef) (va size need : Nat) (p : Place)
    (h : (s.unitLocate d core g va size need).1 = .ok p) :
    (s.locate d core g false va size need).1 = .ok p ∧ ((s.locate d core g false va size need).2.2.portDown p).isNone = true := by
  unfold State.unitLocate at h
  revert h
  generalize s.locate d core g false va size need = r
  obtain ⟨r, l, t⟩ := r
  intro h
  cases r with
  | error e => cases h
  | ok q =>
    cases hq : t.portDown q with
    | some x => simp [hq] at h
    | none => simp only [hq, Except.ok.injEq] at h; subst h; exact ⟨rfl, by rw [hq]; rfl⟩

end Sys2Proof.Machine
end

