-- ==== Sys2Proof/Tests/Slice0.lean ====
section
/-! SUPPORT. The package's own tests: ill-formed terms refused, words written out from the encodings, one step on small states, and for
each statement with hypotheses a state and operands that meet them. -/

namespace Sys2Proof.Tests

open Sys2Proof Machine

set_option maxRecDepth 20000
set_option Elab.async false

/-! ### Small states -/

/-- Guard always true, no lookahead (R111, R143). -/
def hdr : Hdr := ⟨0xFF, 7, 7, 7, 0, false⟩
/-- Guard always false. -/
def hdrOff : Hdr := ⟨0x00, 7, 7, 7, 0, false⟩

def gr : GroupRef := ⟨1, 0x8000, 0⟩
def tr : TeamRef := ⟨0, 1, 0⟩
def start : Addr := 0x10000

def role : Role := ⟨start, 0, 64, 1, 1, 4⟩
def grp : Machine.Group := Group.init gr 0 0 role 0 0 0 1 0 4096 0 (1, 1, 1)
/-- 32 lanes, the registers from g0 on as given in each. -/
def team (r : TeamRef) (g : GroupRef) (regs : List Nat) : Team :=
  let tm := Team.init r g 0 start [] 0
  { tm with lanes := tm.lanes.map fun l => { l with g := (regs.map (BitVec.ofNat 32)) ++ l.g.drop regs.length } }

/-- A context whose first GiB maps to itself by one entry of the compact format (R237). -/
def ctx : Ctx :=
  { (default : Ctx) with id := 1, rcb := 0x4000, phase := .running, walkfmt := 1, ptroot := 0x200000, tsbase := 0x10000, tkbase := 0x20000 }
def stage : Stage := { (default : Stage) with min := 1, max := 1, dies := 1, owned := [⟨0, 1⟩], roles := [role], live := 1 }
def plan : Plan := { (default : Plan) with ctx := 1, rcb := 0x8000, stages := [stage] }

/-- One group of one team on core 1, whose lanes 0 and 1 issue at `start`. -/
def st (regs : List Nat) : State :=
  { State.reset with teams := [team tr gr regs], groups := [grp], ctxs := [ctx], plans := [plan], mem := [(0x200000, 0x1F)],
                     cur := some ⟨tr, start, 3, none⟩ }
def stG (f : Machine.Group → Machine.Group) (regs : List Nat) : State := { st regs with groups := [f grp] }
/-- Handle `n` in a state of its own. -/
def stH (n : Nat) (f : Handle → Handle) (regs : List Nat) : State := stG (fun g => { g with handles := g.handles.modify n f }) regs
/-- A team of the firmware core. -/
def fw (regs : List Nat) : State :=
  { State.reset with teams := [team ⟨0, 0, 0⟩ ⟨8192, 0, 0⟩ regs], cur := some ⟨⟨0, 0, 0⟩, start, 1, none⟩ }

/-- The quad from g4 on: two words of 64 bits. -/
def quad (lo hi : Nat) : List Nat := [0, 0, 0, 0, lo % 2 ^ 32, lo / 2 ^ 32, hi % 2 ^ 32, hi / 2 ^ 32]

/-! ### Hypotheses met -/

/-- The word is well-formed, and no check of R145 fails at the current issue. -/
def readyB (s : State) (v : View) : Bool :=
  match s.cur with
  | none => false
  | some i => match s.team? i.team with
    | none => false
    | some tm => v.fail == 0 && (issueCheck s i.team v (s.regsOf tm)).isNone && (List.range 32).all fun l =>
        (!i.lanes.getLsbD l || (guardViolation tm v.h l).isNone) &&
        (!(issueE i tm v).getLsbD l || (operandViolation (envOf i tm v) l).isNone)

/-- The current issue's operands, and the state in which its effect is made. -/
def envAt (s : State) (v : View) : Env := envOf (s.cur.getD default) ((s.team? (s.cur.getD default).team).getD default) v
def begunAt (s : State) (v : View) : State := begun s (s.cur.getD default) v

/-- A state in which an issue of a well-formed word is under way, some lane executes, and `ok` holds. -/
def Met (v : View) (ok : Env → State → Prop) : Prop :=
  ∃ s iss tm, Ready s iss tm v ∧ issueE iss tm v ≠ 0 ∧ ok (envOf iss tm v) (begun s iss v)

/-- It is ready, and some lane executes. -/
def hit (s : State) (v : View) : Bool := readyB s v && (envAt s v).e != 0

theorem ready_of {s : State} {v : View} (h : readyB s v = true) :
    ∃ iss tm, Ready s iss tm v ∧ envOf iss tm v = envAt s v ∧ begun s iss v = begunAt s v := by
  unfold readyB at h
  split at h
  · cases h
  · rename_i i hi
    split at h
    · cases h
    · rename_i tm ht
      simp only [Bool.and_eq_true, Option.isNone_iff_eq_none, List.all_eq_true, List.mem_range] at h
      refine ⟨i, tm, ⟨hi, ht, h.1.2, fun l hl => ?_, fun l hl => ?_⟩, ?_, ?_⟩
      · have := (h.2 l (BitVec.lt_of_getLsbD hl)).1; rw [hl] at this; simpa using this
      · have := (h.2 l (BitVec.lt_of_getLsbD hl)).2; rw [hl] at this; simpa using this
      · simp [envAt, hi, ht]
      · simp [begunAt, hi]

theorem met (s : State) {v : View} {ok : Env → State → Prop} (h : hit s v = true) (ho : ok (envAt s v) (begunAt s v)) : Met v ok := by
  obtain ⟨h1, h2⟩ := Bool.and_eq_true_iff.1 h
  obtain ⟨i, tm, hr, he, hb⟩ := ready_of h1
  rw [← he] at h2
  exact ⟨s, i, tm, hr, by simpa [envOf] using h2, by rw [he, hb]; exact ho⟩

theorem met_all (s : State) (vs : List View) (h : vs.all (hit s) = true) : ∀ v ∈ vs, Met v always :=
  fun v hv => met s (List.all_eq_true.1 h v hv) trivial

/-- An operand that a field accepts: the first kind it takes, at a register or index of its own. -/
def opdFor (types : List Ty) (opt : Nat) (n : BitVec 8) : FSpec → Opd
  | .zero => .none0
  | .opt _ => .i (BitVec.ofNat 14 opt)
  | .opd _ ks _ _ sb =>
    let code (t : Ty) : BitVec 4 := BitVec.ofNat 4 (((List.range 16).find? fun c => Ty.ofCode c == t).getD 0)
    let sub : BitVec 4 := match sb with
      | .ty => code (types.headD .b32)
      | .src ts => code (ts.headD .b32)
      | _ => 0
    match ks.headD .z with
    | .g => .g 0 sub n | .k => .k 0 sub n | .i => .i 0
    | .p => .f 0 0 0 | .j => .f 0 1 0 | .b => .f 0 2 0 | .h => .f 0 3 0 | .w => .f 0 4 0 | .tc => .f 0 5 0
    | .sr => .f 0 6 0 | .ts => .f 0 8 0 | .z => .none0

/-- Operands that an operation accepts: A from g4, B from g8, C from g12, D to g16. -/
def regOf (c n opt : Nat) : RegForm :=
  match formOf c n with
  | some ⟨d, a, .reg x b, t⟩ => ⟨opdFor t opt 16 d, opdFor t opt 4 a, opdFor t opt 12 x, opdFor t opt 8 b⟩
  | _ => ⟨.none0, .none0, .none0, .none0⟩
def immOf (c n : Nat) (i : BitVec 32) : ImmForm :=
  match formOf c n with
  | some ⟨d, a, _, t⟩ => ⟨opdFor t 0 16 d, opdFor t 0 4 a, i⟩
  | _ => ⟨.none0, .none0, i⟩
/-- 2^`size` bytes of the scratchpad window, or of memory, at the address of A plus 32. -/
def memOf (c n : Nat) (space : Bool) (size : Nat) : MemForm :=
  match formOf c n with
  | some ⟨d, a, _, t⟩ => ⟨opdFor ((t.filter fun y => y.width == 8 * 2 ^ size) ++ t) 0 16 d, opdFor t 0 4 a, 0, 0, 0, space, BitVec.ofNat 3 size, 32⟩
  | _ => ⟨.none0, .none0, 0, 0, 0, space, BitVec.ofNat 3 size, 32⟩

def rv (c n opt : Nat) : View := (regOf c n opt).view c n hdr
def iv (c n : Nat) (i : BitVec 32) : View := (immOf c n i).view c n hdr
def mv (c n : Nat) (space : Bool) (size : Nat) : View := (memOf c n space size).view c n hdr
def rvs (c : Nat) (ns : List Nat) : List View := ns.map fun n => rv c n 0

/-! ### Ill-formed terms, one for each check of Table 4-9 that a word alone can fail, and one that names another row -/

theorem test_ill_reserved : (Instr.nop hdr ⟨.g 0 0 1, .none0, .none0, .none0⟩).wf = false := by decide
theorem test_ill_code : (Instr.join hdr ⟨.none0, .f 0 7 0, .none0, .none0⟩).wf = false := by decide
theorem test_ill_kind : (Instr.iadd hdr ⟨.g 0 0 1, .f 0 3 2, .none0, .g 0 0 3⟩).wf = false := by decide
theorem test_ill_pair : (Instr.iadd hdr ⟨.g 0 2 1, .g 0 0 2, .none0, .g 0 0 4⟩).wf = false := by decide
theorem test_ill_row : (Instr.cctlIcinv hdr ⟨.i 0x400, .g 0 0 4, 0, 0, 0, false, 0, 0⟩).wf = false := by decide
theorem test_well : (Instr.iadd hdr ⟨.g 0 2 2, .g 0 0 4, .none0, .g 0 0 6⟩).wf = true := by decide
theorem test_rejects : decode 0x0FFFFFE00000000000000000 = .error .unassigned ∧ decode 0x003FFFE00001000000000000 = .error .reservedBit ∧
    decode 0x017FFFE00000870000000000 = .error .reservedCode ∧ decode 0x103FFFE00001830200000003 = .error .operandKind ∧
    decode 0x103FFFE00201000200000004 = .error .alignment := by decide +kernel

/-! ### Words written out from Tables 4-3 to 4-8: CLASS 4, OPN 6, GTT 8, GA, GB, GC 3 each, LA 4, Y 1, D 16, A 16, then B -/

/-- `bra +5`, `fjmp -1`. -/
theorem test_word_class0 : decode 0x007FFFE00000000000000005 = .ok (.bra hdr ⟨.none0, .none0, 5⟩) ∧
    decode 0x02FFFFE000000000FFFFFFFF = .ok (.fjmp hdr ⟨.none0, .none0, 0xFFFFFFFF⟩) := by decide +kernel
/-- `shl.b32 g1, g2, g3`. -/
theorem test_word_class2 : decode 0x217FFFE00801000200000003 = .ok (.shl hdr ⟨.g 0 8 1, .g 0 0 2, .none0, .g 0 0 3⟩) := by decide +kernel
/-- `rdsr.b32 g1, sr 0`. -/
theorem test_word_class4 : decode 0x427FFFE00801860000000000 = .ok (.rdsr hdr ⟨.g 0 8 1, .f 0 6 0, .none0, .none0⟩) := by decide +kernel
/-- `fadd.f32 g1, g2, -g3`, rounding to nearest even. -/
theorem test_word_class5 : decode 0x503FFFE00B01000200002003 = .ok (.fadd hdr ⟨.g 0 11 1, .g 0 0 2, .none0, .g 2 0 3⟩) := by decide +kernel
/-- `hfma2.bf16 g1, g2, g3, g4`. -/
theorem test_word_class6 : decode 0x62BFFFE00D01000200040003 = .ok (.hfma2Bf16 hdr ⟨.g 0 13 1, .g 0 0 2, .g 0 0 4, .g 0 0 3⟩) := by
  decide +kernel
/-- `cvt.s32.f32 g1, g2`. -/
theorem test_word_class7 : decode 0x703FFFE000010B02C0000000 = .ok (.cvt hdr ⟨.g 0 0 1, .g 0 11 2, .i 0, .none0⟩) := by decide +kernel
/-- `atom.add.s32 g1, [g4]` of four bytes. -/
theorem test_word_class9 : decode 0x903FFFE00001000400200000 = .ok (.atom hdr ⟨.g 0 0 1, .g 0 0 4, 0, 0, 0, false, 2, 0⟩) := by decide +kernel
/-- `bwait h5` with option 2. -/
theorem test_word_class10 : decode 0xA13FFFE083050000C0020000 = .ok (.bwait hdr ⟨.f 0 3 5, .none0, .i 2, .none0⟩) := by decide +kernel
/-- `pres g2, w3`. -/
theorem test_word_class11 : decode 0xB03FFFE00902840300000000 = .ok (.pres hdr ⟨.g 0 9 2, .f 0 4 3, .none0, .none0⟩) := by decide +kernel
/-- `mx.clr g4`. -/
theorem test_word_class12 : decode 0xC13FFFE00000000400000000 = .ok (.mxClr hdr ⟨.none0, .g 0 0 4, .none0, .none0⟩) := by decide +kernel
/-- `bar.sync b2`. -/
theorem test_word_class13 : decode 0xD0BFFFE00000820200000000 = .ok (.barSync hdr ⟨.none0, .f 0 2 2, .none0, .none0⟩) := by decide +kernel
/-- `fx.gen g1`. -/
theorem test_word_class14 : decode 0xE0BFFFE001010000C0000000 = .ok (.fxGen hdr ⟨.g 0 1 1, .none0, .i 0, .none0⟩) := by decide +kernel
/-- `halt 1`. -/
theorem test_word_class15 : decode 0xFFFFFFE00801000000000001 = .ok (.halt hdr ⟨.g 0 8 1, .none0, 1⟩) := by decide +kernel

/-! ### One step -/

/-- Register `n` of lane `l` after an instruction. -/
def regAfter (i : Instr) (s : State) (l n : Nat) : Option Nat :=
  match exec i s with
  | .next t => (t.team? tr).map fun tm => ((tm.lane l).rg n).toNat
  | _ => none
def laneAfter (i : Instr) (s : State) (l : Nat) : Option Lane :=
  match exec i s with
  | .next t => (t.team? tr).map fun tm => tm.lane l
  | _ => none
def after (i : Instr) (s : State) : State :=
  match exec i s with
  | .next t => t
  | _ => s

/-- 0x7FFFFFFF + 1 wraps (R165), and saturates with SAT. -/
theorem test_iadd_wraps : regAfter (.iadd hdr ⟨.g 0 0 3, .g 0 0 1, .i 0, .g 0 0 2⟩) (st [0, 0x7FFFFFFF, 1]) 1 3 = some 0x80000000 ∧
    regAfter (.iadd hdr ⟨.g 0 0 3, .g 0 0 1, .i 1, .g 0 0 2⟩) (st [0, 0x7FFFFFFF, 1]) 1 3 = some 0x7FFFFFFF := by decide +kernel
/-- (-2) * 3 has the high word -1. -/
theorem test_imulhi_signed : regAfter (.imulhi hdr ⟨.g 0 0 3, .g 0 0 1, .none0, .g 0 0 2⟩) (st [0, 0xFFFFFFFE, 3]) 0 3 = some 0xFFFFFFFF := by
  decide +kernel
/-- A shift by more than the width (R172). -/
theorem test_shl_wide : regAfter (.shl hdr ⟨.g 0 8 3, .g 0 0 1, .none0, .g 0 0 2⟩) (st [0, 5, 40]) 0 3 = some 0 := by decide +kernel
theorem test_sar_wide : regAfter (.sar hdr ⟨.g 0 8 3, .g 0 0 1, .none0, .g 0 0 2⟩) (st [0, 0x80000000, 40]) 0 3 = some 0xFFFFFFFF := by
  decide +kernel
/-- Division by zero (Table 6-1). -/
theorem test_idiv_zero : regAfter (.idiv hdr ⟨.g 0 0 3, .g 0 0 1, .none0, .g 0 0 2⟩) (st [0, 5, 0]) 0 3 = some 0xFFFFFFFF := by decide +kernel
/-- `movi.s64` extends the sign into the pair. -/
theorem test_movi_pair : regAfter (.movi hdr ⟨.g 0 2 4, .none0, 0xFFFFFFFF⟩) (st []) 0 5 = some 0xFFFFFFFF := by decide +kernel
/-- `shfl` with index 1: both lanes read lane 1. -/
theorem test_shfl : regAfter (.shfl hdr ⟨.g 0 8 3, .g 0 0 1, .i 0, .i 1⟩) (st [0, 7]) 0 3 = some 7 := by decide +kernel
/-- 1 + 2^-24 ties to even; toward +inf it is the next number (R200, R204). -/
theorem test_fadd_rounds : regAfter (.fadd hdr ⟨.g 0 11 3, .g 0 0 1, .none0, .g 0 0 2⟩) (st [0, 0x3F800000, 0x33800000]) 0 3 = some 0x3F800000 := by
  decide +kernel
/-- 1.5 * 2 and 2 * 2 in halves. -/
theorem test_hmul2 : regAfter (.hmul2F16 hdr ⟨.g 0 12 3, .g 0 0 1, .none0, .g 0 0 2⟩) (st [0, 0x40003E00, 0x40004000]) 0 3 = some 0x44004200 := by
  decide +kernel
/-- `cvt.s32.f32` of -2.5 to nearest even is -2. -/
theorem test_cvt : regAfter (.cvt hdr ⟨.g 0 0 3, .g 0 11 1, .i 0, .none0⟩) (st [0, 0xC0200000]) 0 3 = some 0xFFFFFFFE := by decide +kernel
/-- `ld.s8` extends the sign of the byte at 3 of the window. -/
theorem test_ld_signed :
    regAfter (.ld hdr ⟨.g 0 6 3, .g 0 0 1, 0, 0, 0, true, 0, 3⟩) { st [] with scratch := [(scrBase 0 1 + 3, 0x80)] } 0 3 = some 0xFFFFFF80 := by
  decide +kernel
/-- `st.b32` is little-endian (R6). -/
theorem test_st_bytes : (after (.st hdr ⟨.g 0 8 2, .g 0 0 1, 0, 0, 0, true, 2, 4⟩) (st [0, 0, 0x11223344])).scratch =
    [(scrBase 0 1 + 4, 0x44), (scrBase 0 1 + 5, 0x33), (scrBase 0 1 + 6, 0x22), (scrBase 0 1 + 7, 0x11)] := by decide +kernel
/-- `atom.add` of 5 by two lanes: lane 1 sees lane 0's, and the sum stands. -/
theorem test_atom_add : regAfter (.atom hdr ⟨.g 0 0 2, .g 0 0 1, 0, 0, 0, true, 2, 0⟩) (st [0, 0, 5]) 1 2 = some 5 ∧
    (after (.atom hdr ⟨.g 0 0 2, .g 0 0 1, 0, 0, 0, true, 2, 0⟩) (st [0, 0, 5])).scratch = [(scrBase 0 1, 10)] := by decide +kernel
/-- `call` leaves the next address in its pair, and goes. -/
theorem test_call : regAfter (.call hdr ⟨.g 0 9 4, .none0, 1⟩) (st []) 0 4 = some 0x1000C ∧
    (laneAfter (.call hdr ⟨.g 0 9 4, .none0, 1⟩) (st []) 0).map (·.pc) = some 0x10018 := by decide +kernel
/-- `icmp.lt.s32` of 1 and 2 writes p1 and its complement in p2 (R135, R176). -/
theorem test_icmp : (laneAfter (.icmp hdr ⟨.f 0 0 1, .g 0 0 1, .i 0x802, .g 0 0 2⟩) (st [0, 1, 2]) 0).map (fun l => l.p) = some 2 := by
  decide +kernel
/-- `trap 9`: the lanes park past it, and the record names them (R420, R421). -/
theorem test_trap : (laneAfter (.trap hdr ⟨.none0, .none0, 9⟩) (st []) 0).map (fun l => (l.st, l.psv, l.pc)) = some (.parked, true, 0x1000C) ∧
    ((after (.trap hdr ⟨.none0, .none0, 9⟩) (st [])).die 0).newRecs.map (fun r => (r.kind, r.lanes, r.d0)) = [(0x21, 3, 9)] := by decide +kernel
/-- A firmware instruction off the firmware core (check 2). -/
theorem test_privilege : ((after (.rte hdr ⟨.none0, .g 0 0 4, .none0, .none0⟩) (st [])).die 0).newRecs.map (·.kind) = [5] := by decide +kernel
/-- The first step after placing `movi.s32 g5, 7`. -/
theorem test_step_placed : (match step (State.reset.withFetchWord 96 0x147FFFE00005000000000007) with
    | .next t => (t.team? ⟨0, 0, 0⟩).map fun tm => ((tm.lane 0).rg 5, (tm.lane 0).pc)
    | _ => none) = some (7, 0x1000C) := by decide +kernel

theorem test_met_IntegerResults : ∀ v ∈ rvs 1 (List.range 14), Met v always := met_all (st []) _ (by decide +kernel)
theorem test_met_AddressAndMoveResults : ∀ v ∈ rvs 1 [14, 15, 16, 19] ++ [iv 1 17 5, iv 1 18 5], Met v always :=
  met_all (st []) _ (by decide +kernel)
theorem test_met_LogicResults : ∀ v ∈ rvs 2 [0, 1, 2, 3, 5, 6, 7, 8, 9] ++ [iv 2 4 0xE8040800], Met v always :=
  met_all (st []) _ (by decide +kernel)
theorem test_met_BitFieldResults : ∀ v ∈ rvs 2 [10, 11, 12, 13, 14, 15, 16, 17], Met v always :=
  met_all (st []) _ (by decide +kernel)
theorem test_met_PredicateResults :
    ∀ v ∈ rvs 3 [3, 4, 5] ++ [rv 3 0 0x7, rv 3 1 0xB7, iv 3 2 0x80, iv 3 6 0], Met v always :=
  met_all (st []) _ (by decide +kernel)
theorem test_met_CrossLaneResults : ∀ v ∈ rvs 4 [0, 1, 2, 3, 4], Met v always := met_all (st []) _ (by decide +kernel)
theorem test_met_UniformAndSpecialResults : ∀ v ∈ rvs 4 [5, 6, 7, 9, 11] ++ [({ regOf 4 10 0 with d := .f 0 6 19 } : RegForm).view 4 10 hdr],
    Met v always := met_all (st []) _ (by decide +kernel)
theorem test_met_FloatResults : ∀ v ∈ rvs 5 (List.range 18), Met v always := met_all (st []) _ (by decide +kernel)
theorem test_met_PackedResults : ∀ v ∈ rvs 6 [0, 1, 2, 3, 4, 5, 8, 9, 10, 11, 12, 13], Met v always :=
  met_all (st []) _ (by decide +kernel)
theorem test_met_ConversionResults : ∀ v ∈ rvs 7 [0, 5] ++ [rv 7 1 0x40, rv 7 2 0, ({ regOf 7 3 0x40 with b := .none0 } : RegForm).view 7 3 hdr,
    rv 7 3 0x400, rv 7 4 0x40, ({ regOf 7 4 0x400 with d := .g 0 9 16 } : RegForm).view 7 4 hdr],
    Met v always := met_all (st []) _ (by decide +kernel)

theorem test_met_TransferResults :
    (∀ v ∈ rvs 0 [0, 9] ++ [iv 0 1 5, iv 0 3 5], Met v always) ∧
    Met (rv 0 2 0) (fun x _ => ∀ l ∈ x.lanes, validAddr (x.a l 64) = true) ∧
    Met (rv 0 4 0) (fun x _ => ∀ l ∈ x.lanes, validAddr (x.a l 64) = true) ∧
    Met (iv 0 11 5) (fun x s => s.overlay x.ctx = false ∨ ((x.group s).landed (relPc x.pc 5)).isSome = true) :=
  ⟨met_all (st []) _ (by decide +kernel), met (st []) (by decide +kernel) (by decide +kernel),
   met (st []) (by decide +kernel) (by decide +kernel), met (st []) (by decide +kernel) (by decide +kernel)⟩

theorem test_met_JoinExitAndFrameResults :
    (∀ v ∈ rvs 0 [5, 6, 7, 8], Met v always) ∧ Met (iv 0 10 0) (fun _ _ => (0 : BitVec 32) = 0) ∧
    Met (iv 0 10 9) (fun _ _ => (9 : BitVec 32) ≠ 0) ∧
    Met (rv 0 12 0) (fun x s => s.overlay x.ctx = true ∧ x.b0 32 * 4096 + 4096 ≤ (x.group s).winLim) ∧
    Met (iv 0 13 1) (fun x s => s.overlay x.ctx = false) :=
  ⟨met_all (st []) _ (by decide +kernel), met (st []) (by decide +kernel) rfl, met (st []) (by decide +kernel) (by decide),
   met { st [] with ctxs := [{ ctx with overlay := true }] } (by decide +kernel) (by decide +kernel),
   met (st []) (by decide +kernel) (by decide +kernel)⟩

def passB (x : Env) (need : Nat) (plain reads : Bool) (as : List (Nat × Int)) (s : State) : Bool :=
  (x.checks x.v.space x.v.bytes need plain reads as s).1.all fun c => match c.res with
    | .ok _ => true
    | _ => false

theorem passes_of {x : Env} {n : Nat} {p r : Bool} {as : List (Nat × Int)} {s : State} (h : passB x n p r as s = true) :
    Passes x n p r as s := by
  intro c hc
  have := List.all_eq_true.1 h c hc
  split at this
  · exact ⟨_, by assumption⟩
  · cases this

def noHold (cs : List Chk) : Bool := cs.all fun c => match c.res with
  | .hold _ => false
  | _ => true

theorem noHold_of {cs : List Chk} (h : noHold cs = true) : ∀ c ∈ cs, ∀ w, c.res ≠ .hold w := by
  intro c hc w hw
  have := List.all_eq_true.1 h c hc
  rw [hw] at this
  cases this

theorem test_met_MemoryCompletes :
    (∀ b, Met (mv 8 0 b 2) fun x s => Passes x 1 x.v.plain true x.eas s) ∧
    (∀ b, Met (mv 8 1 b 2) fun x s => Passes x 2 x.v.plain false x.eas s) ∧
    (Met (({ memOf 8 2 true 0 with ord := 1 } : MemForm).view 8 2 hdr)
      fun x s => ∀ c ∈ (x.checks x.v.space x.v.bytes 1 false true x.eas s).1, ∀ w, c.res ≠ .hold w) ∧
    (∀ b, Met (mv 8 3 b 2) fun x s => Passes x 2 x.v.plain false x.runAddrs s) ∧
    (∀ b, Met (mv 8 4 b 2) fun x s => Passes x 1 x.v.plain true x.runAddrs s) ∧
    (∀ b, Met (mv 4 8 b 2) fun x s => Passes x 1 x.v.plain true [(x.l0, x.ea x.l0)] s) ∧
    Met (mv 8 5 false 0) always ∧
    (∀ n ∈ [0, 0x400, 0x800, 0xC00], Met (({ memOf 8 6 false 0 with d := .i n } : MemForm).view 8 6 hdr) LinesPass) := by
  refine ⟨?_, ?_, met (st []) (by decide +kernel) (noHold_of (by decide +kernel)), ?_, ?_, ?_,
    met (st []) (by decide +kernel) trivial, fun n hn => ?_⟩
  rotate_right
  · simp only [List.mem_cons, List.not_mem_nil, or_false] at hn
    rcases hn with rfl | rfl | rfl | rfl <;> exact met (st []) (by decide +kernel) ⟨_, _, _, rfl⟩
  all_goals intro b; cases b <;> exact met (st []) (by decide +kernel) (passes_of (by decide +kernel))

/-- Words at an address. -/
def put (a : Nat) (ws : List Nat) (s : State) : State := s.memPut a (ws.flatMap (leBytes 8))
/-- A 4 by 4 tensor of f32 in slot 0, 64 by 4 of two planes in slot 1, 64 by 4 of bytes in slot 2 (Table 1-9). -/
def slots (s : State) : State :=
  put 0x10000 [2 ^ 63 + 0x12 * 2 ^ 58 + 2 * 2 ^ 50, 0x30000, 0, 0, 4, 4, 4, 16]
    (put 0x10080 [2 ^ 63 + 0x18 * 2 ^ 58 + 2 * 2 ^ 53 + 2 * 2 ^ 50, 0x31000, 0, 0, 64, 0, 4, 64]
      (put 0x10100 [2 ^ 63 + 1 * 2 ^ 58 + 2 * 2 ^ 50, 0x32000, 0, 0, 64, 1, 4, 64] s))
def filling (h : Handle) : Handle := { h with st := .filling, len := 1024 }
def full (h : Handle) : Handle := { h with st := .full, len := 1024 }

/-- A launch whose ordered target is the first 64 KiB (R33). -/
def launched (regs : List Nat) : State :=
  { st regs with plans := [{ plan with launch := some { (default : Launch) with grid := (1, 1, 1), targets := [(0, 65536)] } }] }

theorem memPlaces_of {cs : List Chk} (h : (cs.all fun c => match c.res with
    | .ok (.mem _) => true
    | _ => false) = true) : ∀ c ∈ cs, ∃ pa, c.res = .ok (.mem pa) := by
  intro c hc
  have := List.all_eq_true.1 h c hc
  split at this
  · exact ⟨_, by assumption⟩
  · cases this

theorem test_met_AtomicCompletes :
    (∀ b, Met (mv 9 0 b 2) fun x s => Passes x 3 false true x.eas s) ∧
    (∀ b, Met (mv 9 1 b 2) fun x s => Passes x 3 false true x.eas s) ∧
    (∀ b, Met (mv 9 2 b 2) fun x s => Passes x 3 false true x.eas s) ∧
    (Met (mv 9 3 false 2) fun x s => (∃ p l, s.launchOf x.tm.grp = some (p, l) ∧ ∀ a ∈ x.eas, inTarget l a.2.toNat = true) ∧
      (∀ c ∈ (x.checks false 4 2 false true x.eas s).1, ∃ pa, c.res = .ok (.mem pa)) ∧
      ∀ d, ((x.checks false 4 2 false true x.eas s).2.2.die d).ords.length + 32 ≤ ordCap) ∧
    (∀ v ∈ [rv 9 4 0, iv 9 5 0xC0000000], Met v always) := by
  refine ⟨?_, ?_, ?_, met (launched []) (by decide +kernel) ⟨⟨_, _, rfl, by decide +kernel⟩, memPlaces_of (by decide +kernel), fun d => ?_⟩,
    met_all (st []) _ (by decide +kernel)⟩
  · intro b; cases b <;> exact met (st []) (by decide +kernel) (passes_of (by decide +kernel))
  · intro b; cases b <;> exact met (st []) (by decide +kernel) (passes_of (by decide +kernel))
  · intro b; cases b <;> exact met (st []) (by decide +kernel) (passes_of (by decide +kernel))
  · match d with
    | 0 | 1 | 2 | 3 => decide +kernel
    | n + 4 => rw [State.die, List.getD_eq_default _ _ (by rw [show (_ : List Die).length = 4 from by decide +kernel]; omega)]; show 0 + 32 ≤ 4194304; omega

theorem test_met_CopyResults :
    (Met (mv 10 0 true 2) fun x s => (s.handle x.tm.grp 0).st = .filling ∧
      ∀ s1, s1 = (s.modHandle x.tm.grp 0 fun y => { y with res := y.res + (cpyPlaces x (s.handle x.tm.grp 0)).2 * x.v.bytes }) →
        (cpyRun x (x.group s) (s.handle x.tm.grp 0) 0 s1 (cpyPlaces x (s.handle x.tm.grp 0)).1 [] s1).2.1 = none) ∧
    (Met (rv 10 1 0) fun x s => ∃ a s', x.cpytSlots s = (.ok a, s') ∧ (s'.handle x.tm.grp 0).st = .filling ∧
      (s'.handle x.tm.grp 0).res + tileUnits a.1.1 a.1.2 * unitBytes a.2.1 ≤ (s'.handle x.tm.grp 0).len) ∧
    (Met (rv 10 1 0x400) fun x s => ∃ a s', x.cpytSlots s = (.ok a, s') ∧ ((s'.handle x.tm.grp 0).st = .full ∨
      (s'.handle x.tm.grp 0).st = .draining)) ∧
    Met (({ regOf 10 2 0 with c := .f 0 3 1 } : RegForm).view 10 2 hdr)
      (fun x s => (s.handle x.tm.grp 0).st = .filling ∧ (s.handle x.tm.grp 1).st = .filling) := by
  refine ⟨met (stH 0 filling []) (by decide +kernel) ⟨by decide +kernel, fun s1 h => h ▸ by decide +kernel⟩,
    met (slots (stH 0 filling [])) (by decide +kernel) ⟨_, _, rfl, by decide +kernel, by decide +kernel⟩,
    met (slots (stH 0 full [])) (by decide +kernel) ⟨_, _, rfl, by decide +kernel⟩,
    met (stG (fun g => { g with handles := (g.handles.modify 0 filling).modify 1 filling }) []) (by decide +kernel)
      ⟨by decide +kernel, by decide +kernel⟩⟩

theorem test_met_HandleResults :
    (Met (rv 10 3 0) fun x s => x.a0 32 % 16 = 0 ∧ x.b0 32 % 4 = 0 ∧ x.a0 32 + x.b0 32 ≤ (x.group s).winLim ∧ (s.handle x.tm.grp 0).st = .free) ∧
    (∀ v ∈ [1, 4].map fun n => ({ regOf 10 3 n with a := .none0, b := .none0 } : RegForm).view 10 3 hdr, Met v always) ∧
    (Met (({ regOf 10 3 2 with a := .none0, b := .none0 } : RegForm).view 10 3 hdr) fun x s =>
      (s.handle x.tm.grp 0).st = .full ∨ (s.handle x.tm.grp 0).st = .draining) ∧
    (Met (({ regOf 10 3 3 with a := .none0, b := .none0 } : RegForm).view 10 3 hdr) fun x s =>
      (s.handle x.tm.grp 0).st = .free ∨ (s.handle x.tm.grp 0).st = .full ∨
      ((s.handle x.tm.grp 0).st = .draining ∧ (s.handle x.tm.grp 0).outs = 0)) ∧
    (Met (rv 10 4 2) fun x s => (s.handle x.tm.grp 0).st = HSt.ofCode 2 ∧ ((s.handle x.tm.grp 0).st = .full → (s.handle x.tm.grp 0).err = 0)) ∧
    (∀ v ∈ [rv 10 5 0, ({ regOf 10 6 0 with b := .none0 } : RegForm).view 10 6 hdr], Met v always) ∧
    (Met (rv 10 6 1) fun x s => x.b0 32 ≤ (s.handle x.tm.grp 0).wptr ∨ (s.handle x.tm.grp 0).st ≠ .filling) :=
  ⟨met (st []) (by decide +kernel) (by decide +kernel), met_all (st []) _ (by decide +kernel),
   met (stH 0 full []) (by decide +kernel) (by decide +kernel), met (st []) (by decide +kernel) (by decide +kernel),
   met (stH 0 full []) (by decide +kernel) (by decide +kernel), met_all (st []) _ (by decide +kernel),
   met (st []) (by decide +kernel) (by decide +kernel)⟩

def slot (y : SlotSt) (t : Nat) : Slot := ⟨y, t, some gr, 0, false, 0, 0, true⟩
/-- Pipe 0 of the plan, both its sides at stage 0: slot 0 reserved and slot 1 taken by the group. -/
def pipe : Pipe := { (default : Pipe) with ref := ⟨1, 0x8000, 0⟩, depth := 2, home := some 0, slotSize := 64,
                                           slots := [slot .reserved 0, slot .taken 1] }
def stP (f : Machine.Group → Machine.Group) (regs : List Nat) : State := { stG f regs with pipes := [pipe] }
/-- The pair of slot 1 in g4 (R286). -/
def pair1 : List Nat := quad (2 ^ 48) 0
def filled (g : Machine.Group) : Machine.Group := { g with handles := g.handles.modify 0 filling }
def fulled (g : Machine.Group) : Machine.Group := { g with handles := g.handles.modify 0 full }

theorem test_met_PipeResults :
    (Met (rv 11 0 0) fun x s => (x.port .prod s).isSome = true) ∧ (Met (rv 11 2 0) fun x s => (x.port .cons s).isSome = true) ∧
    (Met (rv 11 1 0) fun x s => ∃ p i u, x.reserved s = some (p, i) ∧ s.covered (x.group s) (x.tm.lane x.l0).ltnow = true ∧
      summary p.path (x.tm.lane x.l0).ltnow = some u ∧ u ≠ noTime) ∧
    (Met (rv 11 3 0) fun x s => (x.taken s).isSome = true) ∧
    (Met (rv 11 4 0) fun x s => ∃ q, x.taken s = some q ∧ (s.handle x.tm.grp 0).st = .filling ∧
      (s.handle x.tm.grp 0).res + q.1.slotSize ≤ (s.handle x.tm.grp 0).len) ∧
    (Met (rv 11 4 1) fun x s => (x.reserved s).isSome = true ∧ ((s.handle x.tm.grp 0).st = .full ∨ (s.handle x.tm.grp 0).st = .draining)) ∧
    (Met (rv 11 5 0) fun x s => (x.port .either s).isSome = true) ∧ (Met (rv 11 6 0) fun x s => (x.port .either s).isSome = true) ∧
    (Met (rv 11 7 0) fun x s => (x.port .prod s).isSome = true) :=
  ⟨met (stP id []) (by decide +kernel) (by decide +kernel), met (stP id []) (by decide +kernel) (by decide +kernel),
   met (stP (fun g => { g with holds := [(0, 1)] }) []) (by decide +kernel) ⟨_, _, _, rfl, by decide +kernel, rfl, by decide +kernel⟩,
   met (stP id pair1) (by decide +kernel) (by decide +kernel),
   met (stP filled pair1) (by decide +kernel) ⟨_, rfl, by decide +kernel, by decide +kernel⟩,
   met (stP fulled []) (by decide +kernel) (by decide +kernel), met (stP id []) (by decide +kernel) (by decide +kernel),
   met (stP id []) (by decide +kernel) (by decide +kernel), met (stP id []) (by decide +kernel) (by decide +kernel)⟩

def jobOk (r : PostRes × State) : Bool := match r.1 with
  | .ok .. => true
  | _ => false

theorem jobOk_of {r : PostRes × State} (h : jobOk r = true) : ∃ a b c, r.1 = .ok a b c := by
  unfold jobOk at h
  split at h
  · exact ⟨_, _, _, by assumption⟩
  · cases h

/-- The checks of a short form's record. -/
def posts (x : Env) (s : State) : PostRes × State :=
  s.checkJob x.t.die (x.group s) (shortRecord x.v.opn x.v.sig (x.a0 128) (if x.v.opn = 4 then 0 else x.b0 64)
    (if x.v.cOpd.isNone then 0 else x.c0 64))

theorem test_met_MatrixResults :
    (∀ n ∈ [0, 1, 2, 3, 4], Met (({ regOf 12 n 0 with c := if n = 2 then .g 0 0 12 else .none0 } : RegForm).view 12 n hdr)
      fun x s => ∃ r l ts, (posts x s).1 = .ok r l ts) ∧
    (Met (mv 12 5 true 4) fun x s => ∃ p, (x.check s x.v.space 64 1 false true x.l0 (x.ea x.l0) [] s).1.res = .ok p) ∧
    (∀ v ∈ [rv 12 6 0, iv 12 7 0], Met v always) := by
  refine ⟨fun n hn => ?_, met (st [0, 0, 0, 0, 32]) (by decide +kernel) ⟨_, rfl⟩, met_all (st []) _ (by decide +kernel)⟩
  simp only [List.mem_cons, List.not_mem_nil, or_false] at hn
  rcases hn with rfl | rfl | rfl | rfl | rfl
  · exact met (slots (st (quad (2 ^ 50) (2 * 2 ^ 36)))) (by decide +kernel) (jobOk_of (by decide +kernel))
  · exact met (slots (st (quad 0 (2 ^ 36)))) (by decide +kernel) (jobOk_of (by decide +kernel))
  · exact met (slots (st (quad 0 (2 ^ 36)))) (by decide +kernel) (jobOk_of (by decide +kernel))
  · exact met (slots (st (quad 0 0))) (by decide +kernel) (jobOk_of (by decide +kernel))
  · exact met (slots (st (quad 0 0))) (by decide +kernel) (jobOk_of (by decide +kernel))

def stage0 : Stage := { stage with root := some 0 }
/-- The root at time 0, a hold at time 0, barrier 0 a generation on, a pipe, and a ready queue with no shadow slot. -/
def stO (regs : List Nat) : State :=
  { stP (fun g => { g with holds := [(0, 1)] }) regs with plans := [{ plan with stages := [stage0] }], bars := [(.priv gr 0, { Bar.init 1 with gen := 1 })] }

theorem test_met_BarrierResults :
    (Met (rv 13 0 0) fun x s => s.barExcludes (x.bar s) x.t = false) ∧
    (Met (rv 13 1 0) fun x s => s.barExcludes (x.bar s) x.t = false ∧
      ∀ l ∈ x.lanes, genPassed (s.bar (x.bar s)).gen (BitVec.ofNat 16 (x.b l 32)) = true) ∧
    (Met (rv 13 2 0) fun x s => s.barExcludes (x.bar s) x.t = false) ∧
    (Met (rv 13 3 0) fun x s => s.barExcludes (x.bar s) x.t = false ∧ x.b0 32 ≤ 2 ^ 24) ∧
    (Met (rv 13 4 0) fun x s => s.barExcludes (x.bar s) x.t = false ∧ x.b0 32 ≤ s.barLimit (x.bar s)) ∧
    (Met (rv 13 4 0x28) fun x s => x.b0 32 ≤ 63 ∧ s.barBusy (x.bar s) = false) ∧
    (Met (({ regOf 13 4 0x8 with b := .none0 } : RegForm).view 13 4 hdr) fun x s => s.barBusy (x.bar s) = false) :=
  ⟨met (stO []) (by decide +kernel) (by decide +kernel), met (stO []) (by decide +kernel) (by decide +kernel),
   met (stO []) (by decide +kernel) (by decide +kernel), met (stO []) (by decide +kernel) (by decide +kernel),
   met (stO []) (by decide +kernel) (by decide +kernel), met (stO []) (by decide +kernel) (by decide +kernel),
   met (stO []) (by decide +kernel) (by decide +kernel)⟩

theorem test_met_TimelineResults : (∀ v ∈ rvs 13 [8, 10], Met v always) ∧
    Met (rv 13 9 0) (fun x s => ∀ l ∈ x.lanes, BitVec.ofNat 64 (x.b l 64) ≤ ((x.group s).tc 0).v) :=
  ⟨met_all (st []) _ (by decide +kernel), met (st []) (by decide +kernel) (by decide +kernel)⟩

theorem all_of {α : Type} {o : Option α} {p : α → Bool} (h : o.all p = true) : ∀ c, o = some c → p c = true := by
  rintro c rfl
  exact h

def advB (x : Env) : Bool := x.lanes.all fun l => match advance 0 (x.b l 32) (x.tm.lane l).ltnow with
  | some t => t != noTime
  | none => false

theorem advB_of {x : Env} (h : advB x = true) :
    ∀ l ∈ x.lanes, ∃ t, advance 0 (x.b l 32) (x.tm.lane l).ltnow = some t ∧ t ≠ noTime := by
  intro l hl
  have := List.all_eq_true.1 h l hl
  split at this
  · exact ⟨_, by assumption, by simpa using this⟩
  · cases this

theorem test_met_LogicalTimeResults :
    (Met (rv 13 16 0) fun x _ => ∀ l ∈ x.lanes, BitVec.ofNat 64 (x.a l 64) ≠ noTime) ∧
    (Met (rv 13 17 0) fun x _ => ∀ l ∈ x.lanes, ∃ t, advance 0 (x.b l 32) (x.tm.lane l).ltnow = some t ∧ t ≠ noTime) ∧
    (Met (rv 13 18 0) fun x s => x.time0 x.v.a ≠ noTime ∧ s.covered (x.group s) (x.time0 x.v.a) = true ∧
      (∀ c, (x.group s).holds.find? (·.1 == x.time0 x.v.a) = some c → c.2 ≠ 65535) ∧
      ((x.group s).holds.find? (·.1 == x.time0 x.v.a) = none → (x.group s).holds.length < 8)) ∧
    (Met (rv 13 18 1) fun x s => x.time0 x.v.a ≠ noTime ∧ ∃ old, (s.stageOf (x.group s)).root = some old ∧ old ≤ x.time0 x.v.a) ∧
    (Met (rv 13 19 0) fun x s => (x.group s).holds.any (·.1 == x.time0 x.v.a) = true) ∧
    (Met (({ regOf 13 19 1 with a := .none0 } : RegForm).view 13 19 hdr) fun x s => (s.stageOf (x.group s)).root.isSome = true) ∧
    (Met (rv 13 20 0) fun x s => ∃ l, x.location s = .ok l) ∧
    (Met (rv 13 21 0) fun x s => ∃ loc, x.location s = .ok loc ∧
      ∀ l ∈ x.lanes, BitVec.ofNat 64 (x.b l 64) < s.frontier x.t.die x.ctx (x.group s).rcb loc) :=
  ⟨met (stO []) (by decide +kernel) (by decide +kernel),
   met (stO []) (by decide +kernel) (advB_of (by decide +kernel)),
   met (stO []) (by decide +kernel) ⟨by decide +kernel, by decide +kernel, fun c h => by simpa using all_of (p := fun c => c.2 != 65535) (by decide +kernel) c h, by decide +kernel⟩,
   met (stO []) (by decide +kernel) ⟨by decide +kernel, _, rfl, by decide +kernel⟩,
   met (stO []) (by decide +kernel) (by decide +kernel), met (stO []) (by decide +kernel) (by decide +kernel),
   met (stO []) (by decide +kernel) ⟨_, rfl⟩, met (stO []) (by decide +kernel) ⟨_, rfl, by decide +kernel⟩⟩

theorem test_met_TaskResults :
    (∀ n ∈ [24, 25], Met (rv 13 n 0) fun x _ => x.a0 32 ≤ 4095) ∧
    (Met (({ regOf 13 26 0 with d := .none0 } : RegForm).view 13 26 hdr) fun x s => ∃ r s', s.readSlot x.t.die x.ctx 0 = (.ok r, s') ∧
      ∀ sh, x.shadow s' = some sh → sh.grp = x.tm.grp) ∧
    (Met (({ regOf 13 26 1 with d := .none0, a := .none0, b := .none0 } : RegForm).view 13 26 hdr) fun x s =>
      ∀ sh, x.shadow s = some sh → sh.grp = x.tm.grp) ∧
    (Met (({ regOf 13 26 2 with a := .none0, b := .none0 } : RegForm).view 13 26 hdr) fun x s =>
      ∀ sh, x.shadow s = some sh → sh.grp = x.tm.grp) ∧
    Met (({ regOf 13 26 3 with a := .none0, b := .none0 } : RegForm).view 13 26 hdr) always := by
  refine ⟨fun n hn => ?_, met (slots (st [])) (by decide +kernel) ⟨_, _, rfl, 
      fun sh h => (eq_of_beq (all_of (p := fun sh => sh.grp == gr) (by decide +kernel) sh h)).trans (by decide +kernel)⟩,
    met (st []) (by decide +kernel) (fun sh h => by cases h), met (st []) (by decide +kernel) (fun sh h => by cases h),
    met (st []) (by decide +kernel) trivial⟩
  simp only [List.mem_cons, List.not_mem_nil, or_false] at hn
  rcases hn with rfl | rfl <;> exact met (st []) (by decide +kernel) (by decide +kernel)

def table : SlotTable := ⟨1, 10, 10, some 1 :: List.replicate 31 none⟩
/-- Device 1 stands in the one slot of the table; the context owns the fabric (Table 13-9). -/
def stF (regs : List Nat) : State :=
  { st regs with fab := { Fabric.init with active := some table }, hw := [(0xE08, 0x1001)] }

theorem test_met_FabricResults :
    (Met (rv 14 0 0) fun x s => s.stale (x.b0 32 % 65536) = none ∧
      sendField s (bits (x.a0 128) 95 64) (bits (x.a0 128) 127 96) (x.c0 64) = none ∧
      s.routed (bits (bits (x.a0 128) 127 96) 9 0) = true) ∧
    (Met (rv 14 1 0) fun x s => x.fxOwner s = true ∧ s.stale (x.a0 32 % 65536) = none ∧ (s.fab.circ.isSome = true ∨ s.fab.staged.isNone = true)) ∧
    (Met (rv 14 1 0) fun x s => x.fxOwner s = true ∧ s.stale (x.a0 32 % 65536) = none ∧ s.fab.circ.isNone = true ∧ s.fab.staged.isSome = true) ∧
    (∀ v ∈ [({ regOf 14 2 0 with b := .none0 } : RegForm).view 14 2 hdr, rv 14 4 0], Met v always) ∧
    (Met (rv 14 2 1) fun x s => x.b0 32 % 65536 ≠ s.topoGen) ∧
    (Met (rv 14 3 0) fun x s => x.fxOwner s = true ∧ ∃ hd lat s1 bs lat2 s2 tbl,
      x.readImage (x.a0 64) 1 0 [] 0 s = (.ok (hd, lat), s1) ∧
      x.readImage (x.a0 64) (bits (leVal (hd.take 8)) 55 50) 1 hd lat s1 = (.ok (bs, lat2), s2) ∧
      parseTable s2.fab.devid bs = some tbl ∧ s2.fab.circ.isNone = true) :=
  ⟨met (stF (quad 0 (256 + 2 ^ 32))) (by decide +kernel) (by decide +kernel), met (stF []) (by decide +kernel) (by decide +kernel),
   met { stF [] with fab := { Fabric.init with staged := some table } } (by decide +kernel) (by decide +kernel),
   met_all (st []) _ (by decide +kernel), met (st (quad 0 0 ++ [5])) (by decide +kernel) (by decide +kernel),
   met (put 0x40000 [8 * 2 ^ 56 + 2 ^ 50] (stF (quad 0x40000 0))) (by decide +kernel)
     ⟨by decide +kernel, _, _, _, _, _, _, _, rfl, rfl, rfl, by decide +kernel⟩⟩

/-- A launch with a collective of one chunk, which the group fires; the chunk as given. -/
def stC (c : ChunkSt) (regs : List Nat) (f : Bool := false) : State :=
  { st regs with plans := [{ plan with launch := some { (default : Launch) with grid := (1, 1, 1), coll := some default, nchunk := 1, chunkmap := 0x50000 } }]
                 chunks := [{ (default : Chunk) with ctx := 1, rcb := 0x8000, st := c, failed := f }] }

theorem test_met_CollectiveResults :
    (Met (rv 14 8 0) fun x s => ∃ s', s.chunkEntry (x.group s) = (some (x.a0 32), s') ∧ x.a0 32 < s'.chunkCount (x.group s) ∧
      (x.group s).fired.contains (x.a0 32) = false) ∧
    (Met (rv 14 9 0) fun x s => x.a0 32 < s.chunkCount (x.group s) ∧
      ((s.chunk? x.ctx (x.group s).rcb (x.a0 32)).bind Chunk.status).isSome = true) ∧
    (Met (({ regOf 14 9 1 with a := .none0 } : RegForm).view 14 9 hdr) fun x s => 0 < s.chunkCount (x.group s) ∧
      ∀ c < s.chunkCount (x.group s), ((s.chunk? x.ctx (x.group s).rcb c).bind Chunk.status).isSome = true) ∧
    (Met (rv 14 10 0) fun x s => x.a0 32 < s.chunkCount (x.group s)) :=
  ⟨met (stC .gathering []) (by decide +kernel) ⟨_, rfl, by decide +kernel, by decide +kernel⟩,
   met (stC .result []) (by decide +kernel) (by decide +kernel), met (stC .sent [] true) (by decide +kernel) (by decide +kernel),
   met (stC .result []) (by decide +kernel) (by decide +kernel)⟩

theorem test_met_TrapInstructionResults : ∀ v ∈ [iv 15 0 9, iv 15 1 9, iv 15 2 9], Met v always := met_all (st []) _ (by decide +kernel)

/-- A firmware team, and a team of core 5 with its lanes parked, whose save area holds a body of 64 registers. -/
def fwT (regs : List Nat) : State :=
  let o := team ⟨0, 5, 0⟩ gr []
  put 0x60000 [64 * 256] { fw regs with teams := (fw regs).teams ++ [{ o with lanes := o.lanes.map fun l => { l with st := .parked } }],
                                        groups := [{ grp with core := 5 }] }

theorem test_met_FirmwareResults :
    (∀ v ∈ [rv 15 3 0], Met v always) ∧
    (Met (rv 15 56 0) fun x s => bits (bits (x.a0 128) 63 32) 15 12 < 7 ∧ ((x.release0 s).2.sendReplyTo x.t.die
      ((List.range 4).map fun i => BitVec.ofNat 32 (x.a0 128 / 2 ^ (32 * i))) (x.release0 s).1).isSome = true) ∧
    (Met (rv 15 57 0) fun x s => ∃ tm v, s.target x.t.die (x.a0 32) = some tm ∧ s.winItem tm (x.b0 32) = some v) ∧
    (Met (rv 15 58 0) fun x s => ∃ tm, s.target x.t.die (x.a0 32) = some tm ∧ s.winBad tm (x.b0 32) (x.dsrc x.l0 64) = 0) ∧
    (∀ n ∈ [59, 60], Met (rv 15 n 0) fun x s => (s.target x.t.die (x.a0 32)).isSome = true) ∧
    (Met (rv 15 61 0) fun x s => ∃ tm, s.target x.t.die (x.a0 32) = some tm ∧ tm.lanes.any (fun l => l.st == .runnable) = false ∧
      s.bodyCheck (x.b0 64 % 2 ^ 48) (teamBodyBytes (s.regsOf tm)) false = none) ∧
    (Met (rv 15 62 0) fun x s => ∃ tm, s.target x.t.die (x.a0 32) = some tm ∧
      tm.lanes.all (fun l => l.st == .parked || l.st == .exited) = true ∧
      s.bodyCheck (x.b0 64 % 2 ^ 48) (teamBodyBytes (s.regsOf tm)) true = none ∧
      (let s1 := (s.bodyLines x.t.die (x.b0 64 % 2 ^ 48) (teamBodyBytes (s.regsOf tm)) false).2
       let bs := (s1.placeBytes (match s1.aperture (x.b0 64 % 2 ^ 48) with
          | some (dev, peer, mask) => .apt dev peer (x.b0 64 % 2 ^ 48) mask
          | none => .mem (x.b0 64 % 2 ^ 48)) (teamBodyBytes (s.regsOf tm))).1
       bits (bodyWord bs 0) 15 8 = s.regsOf tm ∧ teamBodyOk bs = true)) ∧
    (Met (iv 15 63 8) fun x s => s.pendingEvents x.t.die &&& 8 ≠ 0) ∧
    (Met (iv 15 63 1) fun x s => s.pendingEvents x.t.die &&& 1 = 0) := by
  refine ⟨met_all (st []) _ (by decide +kernel), met (fw []) (by decide +kernel) (by decide +kernel),
    met (fw []) (by decide +kernel) ⟨_, _, rfl, rfl⟩, met (fw (quad 0 0 ++ [0x20])) (by decide +kernel) ⟨_, rfl, by decide +kernel⟩,
    fun n hn => ?_, met (fwT (quad 0x1005 0 ++ [0x60000])) (by decide +kernel) ⟨_, rfl, by decide +kernel, by decide +kernel⟩,
    met (fwT (quad 0x1005 0 ++ [0x60000])) (by decide +kernel) ⟨_, rfl, by decide +kernel, by decide +kernel, by decide +kernel, by decide +kernel⟩,
    met { fw [] with dies := [{ Die.init 0 with events := 8 }] } (by decide +kernel) (by decide +kernel),
    met (fw []) (by decide +kernel) (by decide +kernel)⟩
  simp only [List.mem_cons, List.not_mem_nil, or_false] at hn
  rcases hn with rfl | rfl <;> exact met (fw []) (by decide +kernel) (by decide +kernel)

/-- A state in which the event happens, and its condition. -/
def EvMet (e : Event) (ok : Prop) : Prop := ∃ s : State, s.ev = some e ∧ ok

theorem evMet {e : Event} {ok : Prop} (h : ok) : EvMet e ok := ⟨{ State.reset with ev := some e }, rfl, h⟩

def acc : Access := { (default : Access) with die := 3 }

theorem test_met_IssueEventsRun :
    (∀ e, EvMet e True) ∧ EvMet (.quadIssue 3 127 3) (3 < 4 ∧ 127 < 128 ∧ 3 < 4) :=
  ⟨fun _ => evMet trivial, evMet (by decide)⟩

theorem test_met_QueueAndPlacementEventsRun :
    (∀ e, EvMet e True) ∧ EvMet (.tailSubmission ⟨3, 31⟩ default) (3 < 4 ∧ 31 < 32) ∧ EvMet (.fifoEntryEvaluation 3) (3 < 4) ∧
    EvMet (.tailerrClear ⟨3, 31⟩ default) (3 < 4 ∧ 31 < 32) ∧ EvMet (.queueEnable ⟨3, 31⟩ default) (3 < 4 ∧ 31 < 32) ∧
    EvMet (.qheadWrite ⟨3, 31⟩ default) (3 < 4 ∧ 31 < 32) ∧ EvMet (.cmdNop ⟨3, 31⟩ default default) (3 < 4 ∧ 31 < 32) ∧
    EvMet (.cmdResume ⟨3, 31⟩ default default) (3 < 4 ∧ 31 < 32) ∧ EvMet (.cmdPreempt ⟨3, 31⟩ default default) (3 < 4 ∧ 31 < 32) ∧
    EvMet (.cmdDrainPlan ⟨3, 31⟩ default default) (3 < 4 ∧ 31 < 32) ∧
    EvMet (.cmdIndirect ⟨3, 31⟩ default default) (3 < 4 ∧ 31 < 32) ∧ EvMet (.cmdReturn ⟨3, 31⟩ default default) (3 < 4 ∧ 31 < 32) ∧
    EvMet (.cmdSignal ⟨3, 31⟩ default default) (3 < 4 ∧ 31 < 32) ∧ EvMet (.cmdWaitTime ⟨3, 31⟩ default default) (3 < 4 ∧ 31 < 32) ∧
    EvMet (.cmdFence ⟨3, 31⟩ default default) (3 < 4 ∧ 31 < 32) ∧ EvMet (.waitTimePoll ⟨3, 31⟩) (3 < 4 ∧ 31 < 32) ∧
    EvMet (.fenceCommit ⟨3, 31⟩) (3 < 4 ∧ 31 < 32) ∧ EvMet (.firmwareRestart 3) (3 < 4) ∧
    EvMet (.ctxidWrite ⟨3, 31⟩) (3 < 4 ∧ 31 < 32) ∧ EvMet (.shadowSlotTake 3 127 default) (3 < 4 ∧ 127 < 128) ∧
    EvMet (.sluiceDeferredServe 3) (3 < 4) ∧ EvMet (.dieLinkFail 3 3) (3 < 4 ∧ 3 < 4) ∧ EvMet (.dieUnreachable 3) (3 < 4) := by
  refine ⟨fun _ => evMet trivial, ?_, ?_, ?_, ?_, ?_, ?_, ?_, ?_, ?_, ?_, ?_, ?_, ?_, ?_, ?_, ?_, ?_, ?_, ?_, ?_, ?_, ?_⟩ <;> exact evMet (by decide)

theorem test_met_MemoryEventsRun :
    (∀ e, EvMet e True) ∧ EvMet (.memoryAccessPerform acc) (acc.die < 4 ∧ (acc.post.isSome = true ∨ acc.run.isSome = true ∨ acc.pa + acc.size ≤ hbmBytes)) ∧
    EvMet (.translationWalk 3) (3 < 4) ∧ EvMet (.rdcProbe 3 default default) (3 < 4) ∧ EvMet (.probeAck 3 default default) (3 < 4) ∧
    EvMet (.dropNotice 3 default default) (3 < 4) ∧ EvMet (.hbmRefresh 3 default) (3 < 4) ∧ EvMet (.invalidationStart 3) (3 < 4) ∧
    EvMet (.invalidationComplete 3) (3 < 4) ∧ EvMet (.migrationStart 3) (3 < 4) ∧ EvMet (.migrationEnd 3) (3 < 4) ∧
    EvMet (.orderedOverflow 3) (3 < 4) ∧ EvMet (.orddrop 3 default) (3 < 4) := by
  refine ⟨fun _ => evMet trivial, ?_, ?_, ?_, ?_, ?_, ?_, ?_, ?_, ?_, ?_, ?_, ?_⟩ <;> exact evMet (by decide)

theorem test_met_CopyAndPipeEventsRun :
    (∀ e, EvMet e True) :=
  fun _ => evMet trivial

theorem test_met_MatrixEventsRun :
    (∀ e, EvMet e True) ∧ EvMet (.jobStart 3 31 1) (3 < 4 ∧ 31 < 32 ∧ 1 < 2) ∧
    EvMet (.jobLastRead 3 31 1) (3 < 4 ∧ 31 < 32 ∧ 1 < 2) ∧ EvMet (.jobComplete 3 31 1) (3 < 4 ∧ 31 < 32 ∧ 1 < 2) ∧
    EvMet (.selfTest 3 63 default) (3 < 4 ∧ 63 < 64) ∧ EvMet (.controlStoreLoad 3) (3 < 4) := by
  refine ⟨fun _ => evMet trivial, ?_, ?_, ?_, ?_, ?_⟩ <;> exact evMet (by decide)

theorem test_met_OrderEventsRun :
    (∀ e, EvMet e True) ∧ EvMet (.tidelineBatchApply 3 default) (3 < 4) ∧ EvMet (.frontierRecompute 3) (3 < 4) ∧
    EvMet (.tidelineHeldTimeout 3) (3 < 4) := by
  refine ⟨fun _ => evMet trivial, ?_, ?_, ?_⟩ <;> exact evMet (by decide)

theorem test_met_FabricEventsRun :
    (∀ e, EvMet e True) ∧ EvMet (.ualinkReplay 15) (15 < 16) ∧ EvMet (.ualinkPortFail 15) (15 < 16) ∧
    EvMet (.ualinkPortRetrain 15) (15 < 16) ∧ EvMet (.receiveWindowEnable 15 default) (15 < 16) := by
  refine ⟨fun _ => evMet trivial, ?_, ?_, ?_, ?_⟩ <;> exact evMet (by decide)

theorem test_met_RetirementEventsRun :
    (∀ e, EvMet e True) ∧ EvMet (.faultRecordWrite 3) (3 < 4) :=
  ⟨fun _ => evMet trivial, evMet (by decide)⟩

theorem test_met_ServiceEventsRun :
    (∀ e, EvMet e True) ∧ EvMet (.engineReset 3 default) (3 < 4) ∧ EvMet (.channelReset 3 default) (3 < 4) ∧
    EvMet (.walkerReset 3) (3 < 4) ∧ EvMet (.tidelineNodeReset 3) (3 < 4) ∧ EvMet (.coreReset 3 default) (3 < 4) ∧
    EvMet (.dieReset 3 default) (3 < 4) ∧ EvMet (.dieBoot 3) (3 < 4) ∧ EvMet (.hbmChannelRecalibration 3 default) (3 < 4) ∧
    EvMet (.wavelengthRecalibration 31 7) (31 < 32 ∧ 7 < 8) ∧ EvMet (.firmwareActivation 3) (3 < 4) ∧
    EvMet (.thermalEvent 3) (3 < 4) ∧ EvMet (.thermalReset 3) (3 < 4) ∧ EvMet (.counterReadClear 3 default) (3 < 4) ∧
    EvMet (.registerWrite 3 default default) (3 < 4) ∧ EvMet (.waitTimeClockReached ⟨3, 31⟩) (3 < 4 ∧ 31 < 32) ∧
    EvMet (.fqbaseWrite 3 default) (3 < 4) ∧ EvMet (.fqtailWrite 3 default) (3 < 4) ∧ EvMet (.firmwareRestartEnd 3) (3 < 4) := by
  refine ⟨fun _ => evMet trivial, ?_, ?_, ?_, ?_, ?_, ?_, ?_, ?_, ?_, ?_, ?_, ?_, ?_, ?_, ?_, ?_, ?_, ?_⟩ <;> exact evMet (by decide)

/-! ### Hypotheses of the rules met -/

theorem test_met_DivisionRule : let t := Ty.s32
    (t.min ≤ 7 ∧ 7 ≤ t.max ∧ t.min ≤ 0 ∧ (0 : Int) ≤ t.max) ∧ (t.signed = true ∧ t.min ≤ t.min ∧ t.min ≤ t.max ∧ t.min ≤ -1 ∧ -1 ≤ t.max) ∧
    (t.min ≤ -7 ∧ -7 ≤ t.max ∧ t.min ≤ 2 ∧ 2 ≤ t.max ∧ (2 : Int) ≠ 0 ∧ ¬(t.signed = true ∧ (-7 : Int) = t.min ∧ (2 : Int) = -1)) := by decide

/-- The corners of Table 6-1. -/
theorem test_divRem : divRem .s32 7 0 = (2 ^ 32 - 1, 7) ∧ divRem .s32 (-2 ^ 31) (-1) = (2 ^ 31, 0) ∧
    divRem .s32 (-7) 2 = (2 ^ 32 - 3, 2 ^ 32 - 1) := by decide

theorem test_met_BitRules : 64 ≤ 64 ∧ 63 < 64 ∧ (∀ j < 64, 63 < j → Nat.testBit (2 ^ 63) j = false) ∧ Nat.testBit (2 ^ 63) 63 = true ∧
    (∀ j < 63, Nat.testBit (2 ^ 63) j = false) ∧ 2 ^ 64 % 2 ^ 64 = 0 := by decide

theorem test_met_PredicateRules : 6 < 7 ∧ 6 ≠ 0 ∧ 0 < 7 := by decide

/-- `shfl`: lane 0 reads lane 1, lane 9 (not in E), and no lane (delta mode past the segment's end). -/
theorem test_met_CrossLaneRules :
    let x (m : Nat) := envAt (st (quad 0 0 ++ [if m = 0 then 1 else if m = 1 then 9 else 40])) (rv 4 0 (if m = 2 then 2 else 0))
    (∀ m < 3, (x m).e.getLsbD 0 = true) ∧
    (shflSrc 0 32 0 ((x 0).b 0 32) = some 1 ∧ (x 0).e.getLsbD 1 = true) ∧
    (shflSrc 0 32 0 ((x 1).b 0 32) = some 9 ∧ (x 1).e.getLsbD 9 = false) ∧ shflSrc 2 32 0 ((x 2).b 0 32) = none := by
  decide +kernel

theorem test_met_DecodedWordsEncode : ∃ i, decode 0x103FFFE00001000200000003 = .ok i := ⟨_, rfl⟩

/-- `iadd.s32 g1, g2, g3` placed where the firmware team fetches it. -/
def placed (w : Nat) : State := State.reset.withFetchWord 96 w

theorem test_met_StepRunsDecoded :
    (∃ (s : State) (i : Issue) (rest : List Issue) (tm : Team) (ins : Instr), s.issues = i :: rest ∧ i.post = none ∧ s.team? i.team = some tm ∧ s.stillThere i ≠ 0 ∧
      decode (wordOfBytes (({ s with issues := rest } : State).fetchBytes { i with lanes := s.stillThere i } tm)) = .ok ins) ∧
    (∃ (s : State) (i : Issue) (a : Access), s.issues = [i] ∧ i.post = some a) ∧
    (∃ s : State, s.issues = [] ∧ s.pickEvent.isSome = true) :=
  ⟨⟨placed 0x103FFFE00001000200000003, _, _, _, .iadd hdr ⟨.g 0 0 1, .g 0 0 2, .none0, .g 0 0 3⟩, rfl, rfl, rfl, by decide +kernel, by decide +kernel⟩,
   ⟨{ st [] with issues := [⟨tr, start, 3, some default⟩] }, _, _, rfl, rfl⟩,
   ⟨{ State.reset with inputs := [.dieUnreachable 3] }, rfl, rfl⟩⟩

theorem test_met_SuppressedLanesPass : ∃ (i : Instr) (v : View) (s : State) (iss : Issue) (tm : Team), viewOf i = some v ∧ Ready s iss tm v ∧ issueE iss tm v = 0 := by
  obtain ⟨iss, tm, h, he, _⟩ := ready_of (s := st []) (v := (regOf 1 0 0).view 1 0 hdrOff) (by decide +kernel)
  refine ⟨.iadd hdrOff (regOf 1 0 0), _, st [], iss, tm, rfl, h, ?_⟩
  have := congrArg Env.e he
  exact this.trans (by decide +kernel)

theorem test_met_BadWordTraps :
    ∃ (s : State) (i : Issue) (rest : List Issue) (tm : Team) (r : Reject), s.issues = i :: rest ∧ i.post = none ∧ s.team? i.team = some tm ∧ s.stillThere i ≠ 0 ∧
      decode (wordOfBytes (({ s with issues := rest } : State).fetchBytes { i with lanes := s.stillThere i } tm)) = .error r ∧
      ¬(clsOf 0x003FFFE00000000100000000 = 15 ∧ opnOf 0x003FFFE00000000100000000 ≥ 56) ∧
      ∀ l < 32, guardViolation tm (hdrOf 0x003FFFE00000000100000000) l = none :=
  ⟨placed 0x003FFFE00000000100000000, _, _, _, .reservedBit, rfl, rfl, rfl, by decide +kernel, by decide +kernel, by decide +kernel, by decide +kernel⟩

theorem test_met_FirmwareWordsAreReserved :
    ∃ (i : Instr) (v : View) (s : State) (iss : Issue) (tm : Team), viewOf i = some v ∧ v.cls = 15 ∧ 56 ≤ v.opn ∧ s.cur = some iss ∧ s.team? iss.team = some tm ∧
      (s.die iss.team.die).fwcore ≠ iss.team.core ∧ ∀ l < 32, guardViolation tm v.h l = none :=
  ⟨.rte hdr (regOf 15 56 0), _, st [], _, _, rfl, rfl, by decide, rfl, rfl, by decide +kernel, by decide +kernel⟩

/-- A team whose open window writes g4. -/
def stW : State :=
  let tm := team tr gr []
  { st [] with teams := [{ tm with lanes := tm.lanes.map fun l => { l with win := [⟨0x20000, none, 3, [.g 4], [], false, false⟩] } }] }

theorem test_met_LookaheadViolationTraps :
    ∃ (i : Instr) (v : View) (s : State) (iss : Issue) (tm : Team), viewOf i = some v ∧ s.cur = some iss ∧ s.team? iss.team = some tm ∧ issueCheck s iss.team v (s.regsOf tm) = none ∧
      (∀ l < 32, guardViolation tm v.h l = none) ∧
      ∀ l < 32, (issueE iss tm v).getLsbD l = true → operandViolation (envOf iss tm v) l = some (.g 4, 0x20000) :=
  ⟨.iadd hdr (regOf 1 0 0), _, stW, _, _, rfl, rfl, rfl, by decide +kernel, by decide +kernel, by decide +kernel⟩

theorem test_met_TrapEntry : ∃ tm, (st []).team? tr = some tm ∧ tr.die < (st []).dies.length := ⟨_, rfl, by decide +kernel⟩

theorem test_met_TrapReturn : ∃ l : Lane, (∀ n, l.wait ≠ .sleep n) ∧ (∀ b g, l.wait ≠ .bar b g) ∧ l.wait ≠ .sysc :=
  ⟨Lane.init start 0, (by intro n h; cases h), (by intro b g h; cases h), by decide⟩

theorem test_met_RegisterRules : 254 + 2 ≤ (Lane.init start 0).g.length ∧ 253 < 254 ∧ 254 + 2 ≤ 256 := by decide

theorem test_met_AddressRules : validAddr 0x10000 = true ∧ 0x10000 % 64 < 48 ∧ validAddr 0x10030 = true ∧ 0x10030 % 64 = 48 := by decide

theorem test_met_MemoryRules : (st []).memOk = true ∧ 0xFFF < 0x1000 ∧ 0x1000 + 4 ≤ 0x1004 := by
  decide +kernel

def goes (i : Instr) (s : State) : Bool := match exec i s with
  | .next _ => true
  | _ => false

theorem goes_of {i : Instr} {s : State} (h : goes i s = true) : ∃ t, exec i s = .next t := by
  unfold goes at h
  split at h
  · exact ⟨_, by assumption⟩
  · cases h

/-- Accesses of four bytes in the window. -/
def accesses : List (Instr × View) :=
  [(.st hdr (memOf 8 1 true 2), mv 8 1 true 2), (.stc hdr (memOf 8 3 true 2), mv 8 3 true 2), (.atom hdr (memOf 9 0 true 2), mv 9 0 true 2),
   (.red hdr (memOf 9 1 true 2), mv 9 1 true 2), (.cas hdr (memOf 9 2 true 2), mv 9 2 true 2), (.ld hdr (memOf 8 0 true 2), mv 8 0 true 2),
   (.ldk hdr { memOf 8 2 true 0 with ord := 1 }, ({ memOf 8 2 true 0 with ord := 1 } : MemForm).view 8 2 hdr),
   (.lde hdr (memOf 8 4 true 2), mv 8 4 true 2), (.kld hdr (memOf 4 8 true 2), mv 4 8 true 2)]

/-- They are ready by lanes 0 and 1, with a next state; those that store name no device register. -/
theorem test_met_AccessFrames :
    (st []).memOk = true ∧ (st []).ringFree 0x300000 ∧ (∀ p ∈ accesses, (∃ iss tm, Ready (st []) iss tm p.2) ∧ ∃ t, exec p.1 (st []) = .next t) ∧
    (∀ p ∈ [(8, 1, 2, false), (8, 3, 2, false), (9, 0, 3, true), (9, 1, 3, true), (9, 2, 3, true)], let v := mv p.1 p.2.1 true 2
      (okPlaces ((envAt (st []) v).checks v.space v.bytes p.2.2.1 (v.plain && p.1 == 8) p.2.2.2
        (if p.2.1 = 3 then (envAt (st []) v).runAddrs else (envAt (st []) v).eas) (begunAt (st []) v) (p.2.1 == 3)).1).all
        (fun q => match q.2 with
          | .dev _ => false
          | _ => true) = true) := by
  refine ⟨by decide +kernel, fun d hd => .inr (.inr (by
    have : d = 0 ∨ d = 1 ∨ d = 2 ∨ d = 3 := by omega
    rcases this with rfl | rfl | rfl | rfl <;> decide +kernel)), fun p hp => ?_, by decide +kernel⟩
  have h : accesses.all (fun p => readyB (st []) p.2 && goes p.1 (st [])) = true := by decide +kernel
  obtain ⟨h1, h2⟩ := Bool.and_eq_true_iff.1 (List.all_eq_true.1 h p hp)
  obtain ⟨i, tm, hr, _⟩ := ready_of h1
  exact ⟨⟨i, tm, hr⟩, goes_of h2⟩

def inWinB (s : State) (x : Env) (g : Machine.Group) (need : Nat) : Bool := x.lanes.all fun l =>
  x.ea l % (x.v.bytes : Int) == 0 && decide (0 ≤ x.ea l) && decide (x.ea l + x.v.bytes ≤ g.winLim) &&
    (!x.v.plain || (x.raceCheck s l (.scr (x.scrAddr g l)) (wrap 64 (x.ea l)) x.v.bytes (need == 2)).isNone)

theorem inWin_of {s : State} {x : Env} {g : Machine.Group} {need : Nat} (h : inWinB s x g need = true) : InWindow s x g need := by
  intro l hl
  have := List.all_eq_true.1 h l hl
  simp only [Bool.and_eq_true, beq_iff_eq, decide_eq_true_eq, Bool.or_eq_true, Bool.not_eq_true', Option.isNone_iff_eq_none] at this
  refine ⟨this.1.1.1, this.1.1.2, this.1.2, fun hp => ?_⟩
  rcases this.2 with h | h
  · rw [hp] at h; cases h
  · exact h

theorem test_met_ScratchpadAccess : (st []).memOk = true ∧ ∀ n ∈ [0, 1], ∃ iss tm, Ready (st []) iss tm (mv 8 n true 2) ∧ (st []).group? tm.grp = some grp ∧
    InWindow (st []) (envOf iss tm (mv 8 n true 2)) grp (n + 1) := by
  refine ⟨by decide +kernel, fun n hn => ?_⟩
  simp only [List.mem_cons, List.not_mem_nil, or_false] at hn
  rcases hn with rfl | rfl
  · obtain ⟨i, tm, hr, he, _⟩ := ready_of (s := st []) (v := mv 8 0 true 2) (by decide +kernel)
    have ht : tm = (envAt (st []) (mv 8 0 true 2)).tm := congrArg Env.tm he
    exact ⟨i, tm, hr, by rw [ht]; rfl, by rw [he]; exact inWin_of (by decide +kernel)⟩
  · obtain ⟨i, tm, hr, he, _⟩ := ready_of (s := st []) (v := mv 8 1 true 2) (by decide +kernel)
    have ht : tm = (envAt (st []) (mv 8 1 true 2)).tm := congrArg Env.tm he
    exact ⟨i, tm, hr, by rw [ht]; rfl, by rw [he]; exact inWin_of (by decide +kernel)⟩

theorem test_met_RegisterWordsFrame : ∃ (i : Instr) (v : View) (s t : State) (iss : Issue), viewOf i = some v ∧ 1 ≤ v.cls ∧ v.cls ≤ 7 ∧ ¬(v.cls = 4 ∧ v.opn = 8) ∧
    s.cur = some iss ∧ exec i s = .next t :=
  ⟨.iadd hdr (regOf 1 0 0), _, st [], _, _, rfl, by decide, by decide, by decide, rfl, rfl⟩

theorem test_met_MemoryStaysCanonical : ∃ s t : State, s.memOk = true ∧ step s = .next t :=
  ⟨placed 0x103FFFE00001000200000003, _, by decide +kernel, rfl⟩

theorem test_met_StampAndRaceRules :
    (3 < State.reset.dies.length) ∧
    (let r : Race := ⟨some (7, 5, 0xF), some (8, 6, 0xF0)⟩
     (r.conflict 9 0x1 true 4).isSome = true ∧ (r.conflict 9 0x10 true 4).isSome = true ∧
      ∃ k st b, r.w = some (k, st, b) ∧ k ≠ 9 ∧ b &&& (0x1 : W32) ≠ 0 ∧ 4 < st) :=
  ⟨by decide, by decide, by decide, 7, 5, 0xF, rfl, by decide, by decide, by decide⟩

theorem test_met_BarrierAndTimelineRules :
    (let b : Bar := { Bar.init 2 with arrs := [(1, 9)] }
     b.mems = [] ∧ b.counts = [] ∧ b.bytes = 0 ∧ b.pend = none ∧ b.carry = 0 ∧ b.arrs ≠ [] ∧ b.arrs.length < b.arr) ∧
    (let b : Bar := { Bar.init 2 with arrs := [(1, 9), (2, 8)] }
     b.mems = [] ∧ b.counts = [] ∧ b.bytes = 0 ∧ b.pend = none ∧ b.carry = 0 ∧ b.arrs ≠ [] ∧ b.arrs.length = b.arr) ∧
    (let t : Timeline := ⟨9, 4, 0, [(7, 3)]⟩
     (5 : W64) = t.v + 1 ∧ (6 : W64) ≠ t.v + 1 ∧ ∀ d ∈ t.done, d.1 ≠ t.v + 1 ∧ d.1 ≠ t.v + 2) := by decide

/-! ### The walker's core -/

/-- Words written out from the RISC-V C extension: `c.li a0, 0`, `c.mv a0, a1`, `c.jr ra`, and the word of zeros, which is none. -/
theorem test_compressed : rvExpand 0x4501 = some 0x00000513 ∧ rvExpand 0x852E = some 0x00B00533 ∧ rvExpand 0x8082 = some 0x00008067 ∧
    rvExpand 0 = none := by decide +kernel

/-- `mul a0, a0, a0` of -3, and a signed quotient that overflows. -/
theorem test_walker_core :
    (((Rv.mk ((List.replicate 32 0).set 10 (-3)) 0 0 [0x33, 0x05, 0xA5, 0x02] []).step).1.get 10 = 9) ∧
    rvMul 4 0x80000000 (-1) = 0x80000000 := by decide +kernel

end Sys2Proof.Tests
end

section
/-! Registers and memory: what a write leaves, and what reads back (R6, R9, R114, R154). -/

namespace Sys2Proof.Machine

/-! ### Registers of a lane -/

theorem length_updAt {α : Type} (l : List α) (n : Nat) (f : α → α) : (updAt l n f).length = l.length := by
  induction l generalizing n with
  | nil => rfl
  | cons x t ih => cases n <;> simp [updAt, ih]

theorem getElem?_updAt_same {α : Type} (l : List α) (n : Nat) (f : α → α) : (updAt l n f)[n]? = l[n]?.map f := by
  induction l generalizing n with
  | nil => rfl
  | cons x t ih => cases n <;> simp [updAt, ih]

@[simp] theorem Lane.length_wg (y : Lane) (n : Nat) (v : W32) : (y.wg n v).g.length = y.g.length := length_updAt ..

theorem Lane.rg_wg_same (y : Lane) (n : Nat) (v : W32) (h : n < y.g.length) : (y.wg n v).rg n = v := by
  simp [Lane.rg, Lane.wg, List.getD_eq_getElem?_getD, getElem?_updAt_same, h]

theorem Lane.rg_wg_ne (y : Lane) (n m : Nat) (v : W32) (h : m ≠ n) : (y.wg n v).rg m = y.rg m := by
  simp [Lane.rg, Lane.wg, List.getD_eq_getElem?_getD, getElem?_updAt _ _ _ _ h]

theorem Lane.length_wgs (y : Lane) (n r v : Nat) : (y.wgs n r v).g.length = y.g.length := by
  induction r generalizing y n v with
  | zero => rfl
  | succ r ih => rw [Lane.wgs, ih, Lane.length_wg]

/-- A write of g registers changes nothing of the lane but its g registers. -/
theorem Lane.wgs_frame (y : Lane) (n r v : Nat) : y.wgs n r v = { y with g := (y.wgs n r v).g } := by
  induction r generalizing y n v with
  | zero => rfl
  | succ r ih => rw [Lane.wgs, ih (y.wg n _)]; rfl

theorem Lane.rg_wgs_out (y : Lane) (n r v m : Nat) (h : m < n ∨ n + r ≤ m) : (y.wgs n r v).rg m = y.rg m := by
  induction r generalizing y n v with
  | zero => rfl
  | succ r ih => rw [Lane.wgs, ih _ (n + 1) _ (by omega), Lane.rg_wg_ne _ _ _ _ (by omega)]

theorem Lane.rgs_wgs (y : Lane) (n r v : Nat) (h : n + r ≤ y.g.length) : (y.wgs n r v).rgs n r = v % 2 ^ (32 * r) := by
  induction r generalizing y n v with
  | zero => simp [Lane.rgs, Nat.mod_one]
  | succ r ih =>
    have first : ((y.wg n (BitVec.ofNat 32 v)).wgs (n + 1) r (v / 2 ^ 32)).rg n = BitVec.ofNat 32 v := by
      rw [Lane.rg_wgs_out _ _ _ _ _ (by omega), Lane.rg_wg_same _ _ _ (by omega)]
    rw [Lane.wgs, Lane.rgs, first, ih _ _ _ (by rw [Lane.length_wg]; omega), BitVec.toNat_ofNat, Nat.mul_succ, Nat.add_comm (32 * r),
      Nat.pow_add, Nat.mod_mul]

/-- Settles O52: by induction on the number of registers; a later register's write leaves the earlier ones. -/
theorem registerRules : Obligations.RegisterRules := by
  intro y n r v m
  exact ⟨y.rgs_wgs n r v, y.rg_wgs_out n r v m, y.wgs_frame n r v, y.length_wgs n r v⟩

/-! ### Little-endian values in memory (R6) -/

@[simp] theorem length_leBytes (n v : Nat) : (leBytes n v).length = n := by
  induction n generalizing v with
  | zero => rfl
  | succ n ih => simp [leBytes, ih]

theorem leVal_leBytes (n v : Nat) : leVal (leBytes n v) = v % 2 ^ (8 * n) := by
  induction n generalizing v with
  | zero => simp [leBytes, leVal, Nat.mod_one]
  | succ n ih =>
    rw [leBytes, leVal, ih, BitVec.toNat_ofNat, Nat.mul_succ, Nat.add_comm (8 * n), Nat.pow_add, Nat.mod_mul]

theorem getElem?_leBytes (n v i : Nat) (h : i < n) : (leBytes n v)[i]? = some (BitVec.ofNat 8 (v / 2 ^ (8 * i))) := by
  induction n generalizing v i with
  | zero => omega
  | succ n ih =>
    cases i with
    | zero => simp [leBytes]
    | succ i =>
      rw [leBytes, List.getElem?_cons_succ, ih _ _ (by omega), Nat.div_div_eq_div_mul, Nat.mul_succ, Nat.add_comm (8 * i), Nat.pow_add]

theorem getElem?_cellsGet (m : List Host.Cell) (a n i : Nat) (h : i < n) : (cellsGet m a n)[i]? = some (cellGet m (a + i)) := by
  induction n generalizing a i with
  | zero => omega
  | succ n ih =>
    cases i with
    | zero => rfl
    | succ i => rw [cellsGet, List.getElem?_cons_succ, ih _ _ (by omega), Nat.add_assoc, Nat.add_comm 1 i]

/-- The bytes of a value written to memory are those that stand there. -/
theorem State.memBytes_memWrite (s : State) (pa n v : Nat) (h : Memory.wf s.mem = true) :
    (s.memWrite pa n v).memBytes pa n = leBytes n v := by
  have e := cellsGet_cellsPut (leBytes n v) s.mem pa h
  rwa [length_leBytes] at e

theorem State.cellGet_memWrite (s : State) (pa n v i : Nat) (h : Memory.wf s.mem = true) (hi : i < n) :
    (cellGet (s.memWrite pa n v).mem (pa + i)).toNat = v / 2 ^ (8 * i) % 256 := by
  have e : (leBytes n v)[i]? = some (cellGet (s.memWrite pa n v).mem (pa + i)) := by
    rw [← s.memBytes_memWrite pa n v h]
    exact getElem?_cellsGet _ _ _ _ hi
  rw [getElem?_leBytes n v i hi] at e
  rw [← Option.some.inj e, BitVec.toNat_ofNat]

theorem State.memOk_iff (s : State) : s.memOk = true ↔ Memory.wf s.mem = true ∧ Memory.wf s.scratch = true := by
  simp [State.memOk]

/-- Settles O54: a read sees the bytes of the last write, and byte `i` of a value is its digit `i` to the base 256. -/
theorem memoryRules : Obligations.MemoryRules := by
  intro s pa n v a bs h
  obtain ⟨hm, hs⟩ := s.memOk_iff.1 h
  refine ⟨?_, fun i hi => s.cellGet_memWrite pa n v i hm hi, cellsGet_cellsPut bs s.scratch pa hs, fun ha => ?_,
    cellGet_cellsPut_out bs s.scratch pa a hs, (State.memOk_iff _).2 ⟨s.memPut_wf pa _ hm, hs⟩,
    (State.memOk_iff _).2 ⟨hm, s.scrPut_wf pa bs hs⟩, rfl⟩
  · rw [State.memVal, s.memBytes_memWrite pa n v hm, leVal_leBytes]
  · exact cellGet_cellsPut_out (leBytes n v) s.mem pa a hm (by simpa using ha)

end Sys2Proof.Machine
end

section
/-! Memory and scratchpad stay canonical (O58). Every function of the model that makes a state has one lemma `Canon.<function>`: from
the canonical form of the state that it takes, that of the state that it makes. They stand in the model's order, so that each is a
chain of those before it: `h.modTeam.modLanes.pushRec` says that the form passes through these three. -/

namespace Sys2Proof.Machine

/-- Memory and scratchpad stand in their canonical form. -/
def State.Canon (s : State) : Prop := Memory.wf s.mem = true ∧ Memory.wf s.scratch = true

namespace State
variable {s t u : State}

theorem memOk_iff_canon : s.memOk = true ↔ s.Canon := by simp [State.memOk, Canon]

/-- An update of other fields keeps the canonical form. -/
theorem Canon.upd {clock srace rels atoms hw lastRead teams groups bars binds cbars ctxs plans pipes dies cores clusters engines
    chans fab chunks aways svc sections irqs fresh agenda eoc inputs acted closing watched chosen issues parks cur ev}
    (h : s.Canon) :
    Canon ⟨clock, s.mem, s.scratch, srace, rels, atoms, hw, lastRead, teams, groups, bars, binds, cbars, ctxs, plans, pipes, dies,
      cores, clusters, engines, chans, fab, chunks, aways, svc, sections, irqs, fresh, agenda, eoc, inputs, acted, closing, watched,
      chosen, issues, parks, cur, ev⟩ := h

/-- Dropping the scratchpad bytes of a range keeps it. -/
theorem Canon.clearScratch {lo hi clock srace rels atoms hw lastRead teams groups bars binds cbars ctxs plans pipes dies cores
    clusters engines chans fab chunks aways svc sections irqs fresh agenda eoc inputs acted closing watched chosen issues parks cur ev}
    (h : s.Canon) :
    Canon ⟨clock, s.mem, cellsClear s.scratch lo hi, srace, rels, atoms, hw, lastRead, teams, groups, bars, binds, cbars, ctxs, plans,
      pipes, dies, cores, clusters, engines, chans, fab, chunks, aways, svc, sections, irqs, fresh, agenda, eoc, inputs, acted,
      closing, watched, chosen, issues, parks, cur, ev⟩ := ⟨h.1, cellsClear_wf _ _ _ h.2⟩

theorem Canon.ite {c : Prop} [Decidable c] (hs : s.Canon) (ht : t.Canon) : (if c then s else t).Canon := by
  split <;> assumption

theorem Canon.snd {α : Type} {a : α} (h : s.Canon) : (a, s).2.Canon := h

theorem Canon.sndSnd {α β : Type} {a : α} {b : β} (h : s.Canon) : (a, b, s).2.2.Canon := h

theorem Canon.sndSndSnd {α β γ : Type} {a : α} {b : β} {c : γ} (h : s.Canon) : (a, b, c, s).2.2.2.Canon := h

theorem Canon.fst {α : Type} {a : α} (h : s.Canon) : (s, a).1.Canon := h

theorem Canon.of_eqSnd {α : Type} {p : α × State} {a : α} (h : p.2.Canon) (e : p = (a, s)) : s.Canon := by
  subst e; exact h

theorem Canon.of_eqFst {α : Type} {p : State × α} {a : α} (h : p.1.Canon) (e : p = (s, a)) : s.Canon := by
  subst e; exact h

theorem Canon.of_eqSndSnd {α β : Type} {p : α × β × State} {a : α} {b : β} (h : p.2.2.Canon) (e : p = (a, b, s)) : s.Canon := by
  subst e; exact h

theorem Canon.of_eqSndSndSnd {α β γ : Type} {p : α × β × γ × State} {a : α} {b : β} {c : γ} (h : p.2.2.2.Canon) (e : p = (a, b, c, s)) :
    s.Canon := by
  subst e; exact h

theorem Canon.of_eqSndSndSndSnd {α β γ δ : Type} {p : α × β × γ × δ × State} {a : α} {b : β} {c : γ} {d : δ} (h : p.2.2.2.2.Canon)
    (e : p = (a, b, c, d, s)) : s.Canon := by
  subst e; exact h

/-- A fold whose steps keep a property of the state that they carry keeps it. -/
theorem foldl_keeps {α β : Type} {P : β → Prop} {f : β → α → β} {l : List α} {b : β} (h : P b) (hf : ∀ b a, P b → P (f b a)) :
    P (l.foldl f b) := List.foldlRecOn l f h fun b hb a _ => hf b a hb

theorem Canon.foldl {α : Type} {f : State → α → State} {l : List α} (h : s.Canon) (hf : ∀ s a, s.Canon → (f s a).Canon) :
    (l.foldl f s).Canon := foldl_keeps (P := Canon) h hf

theorem Canon.foldlSnd {α β : Type} {f : β × State → α → β × State} {l : List α} {b : β × State} (h : b.2.Canon)
    (hf : ∀ b a, b.2.Canon → (f b a).2.Canon) : (l.foldl f b).2.Canon := foldl_keeps (P := fun b : β × State => b.2.Canon) h hf

theorem Canon.foldlFst {α β : Type} {f : State × β → α → State × β} {l : List α} {b : State × β} (h : b.1.Canon)
    (hf : ∀ b a, b.1.Canon → (f b a).1.Canon) : (l.foldl f b).1.Canon := foldl_keeps (P := fun b : State × β => b.1.Canon) h hf

theorem Canon.foldlSndSnd {α β γ : Type} {f : β × γ × State → α → β × γ × State} {l : List α} {b : β × γ × State} (h : b.2.2.Canon)
    (hf : ∀ b a, b.2.2.Canon → (f b a).2.2.Canon) : (l.foldl f b).2.2.Canon := foldl_keeps (P := fun b : β × γ × State => b.2.2.Canon) h hf

theorem Canon.foldlSndSndSnd {α β γ δ : Type} {f : β × γ × δ × State → α → β × γ × δ × State} {l : List α} {b : β × γ × δ × State}
    (h : b.2.2.2.Canon) (hf : ∀ b a, b.2.2.2.Canon → (f b a).2.2.2.Canon) : (l.foldl f b).2.2.2.Canon :=
  foldl_keeps (P := fun b : β × γ × δ × State => b.2.2.2.Canon) h hf

theorem Canon.foldlSndSndSndSnd {α β γ δ ε : Type} {f : β × γ × δ × ε × State → α → β × γ × δ × ε × State} {l : List α}
    {b : β × γ × δ × ε × State} (h : b.2.2.2.2.Canon) (hf : ∀ b a, b.2.2.2.2.Canon → (f b a).2.2.2.2.Canon) :
    (l.foldl f b).2.2.2.2.Canon := foldl_keeps (P := fun b : β × γ × δ × ε × State => b.2.2.2.2.Canon) h hf

/-- An answer that is a state has it in canonical form. -/
def OkCanon (r : Except Nat State) : Prop := ∀ t, r = .ok t → t.Canon

theorem OkCanon.ok (h : s.Canon) : OkCanon (.ok s) := fun _ e => Except.ok.inj e ▸ h

theorem OkCanon.error {e} : OkCanon (.error e) := fun _ e => nomatch e

theorem OkCanon.map {r : Except Nat State} {f : State → State} (h : OkCanon r) (hf : ∀ s, s.Canon → (f s).Canon) : OkCanon (r.map f) := by
  cases r with
  | error e => exact .error
  | ok s => exact .ok (hf s (h s rfl))

theorem OkCanon.ite {c : Prop} [Decidable c] {a b : Except Nat State} (ha : OkCanon a) (hb : OkCanon b) : OkCanon (if c then a else b) := by
  split <;> assumption

/-- What a step that goes on leaves has memory and scratchpad in canonical form. -/
def NextCanon (r : Host.Outcome State Fault Refusal) : Prop := ∀ t, r = .next t → t.Canon

theorem NextCanon.next (h : s.Canon) : NextCanon (.next s) := fun _ e => Host.Outcome.next.inj e ▸ h

theorem NextCanon.fault {f} : NextCanon (.fault f) := fun _ e => nomatch e

theorem NextCanon.ite {c : Prop} [Decidable c] {a b : Host.Outcome State Fault Refusal} (ha : NextCanon a) (hb : NextCanon b) :
    NextCanon (if c then a else b) := by
  split <;> assumption

/-! ### The state of one QX-4 package as plain data, the reasons a step can stop, and the state after reset -/

theorem Canon.reset : State.reset.Canon := State.reset_mem_wf

/-! ### The named operations over memory, registers, units, counters and the schedule; taking a trap -/

theorem Canon.memPut {pa bs} (h : s.Canon) : (s.memPut pa bs).Canon := ⟨s.memPut_wf pa bs h.1, h.2⟩

theorem Canon.scrPut {a bs} (h : s.Canon) : (s.scrPut a bs).Canon := ⟨h.1, s.scrPut_wf a bs h.2⟩

theorem Canon.modTeam {t f} (h : s.Canon) : (s.modTeam t f).Canon := h.upd

theorem Canon.modLane {t l f} (h : s.Canon) : (s.modLane t l f).Canon := h.modTeam

theorem Canon.modLanes {t m f} (h : s.Canon) : (s.modLanes t m f).Canon := h.modTeam

theorem Canon.modGroup {g f} (h : s.Canon) : (s.modGroup g f).Canon := h.upd

theorem Canon.modCtx {c f} (h : s.Canon) : (s.modCtx c f).Canon := h.upd

theorem Canon.modPlan {c rcb f} (h : s.Canon) : (s.modPlan c rcb f).Canon := h.upd

theorem Canon.modPipe {p f} (h : s.Canon) : (s.modPipe p f).Canon := h.upd

theorem Canon.modDie {d f} (h : s.Canon) : (s.modDie d f).Canon := h.upd

theorem Canon.modCore {d c f} (h : s.Canon) : (s.modCore d c f).Canon := h.upd

theorem Canon.modCluster {d c f} (h : s.Canon) : (s.modCluster d c f).Canon := h.upd

theorem Canon.modEngine {d e f} (h : s.Canon) : (s.modEngine d e f).Canon := h.upd

theorem Canon.modChan {d c i f} (h : s.Canon) : (s.modChan d c i f).Canon := h.upd

theorem Canon.modBar {b f} (h : s.Canon) : (s.modBar b f).Canon := h.upd

theorem Canon.modChunk {ctx rcb c f} (h : s.Canon) : (s.modChunk ctx rcb c f).Canon := h.upd

theorem Canon.after {n i} (h : s.Canon) : (s.after n i).Canon := h.upd

theorem Canon.at_ {c i} (h : s.Canon) : (s.at_ c i).Canon := h.upd

theorem Canon.atEnd {i} (h : s.Canon) : (s.atEnd i).Canon := .ite h h.upd

theorem Canon.cancel {p} (h : s.Canon) : (s.cancel p).Canon := h.upd

theorem Canon.once {c e} (h : s.Canon) : (s.once c e).Canon := .ite h h.at_

theorem Canon.setReg {d off v} (h : s.Canon) : (s.setReg d off v).Canon := h.upd

theorem Canon.setFld {d off hi lo v} (h : s.Canon) : (s.setFld d off hi lo v).Canon := h.setReg

theorem Canon.bump {d off hi lo n} (h : s.Canon) : (s.bump d off hi lo n).Canon := h.setFld

theorem Canon.live {t ps} (h : s.Canon) : (s.live t ps).Canon := h.modTeam

theorem Canon.writeK {t m pc n r v lat} (h : s.Canon) : (s.writeK t m pc n r v lat).Canon := h.modTeam.after

theorem Canon.moveK {t m pc f} (h : s.Canon) : (s.moveK t m pc f).Canon := by
  unfold State.moveK
  extract_lets mine
  split
  · exact h
  · exact h.modTeam.at_

theorem Canon.lateK {t m n} (h : s.Canon) : (s.lateK t m n).Canon := by
  unfold State.lateK
  split
  · exact h
  · split
    · exact h
    · exact h.modTeam.upd

theorem Canon.moveAccess {t m pc since f win} (h : s.Canon) : (s.moveAccess t m pc since f win).Canon := h.modLanes.moveK

theorem Canon.raiseEvent {d k} (h : s.Canon) : (s.raiseEvent d k).Canon := h.modDie

theorem Canon.release {d h'} (h : s.Canon) : (s.release d h').2.Canon := h.modDie.snd

theorem Canon.releaseLanes {t m} (h : s.Canon) : (s.releaseLanes t m).2.Canon := h.foldlSnd fun _ _ h => h.modDie.snd

theorem Canon.pushRec {r} (h : s.Canon) : (s.pushRec r).Canon := h.modDie.atEnd

theorem Canon.trap {t m pc i key named} (h : s.Canon) : (s.trap t m pc i key named).Canon := by
  unfold State.trap
  split
  · exact h
  · exact h.modTeam.modLanes.pushRec

theorem Canon.unitRec {die kind ctx d0 d1 d2 u' raw} (h : s.Canon) : (s.unitRec die kind ctx d0 d1 d2 u' raw).Canon := h.pushRec

theorem Canon.waitLanes {t m w} (h : s.Canon) : (s.waitLanes t m w).Canon := by
  unfold State.waitLanes
  extract_lets s1
  have h1 : s1.Canon := by
    unfold s1
    split
    · exact h.after
    · exact h
  exact h1.modLanes

theorem Canon.wakeLanes {t m} (h : s.Canon) : (s.wakeLanes t m).Canon := h.modLanes

theorem Canon.passLanes {t m stamp} (h : s.Canon) : (s.passLanes t m stamp).Canon := h.modLanes

theorem Canon.wakeWhere {p} (h : s.Canon) : (s.wakeWhere p).Canon := h.foldl fun _ _ h => h.wakeLanes

theorem Canon.wakeIn {n p} (h : s.Canon) : (s.wakeIn n p).Canon := h.foldl fun _ _ h => h.modLanes

/-! ### The memory hierarchy: caches and their latencies, translation, apertures, pipe addresses, the checks of Table 8-9, race detection,
and reads and writes by one agent -/

theorem Canon.lostLine {d v} (h : s.Canon) : (s.lostLine d v).Canon := by
  unfold State.lostLine
  split
  · exact .ite (.ite h.bump h) (.modDie (.ite h.bump h))
  · exact h

theorem Canon.touchL2 {d pa evict} (h : s.Canon) : (s.touchL2 d pa evict).Canon := h.modDie.lostLine

theorem Canon.fitL2 {d old} (h : s.Canon) : (s.fitL2 d old).Canon := by
  unfold State.fitL2
  extract_lets new_ sets
  refine .foldl h fun s1 a h => ?_
  dsimp only
  refine .foldl h fun s2 a h => ?_
  split
  · exact h
  · split
    · exact h.modDie.lostLine
    · exact h

theorem Canon.touchRdc {d pa evict} (h : s.Canon) : (s.touchRdc d pa evict).Canon := by
  unfold State.touchRdc
  split
  extract_lets s1
  have h1 : s1.Canon := h.modDie
  split
  · split
    · exact h1.after
    · exact h1
  · exact h1

theorem Canon.writeRels {p n atomic new} (h : s.Canon) : (s.writeRels p n atomic new).Canon := by
  unfold State.writeRels
  extract_lets k old rest
  split <;> exact h.upd

theorem Canon.clearSector {h' sec whole} (h : s.Canon) : (s.clearSector h' sec whole).Canon :=
  .ite h.modDie (.ite (.bump (.modDie (.ite h h.touchL2))) h)

theorem Canon.clearError {pa n} (h : s.Canon) : (s.clearError pa n).Canon := by
  unfold State.clearError
  refine .foldl h fun s1 a h => ?_
  split
  · exact h
  · exact h.clearSector

theorem Canon.meetError {pa} (h : s.Canon) : (s.meetError pa).1.Canon := by
  unfold State.meetError
  split
  · exact h.bump
  · exact h.modDie.bump
  · exact h

theorem Canon.probeSharers {h' pa writer} (h : s.Canon) : (s.probeSharers h' pa writer).1.Canon := by
  unfold State.probeSharers
  extract_lets line m others
  split
  · exact h
  · exact .fst (.modDie (.foldl h fun _ _ h => h.after))

theorem Canon.homePut {d pa bs} (h : s.Canon) : (s.homePut d pa bs).2.Canon := by
  unfold State.homePut
  extract_lets n lines dirty
  split
  rename_i s1 e1
  have h1 : s1.Canon := by
    refine .of_eqSnd ?_ e1
    refine .foldlSnd h ?_
    rintro ⟨_, s2⟩ a (h2 : s2.Canon)
    dsimp only
    split
    · exact h2.probeSharers.modDie
    · exact h2
  exact h1.memPut.clearError

theorem Canon.devPut {d pa bs} (h : s.Canon) : (s.devPut d pa bs).Canon := h.homePut.writeRels

theorem Canon.devPutVal {d pa n v} (h : s.Canon) : (s.devPutVal d pa n v).Canon := h.devPut

theorem Canon.interrupt {q} (h : s.Canon) : (s.interrupt q).Canon := .ite h h.devPutVal.upd

theorem Canon.heat {pa r n} (h : s.Canon) : (s.heat pa r n).Canon := by
  unfold State.heat
  split
  · exact h
  · exact .ite h (.ite (.ite h.modDie.bump h.modDie.devPutVal.devPutVal.raiseEvent.setFld) h.modDie)

theorem Canon.bankWait {h' pa dl} (h : s.Canon) : (s.bankWait h' pa dl).1.Canon := h.modDie.fst

theorem Canon.putBucket {d b} (h : s.Canon) : (s.putBucket d b).Canon := h.modDie

theorem Canon.settleBuckets {ctx} (h : s.Canon) : (s.settleBuckets ctx).Canon := h.foldl fun _ _ h => h.foldl fun _ _ h => h.putBucket

theorem Canon.claimCap {d res n} (h : s.Canon) : (s.claimCap d res n).Canon := h.modDie

theorem Canon.sluiceServe {d ctx res n copy zero} (h : s.Canon) (e : s.sluiceServe d ctx res n copy zero = some t) : t.Canon := by
  unfold State.sluiceServe at e
  split at e
  · rwa [← Option.some.inj e]
  · split at e
    · cases e
    · split at e
      · rw [← Option.some.inj e]; exact h.claimCap
      · extract_lets b cost r at e
        split at e
        · rw [← Option.some.inj e]; exact h.putBucket.claimCap
        · cases e

theorem Canon.sluiceGo {ctx copy zero who ds} (h : s.Canon) : (s.sluiceGo ctx copy zero who ds).2.Canon := by
  induction ds generalizing s with
  | nil => exact h
  | cons a ds ih =>
    obtain ⟨res, d, n⟩ := a
    rw [State.sluiceGo]
    split
    · rename_i s1 e1
      exact ih (h.sluiceServe e1)
    · exact .ite h.modDie.after h.modDie.atEnd

theorem Canon.sluice {g copy who ds} (h : s.Canon) : (s.sluice g copy who ds).2.Canon := h.sluiceGo

theorem Canon.sluicePass {r} (h : s.Canon) : (s.sluicePass r).Canon := by
  unfold State.sluicePass
  split
  · rename_i s1 _ e1 _
    have h1 : s1.Canon := .of_eqSnd h.sluiceGo e1
    exact h1.after
  · rename_i s1 e1 _
    have h1 : s1.Canon := .of_eqSnd h.sluiceGo e1
    exact h1

theorem Canon.sluiceWait {d r} (h : s.Canon) : (s.sluiceWait d r).Canon := by
  unfold State.sluiceWait
  extract_lets s1
  have h1 : s1.Canon := h.bump
  split
  · exact h1.moveAccess
  · exact h1
  · exact h1

theorem Canon.sluiceTokens {d} (h : s.Canon) : (s.sluiceTokens d).Canon := by
  unfold State.sluiceTokens
  extract_lets q
  refine .foldl h.modDie fun s1 a h => ?_
  split
  · split
    · rename_i s2 e2
      have h2 : s2.Canon := h.sluiceServe e2
      exact h2.sluicePass
    · exact h.modDie
  · exact h

theorem Canon.sluiceTurns {d res n} (h : s.Canon) : (s.sluiceTurns d res n).Canon := by
  induction n generalizing s with
  | zero => exact h
  | succ n ih =>
    rw [State.sluiceTurns]
    split
    · exact h
    · exact ih h.modDie.claimCap.sluicePass

theorem Canon.sluiceDeferredServe {d} (h : s.Canon) : (sluiceDeferredServe d s).Canon :=
  have h1 := h.foldl fun _ _ h => h.sluiceTurns
  .ite (.ite h1 (.after (.foldl h1 fun _ _ h => h.sluiceWait))) (.ite h.sluiceTokens h.sluiceTokens.atEnd)

theorem Canon.loadLine {d pa evict dl} (h : s.Canon) : (s.loadLine d pa evict dl).2.Canon := by
  unfold State.loadLine
  split
  · exact h
  · split
    · exact h.modDie.touchL2.snd
    · split
      · exact h.touchRdc
      · exact h.modDie.touchL2.touchRdc.modDie.modDie.heat.snd

theorem Canon.storeLine {d pa evict dl} (h : s.Canon) : (s.storeLine d pa evict dl).2.Canon := by
  unfold State.storeLine
  split
  · exact h
  · exact h.modDie.touchL2.snd

theorem Canon.heatStore {d pa} (h : s.Canon) : (s.heatStore d pa).Canon := by
  unfold State.heatStore
  split
  · exact h
  · exact .ite h h.heat

theorem Canon.homeLine {d pa dl} (h : s.Canon) : (s.homeLine d pa dl).2.Canon := by
  unfold State.homeLine
  split
  · exact h
  · exact h.modDie.touchL2.heatStore.snd

theorem Canon.readEntry {d pa dl} (h : s.Canon) : (s.readEntry d pa dl).2.2.Canon := by
  unfold State.readEntry
  split
  rename_i s1 e1
  have h1 : s1.Canon := .of_eqSnd h.homeLine e1
  split
  rename_i s2 _ e2
  have h2 : s2.Canon := .of_eqFst h1.meetError e2
  split <;> exact h2

theorem Canon.readErrors {as} (h : s.Canon) : (s.readErrors as).2.2.Canon := by
  unfold State.readErrors
  refine .foldlSndSnd h ?_
  rintro ⟨_, _, s1⟩ a (h1 : s1.Canon)
  dsimp only
  exact h1.meetError

theorem Canon.walkRadix {d va t0 shifts tab lat} (h : s.Canon) : (walkRadix d va t0 shifts tab lat s).2.2.Canon := by
  induction shifts generalizing s tab lat with
  | nil => exact h
  | cons sh rest ih =>
    rw [Machine.walkRadix]
    split
    · exact h
    · dsimp only
      split
      · rename_i s1 e1
        exact .of_eqSndSnd h.readEntry e1
      · rename_i e l s1 e1
        have h1 : s1.Canon := .of_eqSndSnd h.readEntry e1
        split
        · exact h1
        · split
          · split
            · exact h1
            · split
              · split
                · rename_i s2 e2
                  exact .of_eqSndSnd h1.readErrors e2
                · rename_i s2 e2
                  have h2 : s2.Canon := .of_eqSndSnd h1.readErrors e2
                  split <;> exact h2
              · split <;> exact h1
          · split
            · exact h1
            · exact ih h1

theorem Canon.walkCompact {d va t0 root} (h : s.Canon) : (walkCompact d va t0 root s).2.2.Canon := by
  unfold Machine.walkCompact
  split
  · exact h
  · split
    · rename_i e1
      exact .of_eqSndSnd h.readEntry e1
    · rename_i s1 e1
      have h1 : s1.Canon := .of_eqSndSnd h.readEntry e1
      split
      · exact h1
      · split
        · split <;> exact h1
        · extract_lets tab
          split
          · exact h1
          · split
            · rename_i e2
              exact .of_eqSndSnd h1.readEntry e2
            · rename_i s2 e2
              have h2 : s2.Canon := .of_eqSndSnd h1.readEntry e2
              split <;> exact h2

theorem Canon.rvRun {d fuel r n} (h : s.Canon) : (rvRun d fuel r n s).2.2.2.Canon := by
  induction fuel generalizing s r n with
  | zero => exact h
  | succ fuel ih =>
    rw [Machine.rvRun]
    split
    · exact ih h
    · exact h
    · exact h
    · dsimp only
      split
      · exact ih h
      · split
        · exact h
        · split
          · exact h.homeLine.meetError
          · exact ih h.homeLine.meetError
    · split
      · exact ih h
      · split
        · exact ih h
        · split
          · exact h
          · exact ih h.homeLine.devPutVal

theorem Canon.rvCall {d pc va root a4 ctx t0 r} (h : s.Canon) : (s.rvCall d pc va root a4 ctx t0 r).2.2.2.Canon := by
  unfold State.rvCall
  split
  rename_i s1 e1
  have h1 : s1.Canon := .of_eqSndSndSnd h.rvRun e1
  exact h1.modDie.upd.sndSndSnd

theorem Canon.rvWalk {d fmt root va t0 acc ctx r} (h : s.Canon) : (s.rvWalk d fmt root va t0 acc ctx r).2.2.Canon := by
  unfold State.rvWalk
  split
  rename_i e1
  exact .of_eqSndSndSnd h.rvCall e1

theorem Canon.walkAt {d fmt root va t0 acc ctx} (h : s.Canon) : (s.walkAt d fmt root va t0 acc ctx).2.2.Canon := by
  unfold State.walkAt
  split
  · exact h
  · split
    · exact h.rvWalk
    · split
      · exact h.walkRadix
      · split
        rename_i e1
        exact .of_eqSndSnd h.walkCompact e1

theorem Canon.walk {d ctx va t0 acc} (h : s.Canon) : (s.walk d ctx va t0 acc).2.2.Canon := by
  unfold State.walk
  split
  · exact h
  · exact h.walkAt

theorem Canon.translate {d core ctx va acc} (h : s.Canon) : (s.translate d core ctx va acc).2.2.Canon := by
  unfold State.translate
  split
  · exact h
  · split
    · exact h
    · extract_lets s1 before done
      have h1 : s1.Canon := h.bump
      split
      · rename_i s2 e2
        have h2 : s2.Canon := .of_eqSndSnd h1.walk e2
        exact h2.modDie.modCore
      · rename_i s2 e2
        have h2 : s2.Canon := .of_eqSndSnd h1.walk e2
        exact h2.modDie

theorem Canon.locate {d core g fw va size need} (h : s.Canon) : (s.locate d core g fw va size need).2.2.Canon := by
  unfold State.locate
  split
  · exact h
  · split
    · exact h
    · split
      rename_i e1
      exact .of_eqSndSnd h.translate e1

theorem Canon.portWait {d core va} (h : s.Canon) : (s.portWait d core va).2.Canon := by
  unfold State.portWait
  extract_lets mine live since rest
  split <;> exact h.upd

theorem Canon.unitLocate {d core g va size need} (h : s.Canon) : (s.unitLocate d core g va size need).2.2.Canon := by
  unfold State.unitLocate
  split
  · rename_i s1 e1
    have h1 : s1.Canon := .of_eqSndSnd h.locate e1
    split
    · exact h1
    · exact .sndSnd h1.portWait
  · rename_i s1 e1
    exact .of_eqSndSnd h.locate e1

theorem Canon.peerBytes {dev pa n} (h : s.Canon) : (s.peerBytes dev pa n).2.Canon := h.upd.snd

theorem Canon.placeBytes {p n} (h : s.Canon) : (s.placeBytes p n).2.Canon := by
  unfold State.placeBytes
  split
  · exact h
  · exact h
  · split <;> exact h
  · exact h.peerBytes
  · exact h

theorem Canon.aptPut {d dev peer pa bs} (h : s.Canon) : (s.aptPut d dev peer pa bs).Canon := h.modDie.upd

theorem Canon.placePut {d p bs} (h : s.Canon) : (s.placePut d p bs).2.Canon := by
  unfold State.placePut
  split
  · exact h.scrPut
  · exact h.homePut
  · exact h.modPipe
  · exact h.aptPut
  · exact h

theorem Canon.raceUpd {p f} (h : s.Canon) : (s.raceUpd p f).Canon := by
  unfold State.raceUpd
  split
  · exact h.upd
  · split
    · exact h.modDie
    · exact h
  · exact h.modPipe
  · exact h
  · exact h

theorem Canon.aptLat {pa} (h : s.Canon) : (s.aptLat pa).2.Canon := h.upd.snd

theorem Canon.touchLoad {d p scope evict dl} (h : s.Canon) : (s.touchLoad d p scope evict dl).2.Canon := by
  unfold State.touchLoad
  split
  · exact h
  · exact h.loadLine
  · exact h
  · split
    · exact h.touchRdc
    · split
      · exact h.touchRdc.aptLat
      · exact h.aptLat
  · exact h

theorem Canon.touchStore {d p evict dl} (h : s.Canon) : (s.touchStore d p evict dl).2.Canon := by
  unfold State.touchStore
  split
  · exact h
  · exact h.storeLine
  · exact h
  · exact h.aptLat
  · exact h

theorem Canon.loadBytes {d p scope n} (h : s.Canon) : (s.loadBytes d p scope n).2.Canon := by
  unfold State.loadBytes
  split
  · split
    · split
      · split
        rename_i e1
        refine .of_eqSnd ?_ e1
        split
        · exact h
        · exact h.upd.modDie.snd
      · exact h.peerBytes
    · exact h.peerBytes
  · exact h.placeBytes

theorem Canon.dropAperture {d} (h : s.Canon) : (s.dropAperture d).Canon := h.modDie

theorem Canon.acquireDrop {d ord scope} (h : s.Canon) : (s.acquireDrop d ord scope).Canon := .ite h.dropAperture h

theorem Canon.lanesDrop {d m scope} (h : s.Canon) : (s.lanesDrop d m scope).Canon := .ite h h.acquireDrop

theorem Canon.physGet {pa n} (h : s.Canon) : (s.physGet pa n).2.Canon := by
  unfold State.physGet
  split
  · dsimp only
    split
    · exact h.meetError
    · exact h
  · exact h.placeBytes
  · exact h
  · exact h

theorem Canon.physPut {d pa bs} (h : s.Canon) : (s.physPut d pa bs).Canon := by
  unfold State.physPut
  split
  · exact h.devPut
  · exact h.placePut
  · exact h

theorem Canon.recAddr {d fmt root va} (h : s.Canon) : (s.recAddr d fmt root va).2.Canon := by
  unfold State.recAddr
  split
  · rename_i e1
    exact .of_eqSndSnd h.walkAt e1
  · rename_i s1 e1
    have h1 : s1.Canon := .of_eqSndSnd h.walkAt e1
    split <;> exact h1

theorem Canon.recBytes {d fmt root va n} (h : s.Canon) : (s.recBytes d fmt root va n).2.Canon := by
  unfold State.recBytes
  extract_lets starts
  refine .foldlSnd h ?_
  rintro ⟨_, s1⟩ a (h1 : s1.Canon)
  split
  · rename_i e2
    exact .of_eqSnd h1 e2
  · rename_i s2 e2
    have h2 : s2.Canon := .of_eqSnd h1 e2
    split
    · rename_i e3
      exact .of_eqSnd h2.recAddr e3
    · rename_i s3 e3
      have h3 : s3.Canon := .of_eqSnd h2.recAddr e3
      split
      · rename_i e4
        exact .of_eqSnd h3.physGet e4
      · exact h3.physGet

theorem Canon.recWords {d fmt root va n} (h : s.Canon) : (s.recWords d fmt root va n).2.Canon := by
  unfold State.recWords
  split <;> rename_i e1 <;> exact .of_eqSnd h.recBytes e1

theorem Canon.recPut {d fmt root va bs} (h : s.Canon) : (s.recPut d fmt root va bs).Canon := by
  unfold State.recPut
  split
  · rename_i e1
    exact .of_eqSnd h.recAddr e1
  · rename_i s1 e1
    have h1 : s1.Canon := .of_eqSnd h.recAddr e1
    exact .ite h1 h1.physPut

theorem Canon.recWrite {d fmt root va n v} (h : s.Canon) : (s.recWrite d fmt root va n v).Canon := h.recPut

theorem Canon.ctxWords {d ctx va n} (h : s.Canon) : (s.ctxWords d ctx va n).2.Canon := by
  unfold State.ctxWords
  split
  · exact h
  · exact h.recWords

/-! ### Operand forms: reading sources and writing destinations (R112 to R114, R152 to R155) -/

theorem Canon.put {r f} {x : Env} (h : s.Canon) : (x.put s r f).Canon := h.modLanes

theorem Canon.putOne {o r v lat} {x : Env} (h : s.Canon) : (x.putOne s o r v lat).Canon := by
  unfold Env.putOne
  split
  · exact h.modLanes
  · exact h.writeK
  · exact h

theorem Canon.putLaneOrK {r lat f} {x : Env} (h : s.Canon) : (x.putLaneOrK s r lat f).Canon := by
  unfold Env.putLaneOrK
  split
  · exact .ite h h.writeK
  · exact h.put

/-! ### The flags of the machine: predicates, their combine modes and pairs, guards, and the conditions of compares (R111, R135, R176) -/

theorem Canon.envPutPair {pe cm f} {x : Env} (h : s.Canon) : (x.putPair s pe cm f).Canon := .modLanes (.ite h h.live)

/-! ### What every instruction does at issue: guards, the checks of R145, completion and lookahead windows, and the traps of one issue
(R134, R143 to R146, R421) -/

theorem Canon.ok {lat} (h : s.Canon) : (Res.ok s lat).s.Canon := h

theorem Canon.all {x f} (h : s.Canon) : (Res.all s x f).s.Canon := h

theorem Canon.team {x i} (h : s.Canon) : (Res.team s x i).s.Canon := h

theorem Canon.raise {t pc key l quiet} (h : s.Canon) : (s.raise t pc key l quiet).Canon := by
  unfold State.raise
  extract_lets kinds
  refine .foldl h fun s1 a h => ?_
  dsimp only
  split
  · exact h
  · split
    · exact h.trap.bump
    · exact h.trap.bump
    · exact h.trap.bump
    · exact h.trap.bump
    · exact h.trap

theorem Canon.occupy {t v} (h : s.Canon) : (s.occupy t v).1.Canon := by
  unfold State.occupy
  extract_lets q extra s1 c
  have h1 : s1.Canon := .ite h h.modCore
  split
  · exact h1.modCore.fst
  · split
    · exact h1.modCore.fst
    · exact h1.fst

theorem Canon.runIssue {v iss tm} {body : Env → State → Res} (hbody : ∀ y0 s, s.Canon → (body y0 s).s.Canon) (h : s.Canon) :
    (runIssue v body iss tm s).Canon := by
  unfold Machine.runIssue
  extract_lets -merge +onlyGivenNames s1 f x
  have h1 : s1.Canon := h.upd
  split
  rename_i s2 _ e2
  have h2 : s2.Canon := .of_eqFst h1.occupy e2
  extract_lets -merge +onlyGivenNames extra s3 traps key s4 s5 s6 s7
  have h3 : s3.s.Canon := by
    unfold s3
    split
    · exact h2.ok
    · exact (hbody _ _ h2)
  have h4 : s4.Canon := h3.lateK
  have h5 : s5.Canon := h4.modLanes
  have h6 : s6.Canon := h5.modLanes
  have h7 : s7.Canon := h6.raise
  exact .ite h7.modTeam h7

/-- An instruction keeps the canonical form where its body does. -/
theorem Canon.issueWord {v} {body : Env → State → Res} (h : s.Canon) (hbody : ∀ x s, State.Canon s → (body x s).s.Canon) :
    NextCanon (issueWord v body s) := by
  unfold Machine.issueWord
  split
  · exact .fault
  · split
    · exact .fault
    · exact .next (.runIssue hbody h)

theorem Canon.badWord {h' cls opn check iss tm} (h : s.Canon) : (badWord h' cls opn check iss tm s).Canon := h.upd.modLanes.raise

/-! ### What the device has for other devices: routes, and the send queues in which everything waits that leaves it (R391, R397, R398,
R400) -/

theorem Canon.modFab {f} (h : s.Canon) : (s.modFab f).Canon := h.upd

theorem Canon.noteOver {d p kept due who} {s0 : State} (h : s.Canon) : (s.noteOver s0 d p kept due who).Canon := by
  unfold State.noteOver
  split
  · exact .ite h h.modFab
  · exact h

theorem Canon.enqueueEntry {e} (h : s.Canon) : (s.enqueueEntry e).Canon := .ite h.modFab h.modFab.at_

theorem Canon.admitWaiting (h : s.Canon) : (s.admitWaiting).Canon := h.modFab.foldl fun _ _ h => .ite h.enqueueEntry h.modFab

theorem Canon.post {d p dest win off len formed load} (h : s.Canon) : (s.post d p dest win off len formed load).Canon :=
  .ite h.modFab.enqueueEntry h.modFab.modFab

theorem Canon.postMsg {d p dest formed m} (h : s.Canon) : (s.postMsg d p dest formed m).Canon := h.post

/-! ### Instruction supply (R94 to R109) and the choice of what a quad issues (R129 to R132, R147) -/

theorem Canon.probe {tm pc} (h : s.Canon) : (s.probe tm pc).2.Canon := by
  unfold State.probe
  extract_lets t look
  split
  · unfold look
    split
    · exact h
    · split
      · split <;> exact h
      · exact h
  · split
    · split
      · exact h
      · split <;> exact h
    · split
      · rename_i e1
        exact .of_eqSndSnd h.translate e1
      · rename_i s1 e1
        have h1 : s1.Canon := .of_eqSndSnd h.translate e1
        split
        · exact h1
        · split
          · unfold look
            split
            · exact h1
            · split
              · split <;> exact h1
              · exact h1
          · exact h1

theorem Canon.lineLat {die line walk} (h : s.Canon) : (s.lineLat die line walk).2.Canon := by
  unfold State.lineLat
  split
  · split
    rename_i s1 e1
    have h1 : s1.Canon := .of_eqSnd h.loadLine e1
    exact .snd (.foldl h1 fun _ _ h => h.meetError)
  · exact h.aptLat

theorem Canon.lineBytes {line} (h : s.Canon) : (s.lineBytes line).2.Canon := by
  unfold State.lineBytes
  split
  · exact h.placeBytes
  · exact h

theorem Canon.startFill {die cluster line walk ahead} (h : s.Canon) : (s.startFill die cluster line walk ahead).Canon := by
  unfold State.startFill
  split
  · exact h.modCluster
  · extract_lets -merge +onlyGivenNames s1
    have h1 : s1.Canon := h.modCluster
    split
    rename_i s2 e2
    have h2 : s2.Canon := .of_eqSnd h1.lineLat e2
    extract_lets -merge +onlyGivenNames me s3
    have h3 : s3.Canon := by
      unfold s3
      split
      · exact h2.noteOver
      · exact h2
    exact h3.after

theorem Canon.checkLine {tm pc ahead} (h : s.Canon) : (s.checkLine tm pc ahead).Canon := by
  unfold State.checkLine
  extract_lets t cl
  split
  · exact h
  · exact .ite (.ite h.modCluster.bump h.modCluster.bump) (.foldl h fun _ _ h => h.modCluster.bump)

theorem Canon.useLine {tm pc} (h : s.Canon) : (s.useLine tm pc).Canon := by
  unfold State.useLine
  split
  · exact h.modCluster
  · exact h

theorem Canon.fetchAhead {tm pc} (h : s.Canon) : (s.fetchAhead tm pc).Canon := by
  unfold State.fetchAhead
  extract_lets t drop had s1
  have h1 : s1.Canon := h.checkLine
  split
  · exact h1
  · split
    · rename_i e2
      exact .of_eqSnd h1.probe e2
    · rename_i s2 e2
      have h2 : s2.Canon := .of_eqSnd h1.probe e2
      exact h2.bump
    · rename_i s2 e2
      have h2 : s2.Canon := .of_eqSnd h1.probe e2
      exact h2.bump
    · rename_i s2 e2
      have h2 : s2.Canon := .of_eqSnd h1.probe e2
      exact h2.startFill
    · rename_i s2 e2
      have h2 : s2.Canon := .of_eqSnd h1.probe e2
      exact .ite h2 h2.bump

theorem Canon.demandFill {die cluster line walk} (h : s.Canon) : (s.demandFill die cluster line walk).Canon :=
  .ite h.startFill h.startFill.startFill

theorem Canon.fillFault {t pc} (h : s.Canon) : (s.fillFault t pc).Canon := h.modTeam.trap

theorem Canon.icacheFill {die cluster line} (h : s.Canon) : (icacheFill die cluster line s).Canon := by
  unfold Machine.icacheFill
  extract_lets -merge +onlyGivenNames c s1 cnt bad
  have h1 : s1.Canon := h.modCluster
  split
  · exact h1
  · extract_lets -merge +onlyGivenNames waits
    split
    · split
      · exact h1.bump
      · split
        · extract_lets -merge +onlyGivenNames s2
          have h2 : s2.Canon := h1.modCluster
          refine .foldl h2 fun s3 a h => ?_
          split
          · exact h.fillFault
          · exact h
        · exact h1.bump.modCluster.startFill
    · split
      rename_i s2 e2
      have h2 : s2.Canon := .of_eqSnd h1.lineBytes e2
      exact .ite h2.modCluster h2.modCluster.upd

/-- The kernel must not count up to the patience of `State.portWait`, which stands as a variable here. -/
theorem Canon.quadFetch {tm} (h : s.Canon) : (s.quadFetch tm).Canon := by
  have hw := @Canon.portWait
  obtain ⟨wait, hwait⟩ := exists_eq (a' := @State.portWait)
  unfold State.quadFetch
  rw [← hwait] at hw ⊢
  extract_lets m
  split
  · exact h
  · split
    · rename_i s1 e1
      exact .of_eqSnd h.checkLine.probe e1
    · rename_i s1 e1
      exact .of_eqSnd h.checkLine.probe e1
    · rename_i s1 e1
      have h1 : s1.Canon := .of_eqSnd h.checkLine.probe e1
      split
      · rename_i s2 e2
        exact .of_eqSnd (hw h1) e2
      · rename_i s2 e2
        exact (of_eqSnd (hw h1) e2).trap
    · rename_i s1 e1
      have h1 : s1.Canon := .of_eqSnd h.checkLine.probe e1
      exact .modTeam (.demandFill (.bump (.ite h1 h1.bump)))
    · rename_i s1 e1
      exact (of_eqSnd h.checkLine.probe e1).trap

theorem Canon.countFull {tm} (h : s.Canon) : (s.countFull tm).Canon := .ite h (.foldl h fun _ _ h => h.bump)

theorem Canon.issueTeam {tm boost} (h : s.Canon) : (s.issueTeam tm boost).Canon := by
  unfold State.issueTeam
  extract_lets -merge +onlyGivenNames m r pcs
  clear_value pcs
  split
  · exact h
  · extract_lets -merge +onlyGivenNames p2 iss s1
    have h1 : s1.Canon := .ite h.modTeam h
    clear_value s1 p2
    split
    · exact h1.useLine.upd
    · dsimp only
      split
      · exact h1.checkLine.probe.useLine.useLine.bump.upd
      · exact .upd (.useLine (.bump (.ite h1.checkLine.probe (.fetchAhead h1.checkLine.probe))))

theorem Canon.quadIssue {die core quad} (h : s.Canon) : (Machine.quadIssue die core quad s).Canon := by
  unfold Machine.quadIssue
  extract_lets on s1 teams ready rot
  have h1 : s1.Canon := h.foldl fun _ _ h => h.countFull.quadFetch
  have hrot : ∀ s : State, s.Canon → (rot s).Canon := by
    intro s h
    unfold rot
    extract_lets ptr order cand
    clear_value cand
    split
    · exact h
    · exact h.modCore.issueTeam
  clear_value s1 rot
  split
  · exact h.foldl fun _ _ h => h.countFull
  · split
    · split
      · split
        · exact .ite h1.issueTeam h1.issueTeam
        · exact hrot _ h1
      · exact hrot _ h1
    · exact hrot _ h1

/-! ### Device registers: the Headwater blocks as firmware and Estuary read and write them (R7, R8, R51, R224) -/

theorem Canon.readReg {d off} (h : s.Canon) : (s.readReg d off).2.Canon :=
  .snd (.upd (.ite (.modEngine (.ite h h.setReg)) (.ite h h.setReg)))

theorem Canon.badAccess {d} (h : s.Canon) : (s.badAccess d).Canon := h.upd

/-- The kernel must not run the address arithmetic below `State.devRead`, which stands as a variable here. -/
theorem Canon.devRead {pa size} (h : s.Canon) : (s.devRead pa size).2.Canon := by
  suffices ∀ f, f = @State.devRead → ∀ r, r = f s pa size → r.2.Canon from this _ rfl _ rfl
  delta State.devRead
  rintro _ rfl r e
  beta_reduce at e
  split at e
  · dsimp only at e
    split at e
    · subst e; exact h.badAccess
    · subst e; exact h.readReg
  · subst e; exact h.upd

/-- The kernel must not run the address arithmetic below `State.devWrite`, which stands as a variable here. -/
theorem Canon.devWrite {pa size v} (h : s.Canon) : (s.devWrite pa size v).Canon := by
  suffices ∀ f, f = @State.devWrite → (f s pa size v).Canon from this _ rfl
  delta State.devWrite
  rintro _ rfl
  dsimp only
  split
  · split
    · exact h.badAccess
    · exact h.upd
  · split
    · split
      · exact h
      · exact h.modDie
    · exact h

/-! ### What the lanes of one access instruction do: effective addresses, the checks of Table 8-9, and the performance of each lane's
load, store or atomic (R225, R245, R246, R330 to R344) -/

theorem Canon.look {va size need memo} {x : Env} (h : s.Canon) : (x.look va size need memo s).2.2.2.Canon := by
  unfold Env.look
  split
  · split
    rename_i e1
    exact .of_eqSndSnd h.locate e1
  · split
    · exact h
    · split
      rename_i e1
      exact .of_eqSndSnd h.translate e1

theorem Canon.check {space size need plain reads l ea memo} {x : Env} {s0 : State} (h : s.Canon) :
    (x.check s0 space size need plain reads l ea memo s).2.2.Canon := by
  unfold Env.check
  extract_lets va res after
  split
  · split <;> exact h
  · split
    · exact h
    · split <;> rename_i e1 <;> exact .of_eqSndSndSnd h.look e1

theorem Canon.checks {space size need plain reads as stops} {x : Env} (h : s.Canon) :
    (x.checks space size need plain reads as s stops).2.2.Canon := by
  unfold Env.checks
  split
  rename_i s1 e1
  have h1 : s1.Canon := by
    refine .of_eqSndSnd ?_ e1
    refine .foldlSndSnd h ?_
    rintro ⟨_, _, s2⟩ a (h2 : s2.Canon)
    dsimp only
    split
    · split
      · exact h2
      · exact h2.check
    · split
      · exact h2
      · exact h2.check
    · split
      · exact h2
      · exact h2.check
  exact h1.foldl fun _ _ h => h.meetError

theorem Canon.sluiceAll {x win ps write} (h : s.Canon) : (s.sluiceAll x win ps write).Canon := .ite h.sluice h

theorem Canon.noteFlight {x kept win ps lats} {s0 : State} (h : s.Canon) : (s.noteFlight s0 x kept win ps lats).Canon :=
  h.foldl fun _ _ h => h.noteOver

theorem Canon.noteAccess {x read cs lats} (h : s.Canon) : (s.noteAccess x read cs lats).Canon := h.modLanes

theorem Canon.newRels {l ord scope} {x : Env} (h : s.Canon) : (x.newRels l ord scope s).2.Canon := by
  unfold Env.newRels
  extract_lets y scopes
  split
  · exact h
  · exact h.modDie.snd

theorem Canon.leaveRace {l p size write} {x : Env} {s0 : State} (h : s.Canon) : (x.leaveRace s0 l p size write s).Canon := .ite h.raceUpd h

theorem Canon.touchedError {m p} (h : s.Canon) : (Touched.error m p s).2.2.Canon := by
  unfold Touched.error
  split
  · split
    · exact h
    · split
      rename_i e1
      exact .of_eqFst h.meetError e1
  · exact h

theorem Canon.touchedLoad {m d p scope evict dl} (h : s.Canon) : (Touched.load m d p scope evict dl s).2.2.Canon := by
  unfold Touched.load
  split
  · exact h
  · split
    rename_i e1
    exact .of_eqSnd h.touchLoad e1

theorem Canon.touchedHeat {m d p} (h : s.Canon) : (Touched.heat m d p s).2.Canon := by
  unfold Touched.heat
  split
  · split
    · exact h
    · exact h.heatStore
  · exact h

theorem Canon.touchedStore {m d p evict dl} (h : s.Canon) : (Touched.store m d p evict dl s).2.2.Canon := by
  unfold Touched.store
  split
  rename_i s1 e1
  have h1 : s1.Canon := .of_eqSnd h.touchedHeat e1
  split
  · exact h1
  · split
    rename_i e2
    exact .of_eqSnd h1.touchStore e2

theorem Canon.putAt {p size v m} {x : Env} (h : s.Canon) : (x.putAt p size v m s).2.2.Canon := by
  unfold Env.putAt
  split
  · exact h.devWrite
  · split
    rename_i e1
    exact .of_eqSnd h.placePut e1

theorem Canon.envLoad {l p size ord scope evict plain dl m} {x : Env} {s0 : State} (h : s.Canon) :
    (x.load l p size ord scope evict plain dl m s0 s).2.2.2.Canon := by
  unfold Env.load
  extract_lets s1
  have h1 : s1.Canon := h.acquireDrop
  split
  rename_i s2 e2
  have h2 : s2.Canon := .of_eqSndSnd h1.touchedLoad e2
  split
  rename_i s3 e3
  have h3 : s3.Canon := .of_eqSndSnd h2.touchedError e3
  split
  rename_i s4 e4
  have h4 : s4.Canon := by
    refine .of_eqSnd ?_ e4
    split
    · exact h3.devRead
    · split
      rename_i e5
      exact .of_eqSnd h3.loadBytes e5
  exact .sndSndSnd (.ite h4.modLane.leaveRace h4.modLane)

theorem Canon.envStore {l p size ord scope evict plain v dl m} {x : Env} (h : s.Canon) :
    (x.store l p size ord scope evict plain v dl m s).2.2.Canon := by
  unfold Env.store
  split
  rename_i s1 e1
  have h1 : s1.Canon := .of_eqSndSnd h.touchedStore e1
  split
  rename_i s2 e2
  have h2 : s2.Canon := .of_eqSndSnd h1.putAt e2
  extract_lets s3
  have h3 : s3.Canon := .ite h2.leaveRace h2
  split
  rename_i s4 e4
  have h4 : s4.Canon := .of_eqSnd h3.newRels e4
  exact h4.writeRels

theorem Canon.atomic {l p size ord scope evict f dl m} {x : Env} (h : s.Canon) :
    (x.atomic l p size ord scope evict f dl m s).2.2.2.Canon := by
  unfold Env.atomic
  extract_lets s1
  have h1 : s1.Canon := h.acquireDrop
  split
  rename_i s2 e2
  have h2 : s2.Canon := .of_eqSndSnd h1.touchedStore e2
  split
  rename_i s3 e3
  have h3 : s3.Canon := .of_eqSndSnd h2.touchedError e3
  split
  rename_i s4 e4
  have h4 : s4.Canon := by
    refine .of_eqSnd ?_ e4
    split
    · exact h3.devRead
    · split
      rename_i e5
      exact .of_eqSnd h3.placeBytes e5
  extract_lets s5
  have h5 : s5.Canon := h4.modLane
  split
  · exact h5
  · split
    rename_i s6 e6
    have h6 : s6.Canon := .of_eqSndSnd h5.putAt e6
    split
    rename_i s7 e7
    have h7 : s7.Canon := .of_eqSnd h6.newRels e7
    exact h7.writeRels

theorem Canon.holdLanes {t cs} (h : s.Canon) : (s.holdLanes t cs).Canon := by
  unfold State.holdLanes
  refine .foldl h fun s1 a h => ?_
  split
  · exact h.waitLanes
  · exact h

/-! ### Class 3: compare and predicate instructions (R176 to R180) -/

theorem Canon.pairOp {v cm f} (h : s.Canon) : NextCanon (pairOp v cm f s) := h.issueWord fun _ _ h => h.envPutPair.ok

theorem Canon.execIcmp {h' o} (h : s.Canon) : NextCanon (execIcmp h' o s) := h.pairOp

theorem Canon.execFcmp {h' o} (h : s.Canon) : NextCanon (execFcmp h' o s) := h.pairOp

theorem Canon.execPset {h' o} (h : s.Canon) : NextCanon (execPset h' o s) := h.pairOp

theorem Canon.execP2g {h' o} (h : s.Canon) : NextCanon (execP2g h' o s) := h.issueWord fun _ _ h => h.put.ok

theorem Canon.execG2p {h' o} (h : s.Canon) : NextCanon (execG2p h' o s) := h.issueWord fun _ _ h => h.live.modLanes.ok

theorem Canon.execBallot {h' o} (h : s.Canon) : NextCanon (execBallot h' o s) := h.issueWord fun _ _ h => h.putLaneOrK.ok

theorem Canon.execVote {h' o} (h : s.Canon) : NextCanon (execVote h' o s) := h.pairOp

/-! ### Class 1: integer and address instructions (R165 to R170) -/

theorem Canon.laneOp {v f} (h : s.Canon) : NextCanon (laneOp v f s) := h.issueWord fun _ _ h => h.put.ok

theorem Canon.execIadd {h' o} (h : s.Canon) : NextCanon (execIadd h' o s) := h.laneOp

theorem Canon.execIsub {h' o} (h : s.Canon) : NextCanon (execIsub h' o s) := h.laneOp

theorem Canon.execImul {h' o} (h : s.Canon) : NextCanon (execImul h' o s) := h.laneOp

theorem Canon.execImulhi {h' o} (h : s.Canon) : NextCanon (execImulhi h' o s) := h.laneOp

theorem Canon.execImad {h' o} (h : s.Canon) : NextCanon (execImad h' o s) := h.laneOp

theorem Canon.execImadw {h' o} (h : s.Canon) : NextCanon (execImadw h' o s) := h.laneOp

theorem Canon.execIdiv {h' o} (h : s.Canon) : NextCanon (execIdiv h' o s) := h.laneOp

theorem Canon.execIrem {h' o} (h : s.Canon) : NextCanon (execIrem h' o s) := h.laneOp

theorem Canon.execIneg {h' o} (h : s.Canon) : NextCanon (execIneg h' o s) := h.laneOp

theorem Canon.execIabs {h' o} (h : s.Canon) : NextCanon (execIabs h' o s) := h.laneOp

theorem Canon.execImin {h' o} (h : s.Canon) : NextCanon (execImin h' o s) := h.laneOp

theorem Canon.execImax {h' o} (h : s.Canon) : NextCanon (execImax h' o s) := h.laneOp

theorem Canon.execIclamp {h' o} (h : s.Canon) : NextCanon (execIclamp h' o s) := h.laneOp

theorem Canon.execIsad {h' o} (h : s.Canon) : NextCanon (execIsad h' o s) := h.laneOp

theorem Canon.execAadd {h' o} (h : s.Canon) : NextCanon (execAadd h' o s) := h.laneOp

theorem Canon.execLea {h' o} (h : s.Canon) : NextCanon (execLea h' o s) := h.laneOp

theorem Canon.execMov {h' o} (h : s.Canon) : NextCanon (execMov h' o s) := h.laneOp

theorem Canon.execMovi {h' o} (h : s.Canon) : NextCanon (execMovi h' o s) := h.laneOp

theorem Canon.execMovk {h' o} (h : s.Canon) : NextCanon (execMovk h' o s) := h.issueWord fun _ _ h => h.modLanes.ok

theorem Canon.execSel {h' o} (h : s.Canon) : NextCanon (execSel h' o s) := h.laneOp

/-! ### Classes 5, 6 and 7: floating-point, packed 16-bit and conversion instructions (R202 to R223) -/

theorem Canon.fltOp {v f} (h : s.Canon) : NextCanon (fltOp v f s) := h.issueWord fun _ _ h => h.put.ok

theorem Canon.execFadd {h' o} (h : s.Canon) : NextCanon (execFadd h' o s) := h.fltOp

theorem Canon.execFsub {h' o} (h : s.Canon) : NextCanon (execFsub h' o s) := h.fltOp

theorem Canon.execFmul {h' o} (h : s.Canon) : NextCanon (execFmul h' o s) := h.fltOp

theorem Canon.execFfma {h' o} (h : s.Canon) : NextCanon (execFfma h' o s) := h.fltOp

theorem Canon.execFmin {h' o} (h : s.Canon) : NextCanon (execFmin h' o s) := h.fltOp

theorem Canon.execFmax {h' o} (h : s.Canon) : NextCanon (execFmax h' o s) := h.fltOp

theorem Canon.execFrcp {h' o} (h : s.Canon) : NextCanon (execFrcp h' o s) := h.fltOp

theorem Canon.execFrsq {h' o} (h : s.Canon) : NextCanon (execFrsq h' o s) := h.fltOp

theorem Canon.execFsqrt {h' o} (h : s.Canon) : NextCanon (execFsqrt h' o s) := h.fltOp

theorem Canon.execFdiv {h' o} (h : s.Canon) : NextCanon (execFdiv h' o s) := h.fltOp

theorem Canon.execFex2 {h' o} (h : s.Canon) : NextCanon (execFex2 h' o s) := h.fltOp

theorem Canon.execFlg2 {h' o} (h : s.Canon) : NextCanon (execFlg2 h' o s) := h.fltOp

theorem Canon.execFsin {h' o} (h : s.Canon) : NextCanon (execFsin h' o s) := h.fltOp

theorem Canon.execFcos {h' o} (h : s.Canon) : NextCanon (execFcos h' o s) := h.fltOp

theorem Canon.execFtanh {h' o} (h : s.Canon) : NextCanon (execFtanh h' o s) := h.fltOp

theorem Canon.execFclass {h' o} (h : s.Canon) : NextCanon (execFclass h' o s) := h.fltOp

theorem Canon.execFscale {h' o} (h : s.Canon) : NextCanon (execFscale h' o s) := h.fltOp

theorem Canon.execFrnd {h' o} (h : s.Canon) : NextCanon (execFrnd h' o s) := h.fltOp

theorem Canon.halfOp {v f} (h : s.Canon) : NextCanon (halfOp v f s) := h.issueWord fun _ _ h => h.put.ok

theorem Canon.execHadd2F16 {h' o} (h : s.Canon) : NextCanon (execHadd2F16 h' o s) := h.halfOp

theorem Canon.execHmul2F16 {h' o} (h : s.Canon) : NextCanon (execHmul2F16 h' o s) := h.halfOp

theorem Canon.execHfma2F16 {h' o} (h : s.Canon) : NextCanon (execHfma2F16 h' o s) := h.halfOp

theorem Canon.execHmin2F16 {h' o} (h : s.Canon) : NextCanon (execHmin2F16 h' o s) := h.halfOp

theorem Canon.execHmax2F16 {h' o} (h : s.Canon) : NextCanon (execHmax2F16 h' o s) := h.halfOp

theorem Canon.execHdot2F16 {h' o} (h : s.Canon) : NextCanon (execHdot2F16 h' o s) := h.fltOp

theorem Canon.execHadd2Bf16 {h' o} (h : s.Canon) : NextCanon (execHadd2Bf16 h' o s) := h.halfOp

theorem Canon.execHmul2Bf16 {h' o} (h : s.Canon) : NextCanon (execHmul2Bf16 h' o s) := h.halfOp

theorem Canon.execHfma2Bf16 {h' o} (h : s.Canon) : NextCanon (execHfma2Bf16 h' o s) := h.halfOp

theorem Canon.execHmin2Bf16 {h' o} (h : s.Canon) : NextCanon (execHmin2Bf16 h' o s) := h.halfOp

theorem Canon.execHmax2Bf16 {h' o} (h : s.Canon) : NextCanon (execHmax2Bf16 h' o s) := h.halfOp

theorem Canon.execHdot2Bf16 {h' o} (h : s.Canon) : NextCanon (execHdot2Bf16 h' o s) := h.fltOp

theorem Canon.execCvt {h' o} (h : s.Canon) : NextCanon (execCvt h' o s) := h.issueWord fun _ _ h => h.put.ok

theorem Canon.execQuant {h' o} (h : s.Canon) : NextCanon (execQuant h' o s) := h.issueWord fun _ _ h => h.put.ok

theorem Canon.execDequant {h' o} (h : s.Canon) : NextCanon (execDequant h' o s) := h.issueWord fun _ _ h => h.put.ok

theorem Canon.execPackPlanes {h' o} (h : s.Canon) : NextCanon (execPackPlanes h' o s) := h.issueWord fun _ _ h => h.put.ok

theorem Canon.execPackPair {h' o} (h : s.Canon) : NextCanon (execPackPair h' o s) := h.issueWord fun _ _ h => h.put.ok

theorem Canon.execUnpackPlanes {h' o} (h : s.Canon) : NextCanon (execUnpackPlanes h' o s) := h.issueWord fun _ _ h => h.put.ok

theorem Canon.execUnpackPair {h' o} (h : s.Canon) : NextCanon (execUnpackPair h' o s) := h.issueWord fun _ _ h => h.put.ok

theorem Canon.execScalmax {h' o} (h : s.Canon) : NextCanon (execScalmax h' o s) := h.issueWord fun _ _ h => h.putLaneOrK.ok

/-! ### Class 4 but for `kld`: cross-lane, uniform and special-register instructions (R181 to R190) -/

theorem Canon.execShfl {h' o} (h : s.Canon) : NextCanon (execShfl h' o s) := h.issueWord fun _ _ h => h.put.ok

theorem Canon.execBcast {h' o} (h : s.Canon) : NextCanon (execBcast h' o s) := h.issueWord fun _ _ h => h.putLaneOrK.ok

theorem Canon.execTred {h' o} (h : s.Canon) : NextCanon (execTred h' o s) := h.issueWord fun _ _ h => h.putLaneOrK.ok

theorem Canon.execTscan {h' o} (h : s.Canon) : NextCanon (execTscan h' o s) := h.issueWord fun _ _ h => h.put.ok

theorem Canon.execMatchLanes {h' o} (h : s.Canon) : NextCanon (execMatchLanes h' o s) := h.issueWord fun _ _ h => h.put.ok

theorem Canon.execKmov {h' o} (h : s.Canon) : NextCanon (execKmov h' o s) := h.issueWord fun _ _ h => h.putLaneOrK.ok

theorem Canon.execKadd {h' o} (h : s.Canon) : NextCanon (execKadd h' o s) := h.issueWord fun _ _ h => h.putLaneOrK.ok

theorem Canon.execKcmp {h' o} (h : s.Canon) : NextCanon (execKcmp h' o s) := h.pairOp

theorem Canon.execRdsr {h' o} (h : s.Canon) : NextCanon (execRdsr h' o s) := h.issueWord fun _ _ h => h.putLaneOrK.ok

theorem Canon.execWrsr {h' o} (h : s.Canon) : NextCanon (execWrsr h' o s) := h.issueWord fun _ _ h => h.modLanes.ok

theorem Canon.execClk {h' o} (h : s.Canon) : NextCanon (execClk h' o s) := h.issueWord fun _ _ h => h.putLaneOrK.ok

/-! ### Class 8 and `kld`: loads, stores, prefetch and cache control (R188, R244 to R252) -/

theorem Canon.loads {cs size extra plain} {x : Env} (h : s.Canon) : (x.loads cs size extra plain s).2.2.2.Canon := by
  unfold Env.loads
  split
  rename_i s1 e1
  have h1 : s1.Canon := by
    refine .of_eqSndSndSnd ?_ e1
    refine .foldlSndSndSnd h ?_
    rintro ⟨_, _, _, s2⟩ a (h2 : s2.Canon)
    dsimp only
    exact h2.envLoad
  exact h1.noteAccess.noteFlight

theorem Canon.putVals {r vs} {x : Env} (h : s.Canon) : (x.putVals s r vs).Canon := h.modLanes

theorem Canon.ldBody {x} (h : s.Canon) : (ldBody x s).s.Canon := by
  unfold Machine.ldBody
  extract_lets v
  split
  rename_i s1 e1
  have h1 : s1.Canon := .of_eqSndSnd h.checks e1
  extract_lets ps s2
  have h2 : s2.Canon := h1.sluiceAll
  split
  rename_i s3 e3
  have h3 : s3.Canon := .of_eqSndSndSnd h2.loads e3
  exact h3.putVals.holdLanes

theorem Canon.execLd {h' o} (h : s.Canon) : NextCanon (execLd h' o s) := h.issueWord fun _ _ h => h.ldBody

theorem Canon.stores {cs extra} {x : Env} (h : s.Canon) : (x.stores cs extra s).Canon := by
  unfold Env.stores
  split
  rename_i s1 e1
  have h1 : s1.Canon := by
    refine .of_eqSndSnd ?_ e1
    refine .foldlSndSnd h ?_
    rintro ⟨_, _, s2⟩ a (h2 : s2.Canon)
    dsimp only
    exact h2.envStore
  exact h1.noteAccess.noteFlight

theorem Canon.stBody {x} (h : s.Canon) : (stBody x s).s.Canon := by
  unfold Machine.stBody
  extract_lets v
  split
  rename_i s1 e1
  have h1 : s1.Canon := .of_eqSndSnd h.checks e1
  exact h1.sluiceAll.stores.holdLanes

theorem Canon.execSt {h' o} (h : s.Canon) : NextCanon (execSt h' o s) := h.issueWord fun _ _ h => h.stBody

theorem Canon.failLats {cs spread m} {x : Env} (h : s.Canon) : (x.failLats cs spread m s).2.Canon := by
  unfold Env.failLats
  split
  rename_i e1
  refine .of_eqSndSnd ?_ e1
  refine .foldlSndSnd h ?_
  rintro ⟨_, _, s2⟩ a (h2 : s2.Canon)
  dsimp only
  split
  · split
    · exact h2.touchedLoad
    · exact h2
  · exact h2

theorem Canon.ldkBody {x} (h : s.Canon) : (ldkBody x s).s.Canon := by
  unfold Machine.ldkBody
  extract_lets -merge +onlyGivenNames v
  split
  rename_i s1 e1
  have h1 : s1.Canon := .of_eqSndSnd h.checks e1
  extract_lets -merge +onlyGivenNames ps s2
  have h2 : s2.Canon := h1.sluiceAll
  split
  rename_i s3 e3
  have h3 : s3.Canon := .of_eqSndSndSnd h2.loads e3
  extract_lets -merge +onlyGivenNames bad
  split
  rename_i s4 e4
  have h4 : s4.Canon := .of_eqSnd h3.failLats e4
  exact h4.putVals.holdLanes

theorem Canon.execLdk {h' o} (h : s.Canon) : NextCanon (execLdk h' o s) := h.issueWord fun _ _ h => h.ldkBody

theorem Canon.stopRun {as stop} {x : Env} (h : s.Canon) : (x.stopRun as stop s).2.Canon := by
  unfold Env.stopRun
  split
  · exact h
  · extract_lets s1
    have h1 : s1.Canon := h.modLanes
    split
    · exact h1
    · exact h1.waitLanes
    · exact h1

theorem Canon.stcBody {x} (h : s.Canon) : (stcBody x s).s.Canon := by
  unfold Machine.stcBody
  extract_lets v as
  split
  rename_i s1 e1
  have h1 : s1.Canon := .of_eqSndSnd h.checks e1
  split
  extract_lets ps s2
  have h2 : s2.Canon := h1.sluiceAll.stores
  split
  rename_i e3
  exact .of_eqSnd h2.stopRun e3

theorem Canon.execStc {h' o} (h : s.Canon) : NextCanon (execStc h' o s) := h.issueWord fun _ _ h => h.stcBody

theorem Canon.ldeBody {x} (h : s.Canon) : (ldeBody x s).s.Canon := by
  unfold Machine.ldeBody
  extract_lets v as
  split
  rename_i s1 e1
  have h1 : s1.Canon := .of_eqSndSnd h.checks e1
  split
  extract_lets ps s2
  have h2 : s2.Canon := h1.sluiceAll
  split
  rename_i s3 e3
  have h3 : s3.Canon := .of_eqSndSndSnd h2.loads e3
  extract_lets s4
  have h4 : s4.Canon := h3.putVals
  split
  rename_i e5
  exact .of_eqSnd h4.stopRun e5

theorem Canon.execLde {h' o} (h : s.Canon) : NextCanon (execLde h' o s) := h.issueWord fun _ _ h => h.ldeBody

theorem Canon.kldBody {x} (h : s.Canon) : (kldBody x s).s.Canon := by
  unfold Machine.kldBody
  extract_lets v l
  split
  rename_i s1 e1
  have h1 : s1.Canon := .of_eqSndSnd h.checks e1
  split
  · extract_lets s2
    have h2 : s2.Canon := h1.sluiceAll
    split
    rename_i s3 e3
    have h3 : s3.Canon := .of_eqSndSndSnd h2.envLoad e3
    extract_lets lat s4
    have h4 : s4.Canon := h3.noteAccess.noteFlight
    split
    · exact h4.writeK.ok
    · exact h4.ok
  · exact h1
  · exact h1.waitLanes.all
  · exact h1.ok

theorem Canon.execKld {h' o} (h : s.Canon) : NextCanon (execKld h' o s) := h.issueWord fun _ _ h => h.kldBody

theorem Canon.prefPlace {d g evict w a} (h : s.Canon) : (s.prefPlace d g evict w a).Canon := by
  unfold State.prefPlace
  split
  · extract_lets secs s1
    have h1 : s1.Canon := .ite h.sluice h
    split
    · rename_i s2 e2
      have h2 : s2.Canon := .of_eqSndSnd h1.readErrors e2
      exact h2.bump
    · rename_i s2 e2
      have h2 : s2.Canon := .of_eqSndSnd h1.readErrors e2
      exact h2.loadLine
  · exact .loadBytes (.touchLoad (.ite h.sluice h))
  · exact h
  · exact h.bump

theorem Canon.prefLine {x va memo} (h : s.Canon) : (s.prefLine x va memo).2.Canon := by
  unfold State.prefLine
  split
  · rename_i s1 e1
    have h1 : s1.Canon := .of_eqSndSndSnd h.look e1
    exact h1.modDie
  · rename_i s1 _ e1
    have h1 : s1.Canon := .of_eqSndSndSnd h.look e1
    exact h1.prefPlace

theorem Canon.execPrefd {h' o} (h : s.Canon) : NextCanon (execPrefd h' o s) :=
  h.issueWord fun _ _ h => Canon.foldlSnd (b := ([], _)) h fun _ _ h => h.prefLine

theorem Canon.cctlLines {x} (h : s.Canon) : (s.cctlLines x).2.2.Canon := by
  unfold State.cctlLines
  split
  rename_i e1
  refine .of_eqSndSndSndSnd ?_ e1
  refine .foldlSndSndSndSnd h ?_
  rintro ⟨_, _, _, _, s2⟩ a (h2 : s2.Canon)
  dsimp only
  split <;> rename_i e3 <;> exact .of_eqSndSndSnd h2.look e3

theorem Canon.icinvLine {line} (h : s.Canon) : (icinvLine line s).2.Canon := h.upd.snd

theorem Canon.rdcinvLine {d line} (h : s.Canon) : (rdcinvLine d line s).2.Canon := by
  unfold Machine.rdcinvLine
  split
  · extract_lets s1
    have h1 : s1.Canon := h.modDie
    split
    · exact h1.after
    · exact h1
  · exact h

theorem Canon.dropSharers {h' line} (h : s.Canon) : (s.dropSharers h' line).2.Canon := .snd (.modDie (.foldl h fun _ _ h => h.after))

theorem Canon.wbLine {inv d line} (h : s.Canon) : (wbLine inv d line s).2.Canon := by
  unfold Machine.wbLine
  split
  · exact h
  · split
    rename_i s1 _ e1
    have h1 : s1.Canon := .of_eqFst h.bankWait e1
    extract_lets l dirty lat
    split
    · exact .snd (.lostLine (.modDie (.modDie (.foldl h1 fun _ _ h => h.after))))
    · exact h1.modDie

theorem Canon.lineAct {d op line} (h : s.Canon) : (s.lineAct d op line).2.Canon := by
  unfold State.lineAct
  split
  · exact h.icinvLine
  · exact h.rdcinvLine
  · exact h.wbLine
  · exact h.wbLine

theorem Canon.runLines {a r} (h : s.Canon) : (s.runLines a r).Canon := by
  unfold State.runLines
  split
  · exact h.at_
  · split
    · exact h
    · split
      rename_i s1 e1
      have h1 : s1.Canon := .of_eqSnd h.lineAct e1
      exact .ite h1.modLanes h1.after

theorem Canon.cctlBody {op x} (h : s.Canon) : (cctlBody op x s).s.Canon := by
  unfold Machine.cctlBody
  split
  · rename_i s1 e1
    have h1 : s1.Canon := .of_eqSndSnd h.cctlLines e1
    exact h1.waitLanes.all
  · rename_i s1 e1
    have h1 : s1.Canon := .of_eqSndSnd h.cctlLines e1
    exact h1.ok
  · rename_i s1 _ e1
    have h1 : s1.Canon := .of_eqSndSnd h.cctlLines e1
    extract_lets r a
    split
    rename_i s2 e2
    have h2 : s2.Canon := by
      refine .of_eqSnd ?_ e2
      split
      · exact h1.sluice
      · exact h1
    exact .ite h2.at_ h2

theorem Canon.execCctlIcinv {h' o} (h : s.Canon) : NextCanon (execCctlIcinv h' o s) := h.issueWord fun _ _ h => h.cctlBody

theorem Canon.execCctlRdcinv {h' o} (h : s.Canon) : NextCanon (execCctlRdcinv h' o s) := h.issueWord fun _ _ h => h.cctlBody

theorem Canon.execCctlWb {h' o} (h : s.Canon) : NextCanon (execCctlWb h' o s) := h.issueWord fun _ _ h => h.cctlBody

theorem Canon.execCctlWbinv {h' o} (h : s.Canon) : NextCanon (execCctlWbinv h' o s) := h.issueWord fun _ _ h => h.cctlBody

/-! ### Class 9: atomics, ordered additions and fences (R253 to R259) -/

theorem Canon.atomWait {p dl} (h : s.Canon) : (s.atomWait p dl).2.Canon := h.upd.snd

theorem Canon.atomics {cs extra win f} {x : Env} (h : s.Canon) : (x.atomics cs extra win f s).2.2.Canon := by
  unfold Env.atomics
  split
  rename_i s1 e1
  have h1 : s1.Canon := by
    refine .of_eqSndSndSnd ?_ e1
    refine .foldlSndSndSnd h ?_
    rintro ⟨_, _, _, s2⟩ a (h2 : s2.Canon)
    dsimp only
    exact h2.atomic.atomWait
  exact h1.noteAccess.noteFlight

theorem Canon.atomBody {ret f x} (h : s.Canon) : (atomBody ret f x s).s.Canon := by
  unfold Machine.atomBody
  extract_lets v
  split
  rename_i s1 e1
  have h1 : s1.Canon := .of_eqSndSnd h.checks e1
  extract_lets ps s2
  have h2 : s2.Canon := h1.sluiceAll
  split
  rename_i s3 e3
  have h3 : s3.Canon := .of_eqSndSnd h2.atomics e3
  exact .holdLanes (.ite h3.putVals h3)

theorem Canon.execAtom {h' o} (h : s.Canon) : NextCanon (execAtom h' o s) := h.issueWord fun _ _ h => h.atomBody

theorem Canon.execRed {h' o} (h : s.Canon) : NextCanon (execRed h' o s) := h.issueWord fun _ _ h => h.atomBody

theorem Canon.execCas {h' o} (h : s.Canon) : NextCanon (execCas h' o s) := h.issueWord fun _ _ h => h.atomBody

theorem Canon.ordOne {tm l h' va pa rcb value} (h : s.Canon) (e : s.ordOne tm l h' va pa rcb value = some t) : t.Canon := by
  unfold State.ordOne at e
  split at e <;> cases e
  exact h.modDie

theorem Canon.ordLane {cs l pa rcb lat} {x : Env} {r : Res} (hr : r.s.Canon) : (x.ordLane cs l pa rcb lat r).s.Canon := by
  unfold Env.ordLane
  split
  · exact hr
  · extract_lets va v
    split
    · rename_i s1 e1
      have h1 : s1.Canon := hr.ordOne e1
      exact h1.noteAccess
    · exact hr.bump.after.waitLanes

theorem Canon.ordaddBody {x} (h : s.Canon) : (Machine.ordaddBody x s).s.Canon := by
  unfold Machine.ordaddBody
  split
  extract_lets good bad
  split
  rename_i s1 e1
  have h1 : s1.Canon := of_eqSndSnd h.checks e1
  refine foldl_keeps (P := fun acc : Res × List (Nat × Nat) => acc.1.s.Canon) h1.sluiceAll fun acc c h => ?_
  dsimp only
  split
  · exact h
  · exact h.waitLanes
  · split
    · exact Canon.ordLane h
    · exact Canon.ordLane h.bankWait
  · exact h

theorem Canon.execOrdadd {h' o} (h : s.Canon) : NextCanon (execOrdadd h' o s) := h.issueWord fun _ _ h => h.ordaddBody

theorem Canon.ordSpace {h'} (h : s.Canon) : (s.ordSpace h').Canon := by
  unfold State.ordSpace
  refine .foldl h fun s1 a h => ?_
  refine .foldl h fun s2 a h => ?_
  split
  · exact h
  · split
    · split
      · rename_i s3 e3
        have h3 : s3.Canon := .of_eqSndSnd h.locate e3
        split
        · exact h3.wakeLanes
        · split
          · rename_i s4 e4
            have h4 : s4.Canon := h3.ordOne e4
            exact h4.passLanes
          · exact h3
      · rename_i s3 _ e3
        have h3 : s3.Canon := .of_eqSndSnd h.locate e3
        exact h3.wakeLanes
    · exact h

theorem Canon.applyOrds {d p} (h : s.Canon) : (s.applyOrds d p).Canon :=
  have h1 := h.foldl fun _ _ h => h.touchL2.devPutVal
  .ite h1.modDie h1.modDie.ordSpace

theorem Canon.applyTargets {ctx rcb t} (h : s.Canon) : (s.applyTargets ctx rcb t).Canon := .ite h (.foldl h fun _ _ h => h.applyOrds)

theorem Canon.flushordBody {x} (h : s.Canon) : (flushordBody x s).s.Canon := by
  unfold Machine.flushordBody
  dsimp only
  split
  · exact h
  · split
    · exact h
    · exact h.applyTargets

theorem Canon.execFlushord {h' o} (h : s.Canon) : NextCanon (execFlushord h' o s) := h.issueWord fun _ _ h => h.flushordBody

theorem Canon.fenceBody {x} (h : s.Canon) : (fenceBody x s).s.Canon :=
  have h1 := Canon.ite h.dropAperture h
  have h2 := Canon.ite h1.modLanes h1
  .ite h2.modLanes h2

theorem Canon.execFence {h' o} (h : s.Canon) : NextCanon (execFence h' o s) := h.issueWord fun _ _ h => h.fenceBody

/-! ### Class 13, operations 0 to 10, and their events: barriers and timeline counters (R347 to R361) -/

theorem Canon.atBar {r f} (h : s.Canon) : (s.atBar r f).Canon := h.modBar.atEnd

theorem Canon.tryArrive {t b} (h : s.Canon) : (s.tryArrive t b).Canon := by
  unfold State.tryArrive
  split
  · exact h
  · exact .ite h.atBar.modTeam.wakeLanes h

theorem Canon.tryArriveAll {t} (h : s.Canon) : (s.tryArriveAll t).Canon := h.foldl fun _ _ h => h.tryArrive

theorem Canon.answer {gen q} (h : s.Canon) : (s.answer gen q).Canon := .ite (.modLanes (.ite h h.modLanes)) (.ite h h.modLanes)

theorem Canon.satisfyBar {r} (h : s.Canon) : (s.satisfyBar r).Canon := h.wakeIn.after

theorem Canon.barrierPhaseAdvance {r} (h : s.Canon) : (barrierPhaseAdvance r s).Canon := by
  unfold Machine.barrierPhaseAdvance
  split
  · exact h
  · exact .ite (.satisfyBar (.bump (.modBar (.foldl h fun _ _ h => h.answer)))) (.modBar (.foldl h fun _ _ h => h.answer))

theorem Canon.barAcquire {r t m} (h : s.Canon) : (s.barAcquire r t m).Canon := h.lanesDrop.modLanes

theorem Canon.barrierWaiterRelease {r} (h : s.Canon) : (barrierWaiterRelease r s).Canon := h.foldl fun _ _ h => h.barAcquire.passLanes

theorem Canon.rewaitBar {t b} (h : s.Canon) : (s.rewaitBar t b).Canon := by
  unfold State.rewaitBar
  split
  · exact h.satisfyBar
  · exact h

theorem Canon.execBarrierPhaseAdvance (h : s.Canon) : NextCanon (execBarrierPhaseAdvance s) := by
  unfold Machine.execBarrierPhaseAdvance
  split
  · exact .next h.upd.barrierPhaseAdvance
  · exact .fault

theorem Canon.execBarrierWaiterRelease (h : s.Canon) : NextCanon (execBarrierWaiterRelease s) := by
  unfold Machine.execBarrierWaiterRelease
  split
  · exact .next h.upd.barrierWaiterRelease
  · exact .fault

theorem Canon.barTrap {kind d1} {x : Env} (h : s.Canon) : (x.barTrap kind d1 s).s.Canon := h.all

theorem Canon.barScoped {x : Env} {f : BarRef → Res} (h : s.Canon) (hf : ∀ y0, (f y0).s.Canon) : (x.barScoped s f).s.Canon := by
  unfold Env.barScoped
  extract_lets r
  split
  · exact h.barTrap
  · exact (hf _)

theorem Canon.arrive {m sync r} {x : Env} (h : s.Canon) : (x.arrive m sync r s).Canon :=
  have h1 := (h.foldlSnd fun _ _ h => h.modDie.snd).modTeam
  .tryArrive (.ite h1 h1.atBar)

theorem Canon.barArrBody {x} (h : s.Canon) : (barArrBody x s).s.Canon := h.barScoped (fun _ => .ite h.waitLanes h.waitLanes.arrive)

theorem Canon.execBarArr {h' o} (h : s.Canon) : NextCanon (execBarArr h' o s) := h.issueWord fun _ _ h => h.barArrBody

theorem Canon.barSyncBody {x} (h : s.Canon) : (barSyncBody x s).s.Canon :=
  h.barScoped (fun _ => .all (.ite h.waitLanes.waitLanes h.waitLanes.waitLanes.arrive))

theorem Canon.execBarSync {h' o} (h : s.Canon) : NextCanon (execBarSync h' o s) := h.issueWord fun _ _ h => h.barSyncBody

theorem Canon.barWaitBody {x} (h : s.Canon) : (barWaitBody x s).s.Canon := h.barScoped (fun _ => h.barAcquire.modLanes)

theorem Canon.execBarWait {h' o} (h : s.Canon) : NextCanon (execBarWait h' o s) := h.issueWord fun _ _ h => h.barWaitBody

theorem Canon.barBytesBody {x} (h : s.Canon) : (barBytesBody x s).s.Canon := by
  unfold Machine.barBytesBody
  refine .barScoped h (fun _ => ?_)
  dsimp only
  split
  · exact h.barTrap
  · exact h.release.atBar.ok

theorem Canon.execBarBytes {h' o} (h : s.Canon) : NextCanon (execBarBytes h' o s) := h.issueWord fun _ _ h => h.barBytesBody

theorem Canon.barMemBody {x} (h : s.Canon) : (barMemBody x s).s.Canon := by
  unfold Machine.barMemBody
  refine .barScoped h (fun _ => ?_)
  dsimp only
  split
  · exact h.barTrap
  · exact h.atBar.ok

theorem Canon.execBarMem {h' o} (h : s.Canon) : NextCanon (execBarMem h' o s) := h.issueWord fun _ _ h => h.barMemBody

theorem Canon.barMemBindBody {x} (h : s.Canon) : (barMemBindBody x s).s.Canon := by
  unfold Machine.barMemBindBody
  extract_lets n own
  split
  · exact h.barTrap
  · split
    · exact h.barTrap
    · exact .ok (.upd (.ite h.upd h))

theorem Canon.execBarMemBind {h' o} (h : s.Canon) : NextCanon (execBarMemBind h' o s) := h.issueWord fun _ _ h => h.barMemBindBody

theorem Canon.barMemUnbindBody {x} (h : s.Canon) : (barMemUnbindBody x s).s.Canon := by
  unfold Machine.barMemUnbindBody
  extract_lets own
  split
  · exact h.barTrap
  · exact h.upd.ok

theorem Canon.execBarMemUnbind {h' o} (h : s.Canon) : NextCanon (execBarMemUnbind h' o s) := h.issueWord fun _ _ h => h.barMemUnbindBody

theorem Canon.tlSigComplete {g tc n stamp after} (h : s.Canon) : (tlSigComplete g tc n stamp after s).Canon :=
  .ite h.after h.modGroup.wakeIn.after

theorem Canon.timelineWaiterWake {g tc} (h : s.Canon) : (timelineWaiterWake g tc s).Canon := h.foldl fun _ _ h => h.passLanes

theorem Canon.execTlSigComplete (h : s.Canon) : NextCanon (execTlSigComplete s) := by
  unfold Machine.execTlSigComplete
  split
  · exact .next h.upd.tlSigComplete
  · exact .fault

theorem Canon.execTimelineWaiterWake (h : s.Canon) : NextCanon (execTimelineWaiterWake s) := by
  unfold Machine.execTimelineWaiterWake
  split
  · exact .next h.upd.timelineWaiterWake
  · exact .fault

theorem Canon.issueNumber {g tc} (h : s.Canon) : (s.issueNumber g tc).2.Canon := h.modGroup.snd

theorem Canon.tlSigBody {x} (h : s.Canon) : (tlSigBody x s).s.Canon :=
  have h1 := (h.modGroup.snd.foldlSnd fun _ _ h => h.modDie.snd).after
  .ok (.ite h1 h1.putOne)

theorem Canon.execTlSig {h' o} (h : s.Canon) : NextCanon (execTlSig h' o s) := h.issueWord fun _ _ h => h.tlSigBody

theorem Canon.tlWaitBody {x} (h : s.Canon) : (tlWaitBody x s).s.Canon := h.modLanes.modLanes

theorem Canon.execTlWait {h' o} (h : s.Canon) : NextCanon (execTlWait h' o s) := h.issueWord fun _ _ h => h.tlWaitBody

theorem Canon.tlRdBody {x} (h : s.Canon) : (tlRdBody x s).s.Canon := .ok (.putOne (.ite h h.modLanes))

theorem Canon.execTlRd {h' o} (h : s.Canon) : NextCanon (execTlRd h' o s) := h.issueWord fun _ _ h => h.tlRdBody

/-! ### Class 13, operations 16 to 21: logical times, Tideline counts and frontiers (R363 to R377, R383 to R386) -/

theorem Canon.applyBatch {d b} (h : s.Canon) : (s.applyBatch d b).Canon := h.modDie.bump.after

theorem Canon.retryHeld {d n} (h : s.Canon) : (s.retryHeld d n).Canon := by
  induction n generalizing s with
  | zero => exact h
  | succ n ih =>
    rw [State.retryHeld]
    split
    · exact h
    · exact ih h.modDie.applyBatch

theorem Canon.holdBatch {d b} (h : s.Canon) : (s.holdBatch d b).Canon := h.modDie.after

theorem Canon.retryNodes (h : s.Canon) : (s.retryNodes).Canon := h.foldl fun _ _ h => h.retryHeld

theorem Canon.tidelineBatchApply {d b} (h : s.Canon) : (tidelineBatchApply d b s).Canon := .ite h.holdBatch h.applyBatch.retryHeld

theorem Canon.frontierRecompute {d} (h : s.Canon) : (frontierRecompute d s).Canon :=
  h.modDie.wakeIn.foldl fun _ _ h => h.foldl fun _ _ h => h.after

theorem Canon.frontierWaiterRelease {t l} (h : s.Canon) : (frontierWaiterRelease t l s).Canon := by
  unfold Machine.frontierWaiterRelease
  split
  · exact h
  · exact h.foldl fun _ _ h => h.lanesDrop.passLanes

theorem Canon.tidelineHeldTimeout {d} (h : s.Canon) : (tidelineHeldTimeout d s).Canon := h.foldl fun _ _ h => h.unitRec

theorem Canon.execTidelineBatchApply (h : s.Canon) : NextCanon (execTidelineBatchApply s) := by
  unfold Machine.execTidelineBatchApply
  split
  · exact .ite (.next h.upd.tidelineBatchApply) .fault
  · exact .fault

theorem Canon.execFrontierRecompute (h : s.Canon) : NextCanon (execFrontierRecompute s) := by
  unfold Machine.execFrontierRecompute
  split
  · exact .ite (.next h.upd.frontierRecompute) .fault
  · exact .fault

theorem Canon.execFrontierWaiterRelease (h : s.Canon) : NextCanon (execFrontierWaiterRelease s) := by
  unfold Machine.execFrontierWaiterRelease
  split
  · exact .next h.upd.frontierWaiterRelease
  · exact .fault

theorem Canon.execTidelineHeldTimeout (h : s.Canon) : NextCanon (execTidelineHeldTimeout s) := by
  unfold Machine.execTidelineHeldTimeout
  split
  · exact .ite (.next h.upd.tidelineHeldTimeout) .fault
  · exact .fault

theorem Canon.sendBatch {n d b} (h : s.Canon) : (s.sendBatch n d b).Canon := h.upd

theorem Canon.formBatchAt {formed d plan incs decs stamp key} (h : s.Canon) : (s.formBatchAt formed d plan incs decs stamp key).Canon :=
  .foldl (.foldl h fun _ _ h => h.sendBatch) fun _ _ h => h.postMsg

theorem Canon.formBatch {d plan incs decs stamp key} (h : s.Canon) : (s.formBatch d plan incs decs stamp key).Canon := h.formBatchAt

theorem Canon.modStage {ctx rcb st f} (h : s.Canon) : (s.modStage ctx rcb st f).Canon := h.modPlan

theorem Canon.ltSetBody {x} (h : s.Canon) : (ltSetBody x s).s.Canon := h.modLanes

theorem Canon.execLtSet {h' o} (h : s.Canon) : NextCanon (execLtSet h' o s) := h.issueWord fun _ _ h => h.ltSetBody

theorem Canon.ltAdvBody {x} (h : s.Canon) : (ltAdvBody x s).s.Canon := h.modLanes

theorem Canon.execLtAdv {h' o} (h : s.Canon) : NextCanon (execLtAdv h' o s) := h.issueWord fun _ _ h => h.ltAdvBody

theorem Canon.release0 {x : Env} (h : s.Canon) : (x.release0 s).2.Canon := h.release

theorem Canon.ltHoldBody {x} (h : s.Canon) : (ltHoldBody x s).s.Canon := by
  unfold Machine.ltHoldBody
  extract_lets t g cur
  split
  · exact h.all
  · split
    · exact h.all
    · split
      · exact h.all
      · exact h.modGroup.formBatch.ok

theorem Canon.execLtHold {h' o} (h : s.Canon) : NextCanon (execLtHold h' o s) := h.issueWord fun _ _ h => h.ltHoldBody

theorem Canon.ltHoldRootBody {x} (h : s.Canon) : (ltHoldRootBody x s).s.Canon := by
  unfold Machine.ltHoldRootBody
  extract_lets t g
  split
  · exact h.all
  · split
    · exact h.all
    · split
      · exact h.all
      · exact h.modDie.modStage.formBatch.ok

theorem Canon.execLtHoldRoot {h' o} (h : s.Canon) : NextCanon (execLtHoldRoot h' o s) := h.issueWord fun _ _ h => h.ltHoldRootBody

theorem Canon.ltDropBody {x} (h : s.Canon) : (ltDropBody x s).s.Canon := by
  unfold Machine.ltDropBody
  extract_lets t g
  split
  · exact h.all
  · exact h.modDie.modGroup.formBatch.ok

theorem Canon.execLtDrop {h' o} (h : s.Canon) : NextCanon (execLtDrop h' o s) := h.issueWord fun _ _ h => h.ltDropBody

theorem Canon.ltDropRootBody {x} (h : s.Canon) : (ltDropRootBody x s).s.Canon := by
  unfold Machine.ltDropRootBody
  extract_lets g
  split
  · exact h.all
  · exact h.modDie.modStage.formBatch.ok

theorem Canon.execLtDropRoot {h' o} (h : s.Canon) : NextCanon (execLtDropRoot h' o s) := h.issueWord fun _ _ h => h.ltDropRootBody

theorem Canon.ltFrontBody {x} (h : s.Canon) : (ltFrontBody x s).s.Canon := by
  unfold Machine.ltFrontBody
  split
  · exact h.all
  · exact h.putOne.ok

theorem Canon.execLtFront {h' o} (h : s.Canon) : NextCanon (execLtFront h' o s) := h.issueWord fun _ _ h => h.ltFrontBody

theorem Canon.ltAwaitBody {x} (h : s.Canon) : (ltAwaitBody x s).s.Canon := by
  unfold Machine.ltAwaitBody
  split
  · exact h.all
  · exact h.lanesDrop.modLanes.modLanes

theorem Canon.execLtAwait {h' o} (h : s.Canon) : NextCanon (execLtAwait h' o s) := h.issueWord fun _ _ h => h.ltAwaitBody

/-! ### Tensor slots and layout records: their checks, element addresses and format conversion (R34 to R41, R275) -/

theorem Canon.readSlot {d ctx n} (h : s.Canon) : (s.readSlot d ctx n).2.Canon := by
  unfold State.readSlot
  extract_lets base
  split
  · rename_i e1
    exact .of_eqSnd h.ctxWords e1
  · rename_i s1 e1
    have h1 : s1.Canon := .of_eqSnd h.ctxWords e1
    split
    · exact h1
    · split
      · exact h1
      · split
        · exact h1
        · split
          · rename_i e2
            exact .of_eqSnd h1.ctxWords e2
          · rename_i s2 e2
            have h2 : s2.Canon := .of_eqSnd h1.ctxWords e2
            split <;> exact h2

/-! ### Class 10 and copy channels: handles, copies and their events (R260 to R282) -/

theorem Canon.modHandle {g n f} (h : s.Canon) : (s.modHandle g n f).Canon := h.modGroup

theorem Canon.shadowLoad {g n} (h : s.Canon) : (s.shadowLoad g n).Canon := .ite (.ite h.modCore.wakeWhere h) h

theorem Canon.handleChanged {g n} (h : s.Canon) : (s.handleChanged g n).Canon := h.shadowLoad.wakeIn.after

theorem Canon.setHandle {g n f} (h : s.Canon) : (s.setHandle g n f).Canon := h.modHandle.handleChanged

theorem Canon.handleWaiterWake {g n} (h : s.Canon) : (handleWaiterWake g n s).Canon := h.foldl fun _ _ h => h.wakeLanes

theorem Canon.deliveryCount {g n serial bytes stamp} (h : s.Canon) : (deliveryCount g n serial bytes stamp s).Canon :=
  .ite h (.ite h.setHandle.atBar h.setHandle)

theorem Canon.enqueue {d core ix x} (h : s.Canon) : (s.enqueue d core ix x).Canon := h.modChan.after

theorem Canon.vaLat {d core g evict va dl who} (h : s.Canon) : (s.vaLat d core g evict va dl who).2.Canon := by
  unfold State.vaLat
  split
  · rename_i s1 e1
    have h1 : s1.Canon := .of_eqSndSnd h.locate e1
    split
    rename_i s2 e2
    have h2 : s2.Canon := .of_eqSnd h1.touchLoad e2
    extract_lets e s3
    have h3 : s3.Canon := by
      unfold s3
      split
      · exact h2.noteOver
      · exact h2
    exact h3
  · rename_i e1
    exact .of_eqSndSnd h.locate e1

theorem Canon.siteLat {d core g evict src who} (h : s.Canon) : (s.siteLat d core g evict src who).2.Canon := by
  unfold State.siteLat
  split
  · exact h.vaLat
  · split
    rename_i s1 e1
    have h1 : s1.Canon := .of_eqSnd h.vaLat e1
    split
    · rename_i s2 e2
      have h2 : s2.Canon := .of_eqSndSnd h1.locate e2
      split
      · split
        rename_i e3
        exact .of_eqSnd h2.vaLat e3
      · exact h2
    · rename_i e2
      exact .of_eqSndSnd h1.locate e2
  · exact h
  · exact h.touchLoad
  · exact h
  · exact h
  · exact h
  · exact h

theorem Canon.sitesLat {d core ix x k} (h : s.Canon) : (s.sitesLat d core ix x k).2.Canon := by
  unfold State.sitesLat
  refine .foldlSnd h ?_
  rintro ⟨_, s1⟩ a (h1 : s1.Canon)
  dsimp only
  exact h1.siteLat

theorem Canon.pipeDone {p slot sp} (h : s.Canon) : (s.pipeDone p slot sp).Canon := by
  unfold State.pipeDone
  split
  · exact h
  · split
    · exact h
    · exact h.modPipe.foldl fun _ _ h => h.after

theorem Canon.slotsDone {d core ix} (h : s.Canon) : (s.slotsDone d core ix).Canon := by
  unfold State.slotsDone
  refine .foldl h fun s1 a h => ?_
  split
  · exact h.pipeDone
  · exact h

theorem Canon.elemRead {d core g src size} (h : s.Canon) : (s.elemRead d core g src size).2.Canon := by
  unfold State.elemRead
  split
  · exact h
  · split
    rename_i e1
    exact .of_eqSnd h.placeBytes e1
  · exact h
  · exact h
  · exact h.upd
  · exact h
  · exact h
  · split
    · rename_i e1
      exact .of_eqSndSnd h.unitLocate e1
    · rename_i s1 e1
      have h1 : s1.Canon := .of_eqSndSnd h.unitLocate e1
      split
      · extract_lets secs
        split
        · exact h1.meetError
        · exact .snd (.foldl h1 fun _ _ h => h.meetError)
      · split
        rename_i e2
        exact .of_eqSnd h1.placeBytes e2

theorem Canon.elemWrite {d core g dst bs m} (h : s.Canon) : (s.elemWrite d core g dst bs m).2.2.2.Canon := by
  unfold State.elemWrite
  extract_lets put
  split
  · exact h.placePut.writeRels
  · unfold put
    split
    rename_i s1 e1
    have h1 : s1.Canon := .of_eqSndSnd h.touchedStore e1
    exact h1.modPipe.writeRels.sndSndSnd
  · exact h
  · exact h
  · exact h
  · exact h
  · exact h
  · split
    · rename_i e1
      exact .of_eqSndSnd h.unitLocate e1
    · rename_i s1 e1
      have h1 : s1.Canon := .of_eqSndSnd h.unitLocate e1
      unfold put
      split
      rename_i s2 e2
      have h2 : s2.Canon := .of_eqSndSnd h1.touchedStore e2
      split
      rename_i s3 e3
      have h3 : s3.Canon := .of_eqSnd h2.placePut e3
      exact h3.writeRels

theorem Canon.resolve {d core g x} (h : s.Canon) : (s.resolve d core g x).2.Canon := by
  unfold State.resolve
  split
  · split <;> rename_i e1 <;> exact .of_eqSnd h.elemRead e1
  · exact h
  · exact h

theorem Canon.resolveAll {d core g es} (h : s.Canon) : (s.resolveAll d core g es).2.Canon := by
  induction es generalizing s with
  | nil => exact h
  | cons e es ih =>
    rw [State.resolveAll]
    split
    · rename_i s1 e1
      exact .of_eqSnd h.resolve e1
    · rename_i s1 e1
      have h1 : s1.Canon := .of_eqSnd h.resolve e1
      split
      · rename_i s2 e2
        exact .of_eqSnd h1.resolve e2
      · rename_i s2 e2
        have h2 : s2.Canon := .of_eqSnd h1.resolve e2
        split <;> rename_i s3 e3 <;> exact .of_eqSnd (ih h2) e3

theorem Canon.elemMove {d core g e m} (h : s.Canon) : (s.elemMove d core g e m).2.2.2.Canon := by
  unfold State.elemMove
  split
  · rename_i e1
    exact .of_eqSnd h.resolve e1
  · rename_i e1
    exact .of_eqSnd h.resolve e1
  · rename_i s1 e1
    have h1 : s1.Canon := .of_eqSnd h.resolve e1
    split
    · rename_i e2
      exact .of_eqSnd h1.elemRead e2
    · rename_i e2
      exact .of_eqSnd h1.elemRead e2
    · rename_i s2 e2
      have h2 : s2.Canon := .of_eqSnd h1.elemRead e2
      split
      · rename_i e3
        exact .of_eqSnd h2.resolve e3
      · rename_i e3
        exact .of_eqSnd h2.resolve e3
      · rename_i s3 e3
        have h3 : s3.Canon := .of_eqSnd h2.resolve e3
        extract_lets bs
        split <;> rename_i e4 <;> exact .of_eqSndSndSnd h3.elemWrite e4

theorem Canon.moveAll {d core g es r} (h : s.Canon) : (s.moveAll d core g es r).2.Canon := by
  induction es generalizing s r with
  | nil => exact h
  | cons e es ih =>
    rw [State.moveAll]
    split
    · exact ih h
    · split
      · rename_i s1 e1
        exact .of_eqSndSndSnd h.elemMove e1
      · rename_i s1 e1
        exact ih (.of_eqSndSndSnd h.elemMove e1)

theorem Canon.keepOld {d core old} (h : s.Canon) : (s.keepOld d core old).Canon := .ite h h.modCore

theorem Canon.dropOld {d core old} (h : s.Canon) : (s.dropOld d core old).Canon := .ite h h.modCore

theorem Canon.modCopied {x h' f} (h : s.Canon) : (s.modCopied x h' f).Canon := .ite h.setHandle h

theorem Canon.chanVal {d core g va n} (h : s.Canon) : (s.chanVal d core g va n).2.Canon := by
  unfold State.chanVal
  split <;> rename_i e1 <;> exact .of_eqSnd h.elemRead e1

theorem Canon.chanVals {d core g n vas} (h : s.Canon) : (s.chanVals d core g n vas).2.Canon := by
  induction vas generalizing s with
  | nil => exact h
  | cons va vas ih =>
    rw [State.chanVals]
    split
    · rename_i s1 e1
      exact .of_eqSnd h.chanVal e1
    · rename_i s1 e1
      exact .of_eqSnd h.chanVal e1
    · rename_i s1 e1
      have h1 : s1.Canon := .of_eqSnd h.chanVal e1
      split
      · rename_i s2 e2
        exact .of_eqSnd (ih h1) e2
      · exact ih h1

theorem Canon.csrEnd {x hv err} (h : s.Canon) : (s.csrEnd x hv err).Canon := h.modCopied.modCopied

theorem Canon.csrWords {d core x desc hv} (h : s.Canon) : (s.csrWords d core x desc hv).2.Canon := by
  unfold State.csrWords
  split
  · rename_i e1
    exact .snd (.of_eqSnd h.chanVals e1)
  · rename_i s1 e1
    have h1 : s1.Canon := .of_eqSnd h.chanVals e1
    exact h1.csrEnd.snd
  · rename_i s1 e1
    have h1 : s1.Canon := .of_eqSnd h.chanVals e1
    extract_lets w vs vsize ok
    split
    · exact h1.snd
    · exact h1.csrEnd.snd

theorem Canon.csrElems {d core x first n hv} (h : s.Canon) : (s.csrElems d core x first n hv).2.Canon := by
  unfold State.csrElems
  extract_lets w
  split
  · rename_i e1
    exact .snd (.of_eqSnd h.chanVals e1)
  · rename_i s1 e1
    have h1 : s1.Canon := .of_eqSnd h.chanVals e1
    exact h1.csrEnd.snd
  · rename_i s1 e1
    have h1 : s1.Canon := .of_eqSnd h.chanVals e1
    extract_lets lo hi
    split
    · exact h1.csrEnd.snd
    · exact h1.modCopied.modCopied.snd

theorem Canon.outDone {x} (h : s.Canon) : (s.outDone x).Canon := h.modCopied

theorem Canon.prefetchFault {d core x ix} (h : s.Canon) : (s.prefetchFault d core x ix).Canon := by
  unfold State.prefetchFault
  extract_lets -merge +onlyGivenNames s1
  have h1 : s1.Canon := h.modCopied
  split
  · extract_lets -merge +onlyGivenNames s2 s3
    have h2 : s2.Canon := h1.modCore
    have h3 : s3.Canon := by
      unfold s3
      split
      · exact h2.modCtx
      · exact h2
    exact h3.wakeWhere
  · exact h1

theorem Canon.putDesc {d core ix i x} (h : s.Canon) : (s.putDesc d core ix i x).Canon := h.modChan

theorem Canon.frameState {g f serial st} (h : s.Canon) : (s.frameState g f serial st).Canon := h.modGroup

theorem Canon.stopCopy {d core ix i x check addr} (h : s.Canon) : (s.stopCopy d core ix i x check addr).Canon := by
  unfold State.stopCopy
  extract_lets gone
  split
  · exact h.putDesc.frameState.after
  · exact h.putDesc.prefetchFault.after
  · exact h.putDesc.bump.unitRec

theorem Canon.copyEnd {d core ix bytes x} (h : s.Canon) : (s.copyEnd d core ix bytes x).Canon := by
  unfold State.copyEnd
  extract_lets s1 s2 s3
  have h1 : s1.Canon := by
    unfold s1
    split
    · exact h.after
    · exact h.after
    · exact h
  have h2 : s2.Canon := by
    unfold s2
    split
    · exact h1.pipeDone
    · exact h1
  have h3 : s3.Canon := .ite h2 h2.after
  exact h3.at_.at_

theorem Canon.issueRead {d core ix i x k} (h : s.Canon) : (s.issueRead d core ix i x k).Canon := by
  unfold State.issueRead
  split
  rename_i s1 e1
  have h1 : s1.Canon := by
    refine .of_eqSnd ?_ e1
    split
    · exact h
    · exact h.sluice
  split
  · exact h1.putDesc
  · extract_lets e
    split
    rename_i s2 e2
    have h2 : s2.Canon := .of_eqSnd h1.sitesLat e2
    exact h2.putDesc.modChan.at_.once

theorem Canon.copyDescriptorStart {d core ix} (h : s.Canon) : (copyDescriptorStart d core ix s).Canon := by
  unfold Machine.copyDescriptorStart
  extract_lets s1 c
  have h1 : s1.Canon := h.slotsDone.modChan
  split
  · exact h1
  · split
    · exact h1
    · exact .ite h1 (.ite h1.once h1.issueRead)

theorem Canon.readAgain {d core ix i x} (h : s.Canon) : (s.readAgain d core ix i x).Canon := by
  unfold State.readAgain
  extract_lets s1
  have h1 : s1.Canon := h.putDesc.once
  split
  · exact h1.once
  · exact h1

theorem Canon.failCopy {d core ix i x check addr} (h : s.Canon) : (s.failCopy d core ix i x check addr).Canon :=
  .ite h.putDesc.after h.stopCopy

theorem Canon.noteSites {d core g xs due who} (h : s.Canon) : (s.noteSites d core g xs due who).Canon := by
  unfold State.noteSites
  refine .foldl h fun s1 a h => ?_
  split
  · split
    · exact h.noteOver
    · exact h
  · exact h

theorem Canon.tableDone {d core ix i x es rest} (h : s.Canon) : (s.tableDone d core ix i x es rest).Canon := by
  unfold State.tableDone
  split
  · rename_i s1 e1
    have h1 : s1.Canon := .of_eqSnd h.keepOld.resolveAll e1
    exact h1.dropOld.failCopy
  · rename_i s1 e1
    have h1 : s1.Canon := .of_eqSnd h.keepOld.resolveAll e1
    exact h1.dropOld.readAgain

theorem Canon.copyRead {d core ix i x es rest} (h : s.Canon) : (s.copyRead d core ix i x es rest).Canon := by
  unfold State.copyRead
  split
  rename_i s1 e1
  have h1 : s1.Canon := .of_eqSnd h.keepOld.moveAll e1
  extract_lets s2 frameErr s3 left moved bytes s4 x wrote
  have h2 : s2.Canon := h1.dropOld
  have h3 : s3.Canon := .ite h2 (.foldl h2 fun _ _ h => h.modCopied)
  have h4 : s4.Canon := h3.foldl fun _ _ h => h.foldl fun _ _ h => h.after
  split
  · exact h4.noteSites.failCopy
  · exact .ite h4.stopCopy (.ite h4.noteSites.putDesc.copyEnd h4.noteSites.readAgain)

theorem Canon.csrRead {d core ix i x desc first n hv} (h : s.Canon) : (s.csrRead d core ix i x desc first n hv).Canon := by
  unfold State.csrRead
  extract_lets ends s1
  have h1 : s1.Canon := h.keepOld
  split
  · split
    · rename_i s2 e2
      have h2 : s2.Canon := .of_eqSnd h1.csrWords e2
      exact h2.dropOld.failCopy
    · rename_i s2 e2
      have h2 : s2.Canon := .of_eqSnd h1.csrWords e2
      exact h2.dropOld.putDesc.copyEnd.modChan
    · rename_i s2 _ e2
      have h2 : s2.Canon := .of_eqSnd h1.csrWords e2
      exact h2.dropOld.readAgain
  · split
    · rename_i s2 e2
      have h2 : s2.Canon := .of_eqSnd h1.csrElems e2
      exact h2.dropOld.failCopy
    · rename_i s2 e2
      have h2 : s2.Canon := .of_eqSnd h1.csrElems e2
      exact .ite h2.dropOld.putDesc.copyEnd.modChan h2.dropOld.readAgain

theorem Canon.copyReadComplete {d core ix} (h : s.Canon) : (copyReadComplete d core ix s).Canon := by
  unfold Machine.copyReadComplete
  split
  · exact h
  · extract_lets s1
    have h1 : s1.Canon := .ite h h.after
    split
    · exact .ite h1.tableDone h1.copyRead
    · exact h1.csrRead
    · exact h1

theorem Canon.outCopyEnd {d core ix} (h : s.Canon) : (outCopyEnd d core ix s).Canon := h.modChan.foldl fun _ _ h => h.outDone

theorem Canon.abandon {d core ix i x} (h : s.Canon) : (s.abandon d core ix i x).Canon := by
  unfold State.abandon
  extract_lets -merge +onlyGivenNames y s1
  have h1 : s1.Canon := h.putDesc
  split
  · exact h1.frameState.after
  · exact h1.prefetchFault.after
  · extract_lets -merge +onlyGivenNames f s2 s3 left s4
    have h2 : s2.Canon := h1.modCopied
    have h3 : s3.Canon := by
      unfold s3
      split
      · exact h2.modCopied
      · exact h2
    have h4 : s4.Canon := h3.foldl fun _ _ h => .ite h h.after
    exact h4.copyEnd

theorem Canon.chanReply {d core ix retry} (h : s.Canon) : (s.chanReply d core ix retry).Canon := by
  unfold State.chanReply
  split
  · exact h
  · exact .ite h.readAgain h.abandon.after

theorem Canon.execCopyDescriptorStart (h : s.Canon) : NextCanon (execCopyDescriptorStart s) := by
  unfold Machine.execCopyDescriptorStart
  split
  · exact .next h.upd.copyDescriptorStart
  · exact .fault

theorem Canon.execCopyReadComplete (h : s.Canon) : NextCanon (execCopyReadComplete s) := by
  unfold Machine.execCopyReadComplete
  split
  · exact .next h.upd.copyReadComplete
  · exact .fault

theorem Canon.execDeliveryCount (h : s.Canon) : NextCanon (execDeliveryCount s) := by
  unfold Machine.execDeliveryCount
  split
  · exact .next h.upd.deliveryCount
  · exact .fault

theorem Canon.execOutCopyEnd (h : s.Canon) : NextCanon (execOutCopyEnd s) := by
  unfold Machine.execOutCopyEnd
  split
  · exact .next h.upd.outCopyEnd
  · exact .fault

theorem Canon.execHandleWaiterWake (h : s.Canon) : NextCanon (execHandleWaiterWake s) := by
  unfold Machine.execHandleWaiterWake
  split
  · exact .next h.upd.handleWaiterWake
  · exact .fault

theorem Canon.waitAll {w} {x : Env} (h : s.Canon) : (x.waitAll w s).s.Canon := h.waitLanes.all

theorem Canon.needs {hn sts} {x : Env} {f : Handle → Res} (h : s.Canon) (hf : ∀ y, (f y).s.Canon) : (x.needs hn sts s f).s.Canon := by
  unfold Env.needs
  dsimp only
  split
  · exact hf _
  · exact h.waitAll

theorem Canon.trapTeam {kind d0 d1} {x : Env} (h : s.Canon) : (x.trapTeam kind d0 d1 s).s.Canon := h.team

theorem Canon.trapAll {kind d0 d1} {x : Env} (h : s.Canon) : (x.trapAll kind d0 d1 s).s.Canon := h.all

theorem Canon.cpyRun {x g h' hn ls acc} {s0 : State} (h : s.Canon) : (Machine.cpyRun x g h' hn s0 ls acc s).2.2.Canon := by
  induction ls generalizing s acc with
  | nil => exact h
  | cons a ls ih =>
    obtain ⟨l, pos⟩ := a
    rw [Machine.cpyRun]
    dsimp only
    split
    · exact h
    · split
      · exact ih h.check
      · exact h.check

theorem Canon.cpyBody {x} (h : s.Canon) : (cpyBody x s).s.Canon := by
  unfold Machine.cpyBody
  extract_lets hn g
  refine .needs h (fun _ => ?_)
  dsimp only
  split
  · exact .ok (.ite h.modHandle.cpyRun.releaseLanes h.modHandle.cpyRun.releaseLanes.enqueue)
  · split
    · exact .waitLanes (.modLanes (.ite h.modHandle.cpyRun.releaseLanes h.modHandle.cpyRun.releaseLanes.enqueue))
    · exact .modLanes (.ite h.modHandle.cpyRun.releaseLanes h.modHandle.cpyRun.releaseLanes.enqueue)
    · exact .ok (.modLanes (.ite h.modHandle.cpyRun.releaseLanes h.modHandle.cpyRun.releaseLanes.enqueue))

theorem Canon.execCpy {h' o} (h : s.Canon) : NextCanon (execCpy h' o s) := h.issueWord fun _ _ h => h.cpyBody

theorem Canon.cpytSlots {x : Env} (h : s.Canon) : (x.cpytSlots s).2.Canon := by
  unfold Env.cpytSlots
  extract_lets m n
  split
  · rename_i e1
    exact .of_eqSnd h.readSlot e1
  · rename_i s1 e1
    have h1 : s1.Canon := .of_eqSnd h.readSlot e1
    split
    · rename_i e2
      exact .of_eqSnd h1.readSlot e2
    · rename_i s2 e2
      have h2 : s2.Canon := .of_eqSnd h1.readSlot e2
      extract_lets fa fb ok
      split <;> exact h2

theorem Canon.cpytInBody {x} (h : s.Canon) : (cpytInBody x s).s.Canon := by
  unfold Machine.cpytInBody
  extract_lets hn g
  split
  · rename_i s1 e1
    have h1 : s1.Canon := .of_eqSnd h.cpytSlots e1
    exact h1.team
  · rename_i s1 e1
    have h1 : s1.Canon := .of_eqSnd h.cpytSlots e1
    refine .needs h1 (fun _ => ?_)
    dsimp only
    split
    · exact h1.trapTeam
    · exact h1.release0.setHandle.enqueue.ok

theorem Canon.execCpytIn {h' o} (h : s.Canon) : NextCanon (execCpytIn h' o s) := h.issueWord fun _ _ h => h.cpytInBody

theorem Canon.cpytOutBody {x} (h : s.Canon) : (cpytOutBody x s).s.Canon := by
  unfold Machine.cpytOutBody
  extract_lets hn g
  split
  · rename_i s1 e1
    have h1 : s1.Canon := .of_eqSnd h.cpytSlots e1
    exact h1.team
  · rename_i s1 e1
    have h1 : s1.Canon := .of_eqSnd h.cpytSlots e1
    exact h1.needs (fun _ => h1.modDie.setHandle.enqueue.ok)

theorem Canon.execCpytOut {h' o} (h : s.Canon) : NextCanon (execCpytOut h' o s) := h.issueWord fun _ _ h => h.cpytOutBody

theorem Canon.cpycsrBody {x} (h : s.Canon) : (cpycsrBody x s).s.Canon := by
  unfold Machine.cpycsrBody
  extract_lets hc hv g a b
  split
  · exact h.modDie.enqueue.ok
  · exact h.waitAll

theorem Canon.execCpycsr {h' o} (h : s.Canon) : NextCanon (execCpycsr h' o s) := h.issueWord fun _ _ h => h.cpycsrBody

theorem Canon.bsetArmBody {x} (h : s.Canon) : (bsetArmBody x s).s.Canon := by
  unfold Machine.bsetArmBody
  extract_lets hn base len o
  split
  · exact h.trapTeam
  · split
    · exact h.trapTeam
    · exact h.needs (fun _ => h.setHandle.ok)

theorem Canon.execBsetArm {h' o} (h : s.Canon) : NextCanon (execBsetArm h' o s) := h.issueWord fun _ _ h => h.bsetArmBody

theorem Canon.bsetCloseBody {x} (h : s.Canon) : (bsetCloseBody x s).s.Canon := h.setHandle.ok

theorem Canon.execBsetClose {h' o} (h : s.Canon) : NextCanon (execBsetClose h' o s) := h.issueWord fun _ _ h => h.bsetCloseBody

theorem Canon.bsetDrainBody {x} (h : s.Canon) : (bsetDrainBody x s).s.Canon := h.needs (fun _ => h.setHandle.ok)

theorem Canon.execBsetDrain {h' o} (h : s.Canon) : NextCanon (execBsetDrain h' o s) := h.issueWord fun _ _ h => h.bsetDrainBody

theorem Canon.bsetFreeBody {x} (h : s.Canon) : (bsetFreeBody x s).s.Canon := by
  unfold Machine.bsetFreeBody
  extract_lets hn
  split
  · exact h.setHandle.ok
  · exact h.waitAll

theorem Canon.execBsetFree {h' o} (h : s.Canon) : NextCanon (execBsetFree h' o s) := h.issueWord fun _ _ h => h.bsetFreeBody

theorem Canon.bsetResetBody {x} (h : s.Canon) : (bsetResetBody x s).s.Canon := h.modHandle.wakeIn.after.ok

theorem Canon.execBsetReset {h' o} (h : s.Canon) : NextCanon (execBsetReset h' o s) := h.issueWord fun _ _ h => h.bsetResetBody

theorem Canon.bwaitBody {x} (h : s.Canon) : (bwaitBody x s).s.Canon := by
  unfold Machine.bwaitBody
  extract_lets hn st
  refine .needs h (fun _ => ?_)
  dsimp only
  split
  · exact h.trapTeam
  · exact h.modLanes.ok

theorem Canon.execBwait {h' o} (h : s.Canon) : NextCanon (execBwait h' o s) := h.issueWord fun _ _ h => h.bwaitBody

theorem Canon.bqueryBody {x} (h : s.Canon) : (bqueryBody x s).s.Canon := h.putOne.ok

theorem Canon.execBquery {h' o} (h : s.Canon) : NextCanon (execBquery h' o s) := h.issueWord fun _ _ h => h.bqueryBody

theorem Canon.putWptr {h'} {x : Env} (h : s.Canon) : (x.putWptr h' s).s.Canon := h.putOne.modLanes.ok

theorem Canon.wptrBody {x} (h : s.Canon) : (wptrBody x s).s.Canon := h.putWptr

theorem Canon.execWptr {h' o} (h : s.Canon) : NextCanon (execWptr h' o s) := h.issueWord fun _ _ h => h.wptrBody

theorem Canon.wptrGeBody {x} (h : s.Canon) : (wptrGeBody x s).s.Canon := by
  unfold Machine.wptrGeBody
  extract_lets hn n
  split
  · exact h.putWptr
  · exact h.waitAll

theorem Canon.execWptrGe {h' o} (h : s.Canon) : NextCanon (execWptrGe h' o s) := h.issueWord fun _ _ h => h.wptrGeBody

/-! ### Class 11 and tile pipes: the home's counters and requests, spills, staging, and their events (R283 to R300) -/

theorem Canon.pipeMoved {p} {was : State} (h : s.Canon) : (s.pipeMoved was p).Canon := .ite h h.modPlan

theorem Canon.pipesAgain {d} (h : s.Canon) : (s.pipesAgain d).Canon := h.foldl fun _ _ h => h.atEnd

theorem Canon.ctxPut {d ctx va bs} (h : s.Canon) : (s.ctxPut d ctx va bs).Canon := by
  unfold State.ctxPut
  split
  · exact h
  · exact h.foldl fun _ _ h => h.recPut

theorem Canon.spillStart {r} (h : s.Canon) : (s.spillStart r).Canon := by
  unfold State.spillStart
  split
  · exact h
  · split
    · exact h
    · split
      · exact h.modPipe.after.pipeMoved
      · exact h.modPipe

theorem Canon.spill {r n} (h : s.Canon) : (s.spill r n).Canon := h.modPipe.spillStart

theorem Canon.tileSpill {r} (h : s.Canon) : (tileSpill r s).Canon := by
  unfold Machine.tileSpill
  split
  · exact h
  · split
    · exact h.ctxPut.modPipe.bump.pipeMoved.spillStart.atEnd.pipesAgain
    · exact h

theorem Canon.pressureSpill {d need} (h : s.Canon) : (s.pressureSpill d need).Canon := by
  unfold State.pressureSpill
  extract_lets ps order
  refine .foldlSnd h ?_
  rintro ⟨_, s1⟩ a (h1 : s1.Canon)
  dsimp only
  split
  · exact h1
  · exact h1.spill

theorem Canon.applyChange {r c} (h : s.Canon) : (s.applyChange r c).Canon := by
  unfold State.applyChange
  extract_lets plan
  split
  · exact h
  · split
    · exact .ite h.modPipe h.modPipe.formBatch
    · exact .ite h.modPipe.formBatch.postMsg h.modPipe.formBatch
    · exact h.modPipe
    · exact h

theorem Canon.closeStage {g} (h : s.Canon) : (s.closeStage g).Canon := h.modStage

theorem Canon.putPair {q pair lat} (h : s.Canon) : (s.putPair q pair lat).Canon := by
  unfold State.putPair
  split
  · exact h.writeK
  · exact h.modLanes

theorem Canon.answerPipe {r q pair time stamp} (h : s.Canon) : (s.answerPipe r q pair time stamp).Canon :=
  have h1 := Canon.ite h.closeStage h
  .ite h1.modLanes.putPair.after h1.putPair.modLanes.lanesDrop.passLanes

theorem Canon.takeSlot {r i f} (h : s.Canon) : (s.takeSlot r i f).Canon := by
  unfold State.takeSlot
  split
  · exact h
  · exact h.modPipe.fitL2

theorem Canon.servePres {r p q} (h : s.Canon) (e : s.servePres r p q = some t) : t.Canon := by
  unfold State.servePres at e
  split at e
  · cases e; exact h.answerPipe
  · split at e
    · cases e
    · dsimp only at e
      split at e <;> cases e
      exact h.takeSlot.modPipe.answerPipe

theorem Canon.serveTake {r p q} (h : s.Canon) (e : s.serveTake r p q = some t) : t.Canon := by
  unfold State.serveTake at e
  split at e
  · rw [← Option.some.inj e]; exact h.answerPipe
  · extract_lets home sl counts fromHome fromSlice at e
    have hcounts : ∀ (s : State) (w : W64), s.Canon → (counts s w).Canon := fun _ _ h => h.release.formBatch
    have hHome : ∀ i x, fromHome i x = some t → t.Canon := by
      intro i x e
      unfold fromHome at e
      split at e
      · cases e
      · rw [← Option.some.inj e]; exact (hcounts _ _ h.modPipe).answerPipe
    have hSlice : ∀ x, fromSlice x = some t → t.Canon := by
      intro x e
      rw [← Option.some.inj e]; exact (hcounts _ _ h.modPipe).answerPipe
    clear_value counts fromHome fromSlice home sl
    split at e
    · split at e
      · exact hSlice _ e
      · exact hHome _ _ e
    · exact hHome _ _ e
    · exact hSlice _ e
    · cases e

theorem Canon.serveReq {r q} (h : s.Canon) : (s.serveReq r q).Canon := by
  unfold State.serveReq
  split
  · exact h
  · rename_i p _
    extract_lets -merge +onlyGivenNames res
    have hres : ∀ t, res = some t → t.Canon := by
      intro t e
      unfold res at e
      split at e
      · cases e
      · split at e
        · exact h.serveTake e
        · exact h.servePres e
    clear_value res
    split
    · exact (hres _ rfl).pipeMoved
    · extract_lets s1 s2
      have h1 : s1.Canon := .ite h.pressureSpill h
      exact .modPipe (.ite h1.waitLanes h1)

theorem Canon.stageSend {r} (h : s.Canon) : (s.stageSend r).Canon := by
  unfold State.stageSend
  split
  · exact .ite h.after h
  · exact h

theorem Canon.pipeRequestArrival {r} (h : s.Canon) : (pipeRequestArrival r s).Canon := by
  unfold Machine.pipeRequestArrival
  split
  · exact h
  · extract_lets later s1 s2 s3 live old new s4 s5
    have h1 : s1.Canon := h.modPipe
    have h2 : s2.Canon := .ite h1 (.foldl h1 fun _ _ h => h.applyChange.pipeMoved)
    have h3 : s3.Canon := h2.modPipe.pipeMoved
    have h4 : s4.Canon := h3.foldl fun _ _ h => h.serveReq
    have h5 : s5.Canon := h4.spillStart.stageSend
    split
    · exact h5
    · split
      · exact h5.pipesAgain
      · exact h5

theorem Canon.pipeCounterChange {r c} (h : s.Canon) : (pipeCounterChange r c s).Canon := by
  unfold Machine.pipeCounterChange
  split
  · exact h.lanesDrop.modLanes
  · exact h.modPipe.after

theorem Canon.fixHome {r d} (h : s.Canon) : (s.fixHome r d).Canon := by
  unfold State.fixHome
  split
  · exact h
  · exact .ite h (.foldl h.modPipe fun _ _ h => h.modPipe.modLanes.at_)

theorem Canon.sliceBytes {p pos} (h : s.Canon) : (s.sliceBytes p pos).2.Canon := by
  unfold State.sliceBytes
  extract_lets free
  split
  · exact h.upd.snd
  · split
    · rename_i e1
      exact .of_eqSnd h.recBytes e1
    · rename_i s1 e1
      have h1 : s1.Canon := .of_eqSnd h.recBytes e1
      exact h1.upd.snd

theorem Canon.sendTile {p time bytes} (h : s.Canon) : (s.sendTile p time bytes).Canon := h.modPipe.post.stageSend

theorem Canon.stagingTransfer {r} (h : s.Canon) : (stagingTransfer r s).Canon := by
  unfold Machine.stagingTransfer
  split
  · exact h
  · split
    · exact h
    · extract_lets slot slice
      split
      · split
        · unfold slice
          split
          rename_i s1 e1
          have h1 : s1.Canon := .of_eqSnd h.sliceBytes e1
          exact h1.modPipe.pipeMoved.sendTile
        · exact .ite h h.modPipe.pipeMoved.sendTile
      · exact .ite h h.modPipe.pipeMoved.sendTile
      · unfold slice
        split
        rename_i s1 e1
        have h1 : s1.Canon := .of_eqSnd h.sliceBytes e1
        exact h1.modPipe.pipeMoved.sendTile
      · exact h

theorem Canon.stagingAck {r} (h : s.Canon) : (stagingAck r s).Canon := by
  unfold Machine.stagingAck
  split
  · exact h
  · extract_lets slot slice go
    split
    · exact .atEnd (.pipeMoved (.ite h.modPipe h.modPipe))
    · exact h.modPipe.pipeMoved.atEnd
    · exact h.modPipe.pipeMoved.atEnd
    · exact h

theorem Canon.tileArrival {r time bytes} (h : s.Canon) : (tileArrival r time bytes s).Canon := by
  unfold Machine.tileArrival
  split
  · exact h
  · split
    · exact h
    · exact h.takeSlot.modPipe.upd.pipeMoved.atEnd

theorem Canon.creditReport {r total} (h : s.Canon) : (creditReport r total s).Canon := h.modPipe.stageSend

theorem Canon.execPipeRequestArrival (h : s.Canon) : NextCanon (execPipeRequestArrival s) := by
  unfold Machine.execPipeRequestArrival
  split
  · exact .next h.upd.pipeRequestArrival
  · exact .fault

theorem Canon.execPipeCounterChange (h : s.Canon) : NextCanon (execPipeCounterChange s) := by
  unfold Machine.execPipeCounterChange
  split
  · exact .next h.upd.pipeCounterChange
  · exact .fault

theorem Canon.execTileSpill (h : s.Canon) : NextCanon (execTileSpill s) := by
  unfold Machine.execTileSpill
  split
  · exact .next h.upd.tileSpill
  · exact .fault

theorem Canon.execStagingTransfer (h : s.Canon) : NextCanon (execStagingTransfer s) := by
  unfold Machine.execStagingTransfer
  split
  · exact .next h.upd.stagingTransfer
  · exact .fault

theorem Canon.execTileArrival (h : s.Canon) : NextCanon (execTileArrival s) := by
  unfold Machine.execTileArrival
  split
  · exact .next h.upd.tileArrival
  · exact .fault

theorem Canon.execCreditReport (h : s.Canon) : NextCanon (execCreditReport s) := by
  unfold Machine.execCreditReport
  split
  · exact .next h.upd.creditReport
  · exact .fault

theorem Canon.execStagingAck (h : s.Canon) : NextCanon (execStagingAck s) := by
  unfold Machine.execStagingAck
  split
  · exact .next h.upd.stagingAck
  · exact .fault

theorem Canon.portTrap {x : Env} (h : s.Canon) : (x.portTrap s).s.Canon := h.trapTeam

theorem Canon.request {take p} {x : Env} (h : s.Canon) : (x.request take p s).s.Canon := h.modLanes.modPipe.atEnd.all

theorem Canon.presBody {x} (h : s.Canon) : (presBody x s).s.Canon := by
  unfold Machine.presBody
  split
  · exact h.request
  · exact h.portTrap

theorem Canon.execPres {h' o} (h : s.Canon) : NextCanon (execPres h' o s) := h.issueWord fun _ _ h => h.presBody

theorem Canon.ptakeBody {x} (h : s.Canon) : (ptakeBody x s).s.Canon := by
  unfold Machine.ptakeBody
  split
  · exact h.request
  · exact h.portTrap

theorem Canon.execPtake {h' o} (h : s.Canon) : NextCanon (execPtake h' o s) := h.issueWord fun _ _ h => h.ptakeBody

theorem Canon.slotTrap {x : Env} (h : s.Canon) : (x.slotTrap s).s.Canon := h.trapTeam

theorem Canon.issueChange {d p i sp c} (h : s.Canon) : (s.issueChange d p i sp c).Canon := .ite h.modPipe h.after

theorem Canon.dropHolder {p i sp} (h : s.Canon) : (s.dropHolder p i sp).Canon := h.modPipe

theorem Canon.pcomBody {x} (h : s.Canon) : (pcomBody x s).s.Canon := by
  unfold Machine.pcomBody
  split
  · exact h.slotTrap
  · extract_lets t
    split
    · exact h.team
    · split
      · exact h.team
      · split
        · exact h.team
        · exact h.modDie.dropHolder.issueChange.ok

theorem Canon.execPcom {h' o} (h : s.Canon) : NextCanon (execPcom h' o s) := h.issueWord fun _ _ h => h.pcomBody

theorem Canon.prelBody {x} (h : s.Canon) : (prelBody x s).s.Canon := by
  unfold Machine.prelBody
  split
  · exact h.slotTrap
  · exact h.modDie.dropHolder.issueChange.ok

theorem Canon.execPrel {h' o} (h : s.Canon) : NextCanon (execPrel h' o s) := h.issueWord fun _ _ h => h.prelBody

theorem Canon.pcpyInBody {x} (h : s.Canon) : (pcpyInBody x s).s.Canon := by
  unfold Machine.pcpyInBody
  extract_lets hn
  split
  · exact h.slotTrap
  · refine .needs h (fun _ => ?_)
    dsimp only
    split
    · exact h.trapTeam
    · exact h.release0.setHandle.enqueue.ok

theorem Canon.execPcpyIn {h' o} (h : s.Canon) : NextCanon (execPcpyIn h' o s) := h.issueWord fun _ _ h => h.pcpyInBody

theorem Canon.pcpyOutBody {x} (h : s.Canon) : (pcpyOutBody x s).s.Canon := by
  unfold Machine.pcpyOutBody
  extract_lets hn
  split
  · exact h.slotTrap
  · exact h.needs (fun _ => h.modDie.setHandle.enqueue.ok)

theorem Canon.execPcpyOut {h' o} (h : s.Canon) : NextCanon (execPcpyOut h' o s) := h.issueWord fun _ _ h => h.pcpyOutBody

theorem Canon.pqueryBody {x} (h : s.Canon) : (pqueryBody x s).s.Canon := by
  unfold Machine.pqueryBody
  split
  · exact h.portTrap
  · exact h.putOne.ok

theorem Canon.execPquery {h' o} (h : s.Canon) : NextCanon (execPquery h' o s) := h.issueWord fun _ _ h => h.pqueryBody

theorem Canon.pspillBody {x} (h : s.Canon) : (pspillBody x s).s.Canon := by
  unfold Machine.pspillBody
  split
  · exact h.portTrap
  · exact h.spill.ok

theorem Canon.execPspill {h' o} (h : s.Canon) : NextCanon (execPspill h' o s) := h.issueWord fun _ _ h => h.pspillBody

theorem Canon.pdrainBody {x} (h : s.Canon) : (pdrainBody x s).s.Canon := by
  unfold Machine.pdrainBody
  split
  · exact h.portTrap
  · exact h.closeStage.after.ok

theorem Canon.execPdrain {h' o} (h : s.Canon) : NextCanon (execPdrain h' o s) := h.issueWord fun _ _ h => h.pdrainBody

theorem Canon.exitSlots {g d key} (h : s.Canon) : (s.exitSlots g d key).Canon :=
  h.foldl fun _ _ h =>
    have h1 := h.foldl fun _ _ h => .ite h (.ite h.dropHolder.issueChange (.ite h.dropHolder.issueChange h))
    h1.foldl fun _ _ h => .ite h h.dropHolder.issueChange

/-! ### Class 14, operations 0 to 4, and the fabrics: UALink, circuits, send queues, receive windows (R390 to R403, R409 to R414, R475,
R476) -/

theorem Canon.modEntry {id f} (h : s.Canon) : (s.modEntry id f).Canon := h.modFab

theorem Canon.endEntry {e err} (h : s.Canon) : (s.endEntry e err).Canon := by
  unfold State.endEntry
  extract_lets s1 s2 s3 s4
  have h1 : s1.Canon := h.modFab
  have h2 : s2.Canon := .ite h1 h1.modGroup
  have h3 : s3.Canon := by
    unfold s3
    split
    · exact h2.after
    · exact h2
  have h4 : s4.Canon := h3.admitWaiting
  split
  · exact h4.once
  · exact h4

theorem Canon.readRun {d core g va n} (h : s.Canon) : (s.readRun d core g va n).2.Canon := by
  unfold State.readRun
  extract_lets starts
  refine .foldlSnd h ?_
  rintro ⟨_, s1⟩ a (h1 : s1.Canon)
  dsimp only
  split
  · rename_i s2 e2
    have h2 : s2.Canon := .of_eqSnd h1 e2
    split
    · exact h2
    · split
      · rename_i e3
        exact .of_eqSnd h2.elemRead e3
      · exact h2.elemRead
  · exact h1

theorem Canon.framePayload {e off} (h : s.Canon) : (s.framePayload e off).2.Canon := by
  unfold State.framePayload
  split
  · exact h.readRun
  · exact h

theorem Canon.sendFrame {e off again} (h : s.Canon) : (s.sendFrame e off again).2.Canon := by
  unfold State.sendFrame
  extract_lets mine
  split
  · exact h
  · split
    rename_i s1 e1
    have h1 : s1.Canon := by
      refine .of_eqSnd ?_ e1
      split
      · exact h
      · exact h.sluice
    extract_lets s2
    have h2 : s2.Canon := h1.modEntry
    split
    · exact h2
    · split
      · rename_i s3 e3
        have h3 : s3.Canon := .of_eqSnd h2.framePayload e3
        exact h3.modEntry.once
      · rename_i s3 _ e3
        have h3 : s3.Canon := .of_eqSnd h2.framePayload e3
        exact h3.modEntry.bump.unitRec.snd
      · rename_i s3 e3
        have h3 : s3.Canon := .of_eqSnd h2.framePayload e3
        exact h3.endEntry
      · rename_i s3 e3
        have h3 : s3.Canon := .of_eqSnd h2.framePayload e3
        exact .snd (.modFab (.ite h3.modEntry.bump h3.modEntry))

theorem Canon.pumpOptical {x dest n} (h : s.Canon) : (s.pumpOptical x dest n).Canon := by
  induction n generalizing s with
  | zero => exact h
  | succ n ih =>
    rw [State.pumpOptical]
    split
    · dsimp only
      split
      · exact h
      · split
        · exact h.once
        · split
          · rename_i s1 e1
            exact .of_eqSnd h.sendFrame e1
          · rename_i s1 e1
            have h1 : s1.Canon := .of_eqSnd h.sendFrame e1
            exact ih h1.modFab
    · exact h

theorem Canon.pumpUalink {mask dest n} (h : s.Canon) : (s.pumpUalink mask dest n).Canon := by
  induction n generalizing s with
  | zero => exact h
  | succ n ih =>
    rw [State.pumpUalink]
    split
    · split
      · exact h.once
      · split
        · rename_i s1 e1
          exact .of_eqSnd h.sendFrame e1
        · rename_i s1 e1
          have h1 : s1.Canon := .of_eqSnd h.sendFrame e1
          exact ih h1.modFab
    · exact h

/-- The kernel must not run the address arithmetic below `State.pump`, which stands as a variable here. -/
theorem Canon.pump {dest} (h : s.Canon) : (s.pump dest).Canon := by
  suffices ∀ f, f = @State.pump → (f s dest).Canon from this _ rfl
  delta State.pump
  rintro _ rfl
  dsimp only
  split
  · exact h.pumpUalink
  · split
    · exact h.pumpOptical
    · exact h

theorem Canon.sendEligible {id} (h : s.Canon) : (sendEligible id s).Canon := by
  unfold Machine.sendEligible
  split
  · exact h.pump
  · exact h

theorem Canon.wakeMsgs {dest} (h : s.Canon) : (s.wakeMsgs dest).Canon := h.modFab

theorem Canon.dataPeriodStart (h : s.Canon) : (dataPeriodStart s).Canon := by
  unfold Machine.dataPeriodStart
  split
  · exact h
  · exact h.at_.foldl fun _ _ h => .ite h h.wakeMsgs.pump

theorem Canon.guardInterval (h : s.Canon) : (guardInterval s).Canon := .ite h.modFab.after h.modFab

theorem Canon.frameAckReceive {id off refused} (h : s.Canon) : (frameAckReceive id off refused s).Canon := by
  unfold Machine.frameAckReceive
  split
  · exact h
  · exact .ite h.endEntry (.ite h (.ite h.modEntry.endEntry h.modEntry))

theorem Canon.sendReply {id retry} (h : s.Canon) : (s.sendReply id retry).Canon := by
  unfold State.sendReply
  split
  · exact h
  · exact .ite h.modEntry.once h.endEntry

theorem Canon.frameReceive {f} (h : s.Canon) : (frameReceive f s).Canon := by
  unfold Machine.frameReceive
  extract_lets -merge +onlyGivenNames ack
  split
  · exact h.modFab
  · split
    · exact h.modFab
    · split
      · exact h.modFab
      · extract_lets -merge +onlyGivenNames pa
        split
        · exact h
        · exact h.touchL2.touchL2.devPut.heat.setReg.modFab.modFab

theorem Canon.receiveWindowEnable {w v} (h : s.Canon) : (receiveWindowEnable w v s).Canon := .ite h.setReg.setReg h.setReg

theorem Canon.moveUnit {due till e} (h : s.Canon) : (s.moveUnit due till e).Canon := by
  unfold State.moveUnit
  split
  · exact h.modChan.at_
  · exact h.modChan.at_.at_
  · exact h.modEngine.at_
  · split
    · exact h.modLanes.at_
    · exact h
  · exact h.upd

theorem Canon.moveFlight {f till} (h : s.Canon) : (s.moveFlight f till).Canon := by
  unfold State.moveFlight
  split
  · exact h.moveAccess
  · exact h.moveUnit
  · exact h

theorem Canon.ualinkReplay {p} (h : s.Canon) : (ualinkReplay p s).Canon := .modFab (.bump (.foldl h fun _ _ h => h.moveFlight))

theorem Canon.ualinkPortFail {p} (h : s.Canon) : (ualinkPortFail p s).Canon := .modFab (.foldl h.modFab fun _ _ h => h.moveFlight)

theorem Canon.goFlights (h : s.Canon) : (s.goFlights).Canon := .modFab (.foldl h fun _ _ h => h.moveFlight)

theorem Canon.ualinkPortRetrain {p} (h : s.Canon) : (ualinkPortRetrain p s).Canon := h.modFab.goFlights.wakeWhere.foldl fun _ _ h => h.pump

theorem Canon.ualinkRouteTimeout {dev} (h : s.Canon) : (ualinkRouteTimeout dev s).Canon := by
  unfold Machine.ualinkRouteTimeout
  refine .foldl h fun s1 a h => ?_
  dsimp only
  split
  · exact h.foldl fun _ _ h => h.raise
  · exact h

theorem Canon.tryCircuits (h : s.Canon) : (s.tryCircuits).Canon := by
  unfold State.tryCircuits
  split
  · exact h
  · split
    · exact h
    · split
      · exact h
      · exact .ite h h.modFab.at_

theorem Canon.circuitRequestArrival {dev conns} (h : s.Canon) : (circuitRequestArrival dev conns s).Canon := h.modFab.tryCircuits

theorem Canon.endCirc {status} (h : s.Canon) : (s.endCirc status).Canon := by
  unfold State.endCirc
  split
  · exact h
  · exact h.modFab.cancel.modLanes.passLanes

theorem Canon.tableActivation (h : s.Canon) : (tableActivation s).Canon := by
  unfold Machine.tableActivation
  split
  · exact h
  · exact .ite h h.cancel.modFab.guardInterval.modFab.setFld.modFab.after.endCirc.wakeWhere

theorem Canon.circuitRequestWithdraw {dev} (h : s.Canon) : (circuitRequestWithdraw dev s).Canon := .ite (.ite h h.endCirc) h.modFab

theorem Canon.execUalinkReplay (h : s.Canon) : NextCanon (execUalinkReplay s) := by
  unfold Machine.execUalinkReplay
  split
  · exact .ite (.next h.upd.ualinkReplay) .fault
  · exact .fault

theorem Canon.execUalinkPortFail (h : s.Canon) : NextCanon (execUalinkPortFail s) := by
  unfold Machine.execUalinkPortFail
  split
  · exact .ite (.next h.upd.ualinkPortFail) .fault
  · exact .fault

theorem Canon.execUalinkPortRetrain (h : s.Canon) : NextCanon (execUalinkPortRetrain s) := by
  unfold Machine.execUalinkPortRetrain
  split
  · exact .ite (.next h.upd.ualinkPortRetrain) .fault
  · exact .fault

theorem Canon.execUalinkRouteTimeout (h : s.Canon) : NextCanon (execUalinkRouteTimeout s) := by
  unfold Machine.execUalinkRouteTimeout
  split
  · exact .next h.upd.ualinkRouteTimeout
  · exact .fault

theorem Canon.execSendEligible (h : s.Canon) : NextCanon (execSendEligible s) := by
  unfold Machine.execSendEligible
  split
  · exact .next h.upd.sendEligible
  · exact .fault

theorem Canon.execDataPeriodStart (h : s.Canon) : NextCanon (execDataPeriodStart s) := by
  unfold Machine.execDataPeriodStart
  split
  · exact .next h.upd.dataPeriodStart
  · exact .fault

theorem Canon.execGuardInterval (h : s.Canon) : NextCanon (execGuardInterval s) := by
  unfold Machine.execGuardInterval
  split
  · exact .next h.upd.guardInterval
  · exact .fault

theorem Canon.execFrameReceive (h : s.Canon) : NextCanon (execFrameReceive s) := by
  unfold Machine.execFrameReceive
  split
  · exact .next h.upd.frameReceive
  · exact .fault

theorem Canon.execFrameAckReceive (h : s.Canon) : NextCanon (execFrameAckReceive s) := by
  unfold Machine.execFrameAckReceive
  split
  · exact .next h.upd.frameAckReceive
  · exact .fault

theorem Canon.execCircuitRequestArrival (h : s.Canon) : NextCanon (execCircuitRequestArrival s) := by
  unfold Machine.execCircuitRequestArrival
  split
  · exact .next h.upd.circuitRequestArrival
  · exact .fault

theorem Canon.execTableActivation (h : s.Canon) : NextCanon (execTableActivation s) := by
  unfold Machine.execTableActivation
  split
  · exact .next h.upd.tableActivation
  · exact .fault

theorem Canon.execCircuitRequestWithdraw (h : s.Canon) : NextCanon (execCircuitRequestWithdraw s) := by
  unfold Machine.execCircuitRequestWithdraw
  split
  · exact .next h.upd.circuitRequestWithdraw
  · exact .fault

theorem Canon.execReceiveWindowEnable (h : s.Canon) : NextCanon (execReceiveWindowEnable s) := by
  unfold Machine.execReceiveWindowEnable
  split
  · exact .ite (.next h.upd.receiveWindowEnable) .fault
  · exact .fault

theorem Canon.fxSendBody {x} (h : s.Canon) : (fxSendBody x s).s.Canon := by
  unfold Machine.fxSendBody
  extract_lets q len w3 off dest
  split
  · exact h.all
  · split
    · exact h.trapAll
    · split
      · exact h.trapAll
      · split
        rename_i s1 e1
        have h1 : s1.Canon := .of_eqSnd h.releaseLanes e1
        split
        rename_i s2 e2
        have h2 : s2.Canon := by
          refine .of_eqSnd ?_ e2
          split
          · exact h1
          · exact h1.modGroup.snd
        exact h2.modFab.at_.ok

theorem Canon.execFxSend {h' o} (h : s.Canon) : NextCanon (execFxSend h' o s) := h.issueWord fun _ _ h => h.fxSendBody

theorem Canon.fxCircBody {x} (h : s.Canon) : (fxCircBody x s).s.Canon := by
  unfold Machine.fxCircBody
  split
  · exact h.trapAll
  · split
    · exact h.all
    · split
      · exact h.putOne.ok
      · split
        · exact h.putOne.ok
        · exact h.modFab.after.after.waitAll

theorem Canon.execFxCirc {h' o} (h : s.Canon) : NextCanon (execFxCirc h' o s) := h.issueWord fun _ _ h => h.fxCircBody

theorem Canon.fxGenBody {x} (h : s.Canon) : (fxGenBody x s).s.Canon := h.putOne.ok

theorem Canon.execFxGen {h' o} (h : s.Canon) : NextCanon (execFxGen h' o s) := h.issueWord fun _ _ h => h.fxGenBody

theorem Canon.fxGenNeBody {x} (h : s.Canon) : (fxGenNeBody x s).s.Canon := by
  unfold Machine.fxGenNeBody
  extract_lets want
  split
  · exact h.waitAll
  · exact h.fxGenBody

theorem Canon.execFxGenNe {h' o} (h : s.Canon) : NextCanon (execFxGenNe h' o s) := h.issueWord fun _ _ h => h.fxGenNeBody

theorem Canon.readImage {va n i acc lat} {x : Env} (h : s.Canon) : (x.readImage va n i acc lat s).2.Canon := by
  induction n generalizing i acc lat s with
  | zero => exact h
  | succ n ih =>
    rw [Env.readImage]
    split
    rename_i c _ s1 e1
    have h1 : s1.Canon := .of_eqSndSnd h.check e1
    split
    · exact ih h1.sluiceAll.touchLoad.placeBytes
    · exact h1

theorem Canon.fxSlotBody {x} (h : s.Canon) : (Machine.fxSlotBody x s).s.Canon := by
  unfold Machine.fxSlotBody
  split
  · exact h.trapAll
  · extract_lets va stop
    have hstop : ∀ r s, State.Canon s → (stop r s).s.Canon := by
      intro r s h
      unfold stop
      split
      · exact h.all
      · exact h.waitAll
      · exact h
    clear_value stop
    split
    · rename_i s1 e1
      exact hstop _ _ (of_eqSnd h.readImage e1)
    · rename_i s1 e1
      have h1 : s1.Canon := of_eqSnd h.readImage e1
      split
      · rename_i s2 e2
        exact hstop _ _ (of_eqSnd h1.readImage e2)
      · rename_i s2 e2
        have h2 : s2.Canon := of_eqSnd h1.readImage e2
        split
        · exact h2.trapAll
        · split
          · exact h2.trapAll
          · exact h2.modFab

theorem Canon.execFxSlot {h' o} (h : s.Canon) : NextCanon (execFxSlot h' o s) := h.issueWord fun _ _ h => h.fxSlotBody

theorem Canon.fxQstatBody {x} (h : s.Canon) : (fxQstatBody x s).s.Canon :=
  .ok (.putOne (.ite (.acquireDrop (.ite h.modGroup h)) (.ite h.modGroup h)))

theorem Canon.execFxQstat {h' o} (h : s.Canon) : NextCanon (execFxQstat h' o s) := h.issueWord fun _ _ h => h.fxQstatBody

/-! ### Class 14, operations 8 to 10, and collectives: chunks, reduce blocks, commits and redos (R400, R404 to R408, R415 to R418) -/

theorem Canon.ctxRead {d ctx va n} (h : s.Canon) : (s.ctxRead d ctx va n).2.Canon := by
  unfold State.ctxRead
  extract_lets free
  split
  · exact h.upd.snd
  · split
    · rename_i e1
      exact .of_eqSnd h.recBytes e1
    · rename_i s1 e1
      have h1 : s1.Canon := .of_eqSnd h.recBytes e1
      exact h1.upd.snd

theorem Canon.ctxStore {d ctx va bs} (h : s.Canon) : (s.ctxStore d ctx va bs).Canon := by
  unfold State.ctxStore
  split
  · exact h
  · exact h.foldl fun _ _ h => .ite h h.recPut

theorem Canon.sendMsg {x dest m} (h : s.Canon) : (s.sendMsg x dest m).Canon := h.postMsg

theorem Canon.sendPart {x dest win off m bs} (h : s.Canon) : (s.sendPart x dest win off m bs).Canon := h.post

theorem Canon.collDraw {x d me lines} (h : s.Canon) : (s.collDraw x d me lines).2.Canon := by
  unfold State.collDraw
  split
  · exact h
  · split
    · exact h.modChunk
    · split
      · exact h
      · exact .snd (.ite h.sluiceGo h.sluiceGo.modChunk)

theorem Canon.blockTime {d k src areas} (h : s.Canon) : (s.blockTime d k src areas).2.Canon := by
  unfold State.blockTime
  split
  rename_i e1
  refine .of_eqSnd ?_ e1
  refine .foldlSnd h ?_
  rintro ⟨_, s2⟩ a (h2 : s2.Canon)
  dsimp only
  exact h2.loadLine

theorem Canon.startBlock {x l k} (h : s.Canon) : (s.startBlock x l k).Canon := by
  unfold State.startBlock
  extract_lets -merge +onlyGivenNames d
  split
  rename_i s1 e1
  have h1 : s1.Canon := by
    refine .of_eqSnd ?_ e1
    split
    · exact h
    · extract_lets -merge +onlyGivenNames src
      split
      rename_i s2 e2
      have h2 : s2.Canon := .of_eqSnd h.ctxRead e2
      exact h2.devPut.modChunk
  split
  rename_i s2 e2
  have h2 : s2.Canon := .of_eqSnd h1.blockTime e2
  exact h2.after

theorem Canon.dispatchReduce {x} (h : s.Canon) : (s.dispatchReduce x).Canon := by
  unfold State.dispatchReduce
  split
  · split
    · exact h
    · extract_lets lines s1
      have h1 : s1.Canon := h.modChunk
      split
      · rename_i e2
        exact .of_eqSnd h1.collDraw e2
      · rename_i s2 e2
        have h2 : s2.Canon := .of_eqSnd h1.collDraw e2
        exact h2.startBlock
  · exact h

theorem Canon.armChunk {k c z} (h : s.Canon) : (s.armChunk k c z).Canon := h.at_.at_

theorem Canon.chunkCheck {ctx rcb c} (h : s.Canon) : (s.chunkCheck ctx rcb c).Canon := by
  unfold State.chunkCheck
  split
  · exact .ite h (.dispatchReduce (.ite h h.modChunk.armChunk))
  · exact h

theorem Canon.dispatchWaiting (h : s.Canon) : (s.dispatchWaiting).Canon := h.foldl fun _ _ h => h.dispatchReduce

theorem Canon.firesDue (h : s.Canon) : (s.firesDue).Canon := h.foldl fun _ _ h => h.modChunk.chunkCheck

theorem Canon.fire {g c stamp at_ after} (h : s.Canon) : (s.fire g c stamp at_ after).Canon := h.modGroup.modChunk.firesDue

theorem Canon.wakeColl {ctx} (h : s.Canon) : (s.wakeColl ctx).Canon := h.wakeWhere

theorem Canon.resultArrives {x l k alt v} (h : s.Canon) : (s.resultArrives x l k alt v).Canon :=
  .ite h (.ite (.foldl h fun _ _ h => h.sendPart) (.wakeColl (.modChunk (.ctxStore (.foldl h fun _ _ h => h.sendPart)))))

theorem Canon.takeResult {x l k alt v} (h : s.Canon) : (s.takeResult x l k alt v).Canon := by
  unfold State.takeResult
  extract_lets d
  split
  · rename_i s1 e1
    have h1 : s1.Canon := .of_eqSnd h.collDraw e1
    exact h1.resultArrives
  · rename_i e1
    exact .of_eqSnd h.collDraw e1

theorem Canon.decideCommit {x} (h : s.Canon) : (s.decideCommit x).2.Canon := by
  unfold State.decideCommit
  split
  · exact h
  · exact h.modChunk

theorem Canon.reduceBlockEnd {coll c} (h : s.Canon) : (reduceBlockEnd coll c s).Canon := by
  unfold Machine.reduceBlockEnd
  split
  · exact h
  · split
    · exact h
    · split
      · exact h.modChunk.startBlock
      · extract_lets n v s1 s2 y parent
        have h1 : s1.Canon := h.modChunk
        have h2 : s2.Canon := h1.dispatchWaiting
        split
        · exact h2.sendPart
        · split
          · exact h2.takeResult
          · split
            · split
              · rename_i s3 e3
                have h3 : s3.Canon := .of_eqSnd h2.decideCommit e3
                exact h3.takeResult
              · rename_i e3
                exact .of_eqSnd h2.decideCommit e3
            · exact h2.sendMsg

theorem Canon.childPartialArrival {coll c child ctx alt bytes} (h : s.Canon) :
    (childPartialArrival coll c child ctx alt bytes s).Canon := by
  unfold Machine.childPartialArrival
  split
  · exact h
  · split
    · exact h.modChunk
    · split
      · exact h
      · extract_lets pa d
        split
        rename_i s1 e1
        have h1 : s1.Canon := .of_eqSnd h.collDraw e1
        exact .ite h1 (.chunkCheck (.modChunk (.setReg (.foldl h1.devPut fun _ _ h => h.heat))))

theorem Canon.commitRequest {coll c rank} (h : s.Canon) : (commitRequest coll c rank s).Canon := by
  unfold Machine.commitRequest
  split
  · exact h
  · split
    rename_i s1 e1
    have h1 : s1.Canon := .of_eqSnd h.decideCommit e1
    exact h1.sendMsg

theorem Canon.broadcastArrival {coll c alt bytes} (h : s.Canon) : (broadcastArrival coll c alt bytes s).Canon := by
  unfold Machine.broadcastArrival
  split
  · exact h
  · exact h.takeResult

theorem Canon.redoRequest {coll c} (h : s.Canon) : (redoRequest coll c s).Canon := by
  unfold Machine.redoRequest
  split
  · exact h
  · exact .ite h (.ite h.after h.sendMsg)

theorem Canon.redoHere {x k} (h : s.Canon) : (s.redoHere x k).Canon := .chunkCheck (.bump (.foldl h.cancel.modChunk fun _ _ h => h.after))

theorem Canon.redo {coll c} (h : s.Canon) : (redo coll c s).Canon := by
  unfold Machine.redo
  split
  · exact h
  · exact .ite h (.ite (.ite h (.redoHere (.foldl h fun _ _ h => h.sendMsg))) h.redoHere)

theorem Canon.collectiveFail {coll c} (h : s.Canon) : (collectiveFail coll c s).Canon := by
  unfold Machine.collectiveFail
  split
  · exact h
  · exact .ite h h.modChunk.bump.unitRec.wakeColl

theorem Canon.noticeArrives {coll c kind rank} (h : s.Canon) : (s.noticeArrives coll c kind rank).Canon := by
  unfold State.noticeArrives
  split
  · exact h.after
  · split
    · exact h.takeResult
    · exact h
  · exact h
  · exact h.after

theorem Canon.controlMessage {m} (h : s.Canon) : (controlMessage m s).Canon := by
  unfold Machine.controlMessage
  split
  · exact h.foldl fun _ _ h => h.after
  · exact h.after
  · exact h.noticeArrives
  · exact h.after
  · exact h.after

theorem Canon.execReduceBlockEnd (h : s.Canon) : NextCanon (execReduceBlockEnd s) := by
  unfold Machine.execReduceBlockEnd
  split
  · exact .next h.upd.reduceBlockEnd
  · exact .fault

theorem Canon.execChildPartialArrival (h : s.Canon) : NextCanon (execChildPartialArrival s) := by
  unfold Machine.execChildPartialArrival
  split
  · exact .next h.upd.childPartialArrival
  · exact .fault

theorem Canon.execCommitRequest (h : s.Canon) : NextCanon (execCommitRequest s) := by
  unfold Machine.execCommitRequest
  split
  · exact .next h.upd.commitRequest
  · exact .fault

theorem Canon.execBroadcastArrival (h : s.Canon) : NextCanon (execBroadcastArrival s) := by
  unfold Machine.execBroadcastArrival
  split
  · exact .next h.upd.broadcastArrival
  · exact .fault

theorem Canon.execRedoRequest (h : s.Canon) : NextCanon (execRedoRequest s) := by
  unfold Machine.execRedoRequest
  split
  · exact .next h.upd.redoRequest
  · exact .fault

theorem Canon.execRedo (h : s.Canon) : NextCanon (execRedo s) := by
  unfold Machine.execRedo
  split
  · exact .next h.upd.redo
  · exact .fault

theorem Canon.execCollectiveFail (h : s.Canon) : NextCanon (execCollectiveFail s) := by
  unfold Machine.execCollectiveFail
  split
  · exact .next h.upd.collectiveFail
  · exact .fault

theorem Canon.execControlMessage (h : s.Canon) : NextCanon (execControlMessage s) := by
  unfold Machine.execControlMessage
  split
  · exact .next h.upd.controlMessage
  · exact .fault

theorem Canon.chunkEntry {g} (h : s.Canon) : (s.chunkEntry g).2.Canon := by
  unfold State.chunkEntry
  split
  · exact h
  · split
    · exact h
    · split
      · exact h
      · split <;> rename_i e1 <;> exact .of_eqSnd h.recBytes e1

theorem Canon.coFireBody {x} (h : s.Canon) : (coFireBody x s).s.Canon := by
  unfold Machine.coFireBody
  extract_lets c g
  split
  rename_i s1 e1
  have h1 : s1.Canon := .of_eqSnd h.chunkEntry e1
  split
  · exact h1.trapAll
  · exact .ok (.fire (.foldlSnd h1 fun _ _ h => h.modDie.snd))

theorem Canon.execCoFire {h' o} (h : s.Canon) : NextCanon (execCoFire h' o s) := h.issueWord fun _ _ h => h.coFireBody

theorem Canon.ackResults {rcb cs} {x : Env} (h : s.Canon) : (x.ackResults rcb cs s).Canon := h.acquireDrop.modLanes

theorem Canon.coAckBody {x} (h : s.Canon) : (coAckBody x s).s.Canon := by
  unfold Machine.coAckBody
  extract_lets c g
  split
  · exact h.trapAll
  · split
    · exact h.ackResults.putOne.ok
    · exact h.waitAll

theorem Canon.execCoAck {h' o} (h : s.Canon) : NextCanon (execCoAck h' o s) := h.issueWord fun _ _ h => h.coAckBody

theorem Canon.coAckAllBody {x} (h : s.Canon) : (coAckAllBody x s).s.Canon := by
  unfold Machine.coAckAllBody
  extract_lets -merge +onlyGivenNames g n
  split
  · exact h.trapAll
  · extract_lets -merge +onlyGivenNames sts
    split
    · exact h.ackResults.putOne.ok
    · exact h.waitAll

theorem Canon.execCoAckAll {h' o} (h : s.Canon) : NextCanon (execCoAckAll h' o s) := h.issueWord fun _ _ h => h.coAckAllBody

theorem Canon.coStatBody {x} (h : s.Canon) : (coStatBody x s).s.Canon := by
  unfold Machine.coStatBody
  extract_lets c g
  split
  · exact h.trapAll
  · exact h.putOne.ok

theorem Canon.execCoStat {h' o} (h : s.Canon) : NextCanon (execCoStat h' o s) := h.issueWord fun _ _ h => h.coStatBody

theorem Canon.exitFire {g stamp at_ r} (h : s.Canon) : (s.exitFire g stamp at_ r).Canon := by
  unfold State.exitFire
  split
  rename_i s1 e1
  have h1 : s1.Canon := .of_eqSnd h.chunkEntry e1
  split
  · exact h1
  · exact .ite h1 (.ite h1.pushRec h1.fire)

/-! ### Class 12 and the matrix engines: job records, the job queue, bit-plane arithmetic, B stores and their events (R302 to R328) -/

theorem Canon.jobSlot {d g w} (h : s.Canon) : (s.jobSlot d g w).2.2.Canon := by
  unfold State.jobSlot
  split
  · exact h
  · split
    · split
      · exact h
      · split
        rename_i e1
        exact .of_eqSnd h.readSlot e1
    · split
      rename_i e1
      exact .of_eqSnd h.readSlot e1

theorem Canon.checkJob {d g w} (h : s.Canon) : (s.checkJob d g w).2.Canon := by
  unfold State.checkJob
  split
  rename_i s1 e1
  have h1 : s1.Canon := .of_eqSndSnd h.jobSlot e1
  extract_lets -merge +onlyGivenNames slot toHandle h ovr
  split
  · exact h1
  · split
    · exact h1
    · split
      · exact h1
      · split
        · exact h1
        · extract_lets -merge +onlyGivenNames e
          split
          · exact h1
          · split
            · exact h1
            · split
              · split <;> exact h1
              · exact h1

theorem Canon.postJob {t m g w slot layout tiles} (h : s.Canon) : (s.postJob t m g w slot layout tiles).Canon := by
  unfold State.postJob
  split
  rename_i s1 e1
  have h1 : s1.Canon := .of_eqSnd h.release e1
  split
  rename_i s2 e2
  have h2 : s2.Canon := by
    refine .of_eqSnd ?_ e2
    split
    · exact h1.modGroup.snd
    · exact h1
  exact .modCluster (.ite h2.modGroup.modHandle (.ite h2.modGroup.modHandle h2.modGroup))

theorem Canon.envPost {w} {x : Env} (h : s.Canon) : (x.post w s).s.Canon := by
  unfold Env.post
  split
  · rename_i s1 e1
    have h1 : s1.Canon := .of_eqSnd h.checkJob e1
    exact h1.team
  · rename_i s1 e1
    have h1 : s1.Canon := .of_eqSnd h.checkJob e1
    exact h1.waitAll
  · rename_i s1 e1
    have h1 : s1.Canon := .of_eqSnd h.checkJob e1
    exact h1.postJob.ok

theorem Canon.shortBody {x} (h : s.Canon) : (shortBody x s).s.Canon := h.envPost

theorem Canon.execMxLdb {h' o} (h : s.Canon) : NextCanon (execMxLdb h' o s) := h.issueWord fun _ _ h => h.shortBody

theorem Canon.execMxMma {h' o} (h : s.Canon) : NextCanon (execMxMma h' o s) := h.issueWord fun _ _ h => h.shortBody

theorem Canon.execMxGmma {h' o} (h : s.Canon) : NextCanon (execMxGmma h' o s) := h.issueWord fun _ _ h => h.shortBody

theorem Canon.execMxRd {h' o} (h : s.Canon) : NextCanon (execMxRd h' o s) := h.issueWord fun _ _ h => h.shortBody

theorem Canon.execMxClr {h' o} (h : s.Canon) : NextCanon (execMxClr h' o s) := h.issueWord fun _ _ h => h.shortBody

theorem Canon.mxPostBody {x} (h : s.Canon) : (mxPostBody x s).s.Canon := by
  unfold Machine.mxPostBody
  extract_lets s1
  have h1 : s1.Canon := h
  split
  rename_i s2 e2
  have h2 : s2.Canon := .of_eqSndSnd h1.check e2
  split
  · exact h2.team
  · exact h2.waitAll
  · extract_lets data a s3
    have h3 : s3.Canon := h2.modLane
    split
    rename_i s4 e4
    have h4 : s4.Canon := by
      refine .of_eqSnd ?_ e4
      split
      · exact h3.sluice
      · exact h3
    split
    · exact h4.waitAll
    · split
      rename_i s5 e5
      have h5 : s5.Canon := .of_eqSnd h4.touchLoad e5
      exact h5.noteOver.after.waitAll

theorem Canon.execMxPost {h' o} (h : s.Canon) : NextCanon (execMxPost h' o s) := h.issueWord fun _ _ h => h.mxPostBody

theorem Canon.postTurn {a i tm m} (h : s.Canon) : (s.postTurn a i tm m).Canon := by
  unfold State.postTurn
  extract_lets t back
  split
  · exact h.modLanes.waitLanes.after
  · split
    · rename_i s1 e1
      have h1 : s1.Canon := .of_eqSnd h.checkJob e1
      exact h1.modLanes.raise
    · rename_i s1 e1
      have h1 : s1.Canon := .of_eqSnd h.checkJob e1
      exact h1.modLanes.waitLanes
    · rename_i s1 e1
      have h1 : s1.Canon := .of_eqSnd h.checkJob e1
      exact h1.postJob

theorem Canon.postRead {a r m} (h : s.Canon) : (s.postRead a r m).Canon := by
  unfold State.postRead
  split
  · exact h
  · extract_lets -merge +onlyGivenNames due g p again
    have hagain : ∀ m n s, State.Canon s → (again m n s).Canon := fun _ _ _ h => h.waitLanes.after
    clear_value again
    split
    · exact hagain _ _ _ h.touchLoad.noteOver
    · split
      · exact h.upd.postTurn
      · extract_lets -merge +onlyGivenNames m
        split
        · exact h
        · split
          · exact hagain _ _ _ h
          · extract_lets -merge +onlyGivenNames bad
            cases bad with
            | some b => exact h.meetError.raise
            | none =>
              dsimp only
              split
              · rename_i s1 e1
                exact (of_eqSnd h.placeBytes.checkJob e1).raise
              · rename_i s1 e1
                exact (of_eqSnd h.placeBytes.checkJob e1).waitLanes
              · rename_i s1 e1
                exact (of_eqSnd h.placeBytes.checkJob e1).upd.passLanes

theorem Canon.memoryAccessPerform {a} (h : s.Canon) : (memoryAccessPerform a s).Canon := by
  unfold Machine.memoryAccessPerform
  split
  · exact h.postRead
  · exact h.runLines
  · exact .ite h.touchStore.devPutVal h.touchLoad.meetError.upd

theorem Canon.execMemoryAccessPerform (h : s.Canon) : NextCanon (execMemoryAccessPerform s) := by
  unfold Machine.execMemoryAccessPerform
  split
  · exact .ite (.next h.upd.memoryAccessPerform) .fault
  · exact .fault

theorem Canon.mxRingBody {x} (h : s.Canon) : (mxRingBody x s).s.Canon := h.modHandle.ok

theorem Canon.execMxRing {h' o} (h : s.Canon) : NextCanon (execMxRing h' o s) := h.issueWord fun _ _ h => h.mxRingBody

theorem Canon.mxStatBody {x} (h : s.Canon) : (mxStatBody x s).s.Canon := .ok (.putOne (.ite h.modGroup h))

theorem Canon.execMxStat {h' o} (h : s.Canon) : NextCanon (execMxStat h' o s) := h.issueWord fun _ _ h => h.mxStatBody

theorem Canon.engRead {j x n} (h : s.Canon) : (s.engRead j x n).2.Canon := by
  unfold State.engRead
  split <;> rename_i e1 <;> exact .of_eqSnd h.elemRead e1

theorem Canon.engReads {e j n xs} (h : s.Canon) : (s.engReads e j n xs).2.Canon := by
  induction xs generalizing s with
  | nil => exact h
  | cons x xs ih =>
    rw [State.engReads]
    split
    · rename_i s1 e1
      exact .of_eqSnd h.engRead e1
    · rename_i s1 e1
      have h1 : s1.Canon := .of_eqSnd h.engRead e1
      split <;> rename_i s2 e2 <;> exact .of_eqSnd (ih h1) e2

theorem Canon.engScale {_e j q0 q1} (h : s.Canon) : (s.engScale _e j q0 q1).2.Canon := by
  unfold State.engScale
  extract_lets -merge +onlyGivenNames r f
  split
  · exact h
  · split
    · exact h
    · extract_lets -merge +onlyGivenNames ix n
      split <;> rename_i e1 <;> exact .of_eqSnd h.engRead e1

theorem Canon.modSet {j f} (h : s.Canon) : (s.modSet j f).Canon := h.modCluster

theorem Canon.aBlock {e j x blk} (h : s.Canon) : (s.aBlock e j x blk).2.Canon := by
  unfold State.aBlock
  extract_lets r
  split
  · exact h
  · split
    · rename_i e1
      exact .of_eqSnd h.engReads e1
    · rename_i s1 e1
      have h1 : s1.Canon := .of_eqSnd h.engReads e1
      extract_lets av
      split <;> rename_i e2 <;> exact .of_eqSnd h1.engScale e2

theorem Canon.aBlocks {e j x bs} (h : s.Canon) : (s.aBlocks e j x bs).2.Canon := by
  induction bs generalizing s with
  | nil => exact h
  | cons b bs ih =>
    rw [State.aBlocks]
    split
    · rename_i s1 e1
      exact .of_eqSnd h.aBlock e1
    · rename_i s1 e1
      have h1 : s1.Canon := .of_eqSnd h.aBlock e1
      split <;> rename_i s2 e2 <;> exact .of_eqSnd (ih h1) e2

theorem Canon.mmaRow {e j r} (h : s.Canon) : (s.mmaRow e j r).2.Canon := by
  unfold State.mmaRow
  extract_lets w
  split
  rename_i s1 e1
  have h1 : s1.Canon := by
    refine .of_eqSnd ?_ e1
    split
    · exact h.engRead
    · exact h
  split
  · exact h1
  · split
    · rename_i e2
      exact .of_eqSnd h1.aBlocks e2
    · rename_i s2 e2
      have h2 : s2.Canon := .of_eqSnd h1.aBlocks e2
      exact h2.modSet.snd

theorem Canon.ldbBlock {e j engs blk} (h : s.Canon) : (s.ldbBlock e j engs blk).2.Canon := by
  unfold State.ldbBlock
  extract_lets w ns
  split
  · rename_i e1
    exact .of_eqSnd h.engReads e1
  · rename_i s1 e1
    have h1 : s1.Canon := .of_eqSnd h.engReads e1
    split
    rename_i s2 e2
    have h2 : s2.Canon := by
      refine .of_eqSnd ?_ e2
      refine .foldlSnd h1 ?_
      rintro ⟨_, s3⟩ a (h3 : s3.Canon)
      split
      · rename_i e4
        exact .of_eqSnd h3 e4
      · rename_i s4 e4
        have h4 : s4.Canon := .of_eqSnd h3 e4
        split <;> rename_i e5 <;> exact .of_eqSnd h4.engScale e5
    split
    · exact h2
    · exact .snd (.foldl h2 fun _ _ h => h.modEngine)

theorem Canon.rdWrite {j is lat m} (h : s.Canon) : (s.rdWrite j is lat m).2.Canon := by
  induction is generalizing s lat m with
  | nil => exact h
  | cons i is ih =>
    rw [State.rdWrite]
    dsimp only
    split
    · rename_i s1 e1
      exact .of_eqSndSndSnd h.elemWrite e1
    · rename_i s1 e1
      have h1 : s1.Canon := .of_eqSndSndSnd h.elemWrite e1
      exact ih (.ite h1.modHandle h1)

theorem Canon.jobStep {e r i} (h : s.Canon) : (s.jobStep e r i).2.Canon := by
  unfold State.jobStep
  extract_lets -merge +onlyGivenNames j w done
  split
  · exact h.mmaRow.snd
  · exact h.mmaRow.snd
  · exact h.ldbBlock.snd
  · extract_lets -merge +onlyGivenNames es
    split
    · rename_i e1
      exact .of_eqSnd h.rdWrite e1
    · rename_i s1 e1
      have h1 : s1.Canon := .of_eqSnd h.rdWrite e1
      exact .ite h1.after h1
  · exact h.modSet

theorem Canon.sitesTime {j xs} (h : s.Canon) : (s.sitesTime j xs).2.Canon := by
  unfold State.sitesTime
  refine .foldlSnd h ?_
  rintro ⟨_, s1⟩ a (h1 : s1.Canon)
  dsimp only
  exact h1.siteLat

theorem Canon.stepLat {r i} (h : s.Canon) : (s.stepLat r i).2.Canon := by
  unfold State.stepLat
  extract_lets j
  split
  rename_i s1 e1
  have h1 : s1.Canon := by
    refine .of_eqSnd ?_ e1
    split
    · exact h.siteLat
    · exact h
  split
  rename_i s2 e2
  have h2 : s2.Canon := by
    refine .of_eqSnd ?_ e2
    split
    · exact h1.sitesTime
    · exact h1
  exact h2.sitesTime

theorem Canon.firstLine {j} (h : s.Canon) : (s.firstLine j).2.Canon := by
  unfold State.firstLine
  split
  · exact h.siteLat
  · exact h

theorem Canon.setRun {d c es r} (h : s.Canon) : (s.setRun d c es r).Canon := h.foldl fun _ _ h => h.modEngine

theorem Canon.setBusy {d c es n} (h : s.Canon) : (s.setBusy d c es n).Canon := h.foldl fun _ _ h => h.modEngine

theorem Canon.switchStore {d ix} (h : s.Canon) : (s.switchStore d ix).Canon := by
  unfold State.switchStore
  split
  · exact h
  · exact .ite h.modEngine h.modEngine.setFld

theorem Canon.startJob {d c es j} (h : s.Canon) : (s.startJob d c es j).Canon := by
  unfold State.startJob
  extract_lets -merge +onlyGivenNames w s1
  have h1 : s1.Canon := h.foldl fun _ _ h => h.switchStore
  split
  rename_i s2 e2
  have h2 : s2.Canon := .of_eqSnd h1.firstLine e2
  extract_lets -merge +onlyGivenNames re up s3 s4 r me s5
  have h3 : s3.Canon := by
    unfold s3
    split
    · exact h2
    · split
      · exact h2.modCluster
      · exact h2
  have h4 : s4.Canon := .ite h3.modSet h3
  have h5 : s5.Canon := h4.noteSites
  exact h5.setRun.setBusy.after.at_

theorem Canon.jobReadsEnd {j ring engine} (h : s.Canon) : (s.jobReadsEnd j ring engine).Canon := by
  unfold State.jobReadsEnd
  extract_lets -merge +onlyGivenNames w
  split
  · extract_lets -merge +onlyGivenNames s1
    have h1 : s1.Canon := .ite h h.setHandle
    split
    · exact h1.after
    · exact h1
  · exact h

theorem Canon.jobEnd {j errs wrote} (h : s.Canon) : (s.jobEnd j errs wrote).Canon := by
  unfold State.jobEnd
  extract_lets s1 s2
  have h1 : s1.Canon := h.foldl fun _ _ h => h.modGroup
  have h2 : s2.Canon := h1.foldl fun _ _ h => h.pipeDone
  split
  · exact h2.at_
  · exact h2

theorem Canon.jobTurn {d c e n} (h : s.Canon) : (s.jobTurn d c e n).Canon := by
  induction n generalizing s with
  | zero => exact h
  | succ n ih =>
    rw [State.jobTurn]
    split
    · exact h
    · split
      · exact h
      · dsimp only
        split
        · exact h.modCluster.startJob
        · exact ih h.modCluster.bump.modCluster
        · exact ih h.modCluster.jobEnd.jobReadsEnd

theorem Canon.jobStart {d c e} (h : s.Canon) : (jobStart d c e s).Canon := h.jobTurn

theorem Canon.stopJob {d c r check addr} (h : s.Canon) : (s.stopJob d c r check addr).Canon := h.setRun.unitRec

theorem Canon.countBusy {d c r} (h : s.Canon) : (s.countBusy d c r).Canon := by
  unfold State.countBusy
  refine .setBusy ?_
  refine .foldl h fun s1 a h => ?_
  split
  · exact h.bump
  · exact h

theorem Canon.finishJob {d c r more} (h : s.Canon) : (s.finishJob d c r more).Canon :=
  have h1 := (Canon.ite h.modSet h).countBusy.foldl fun _ _ h => h.modEngine.bump
  .after (.ite h1.jobEnd h1.modEngine.at_)

theorem Canon.stepBegin {d c r} (h : s.Canon) : (s.stepBegin d c r).Canon := by
  unfold State.stepBegin
  extract_lets -merge +onlyGivenNames me
  split
  · exact h.countBusy.setRun
  · split
    rename_i s1 e1
    have h1 : s1.Canon := by
      refine .of_eqSnd ?_ e1
      split
      · exact h
      · exact h.sluice
    split
    · exact h1.setRun
    · extract_lets -merge +onlyGivenNames cyc
      split
      rename_i s2 e2
      have h2 : s2.Canon := .of_eqSnd h1.stepLat e2
      exact h2.noteSites.setRun.at_

theorem Canon.beginJob {d c r} (h : s.Canon) : (s.beginJob d c r).Canon := .setRun (.ite h.setHandle h)

theorem Canon.endJobs {d ix} (h : s.Canon) : (s.endJobs d ix).Canon := h.modEngine.foldl fun _ _ h => h.jobEnd

theorem Canon.jobComplete {d c e} (h : s.Canon) : (jobComplete d c e s).Canon := by
  unfold Machine.jobComplete
  extract_lets s1
  have h1 : s1.Canon := h.endJobs
  split
  · exact h1
  · split
    · exact h1.beginJob
    · split
      · exact h1
      · split
        · exact h1.stepBegin
        · split
          · rename_i s2 e2
            have h2 : s2.Canon := .of_eqSnd h1.jobStep e2
            exact h2.setRun.after
          · rename_i s2 _ e2
            have h2 : s2.Canon := .of_eqSnd h1.jobStep e2
            exact h2.stopJob
          · rename_i s2 e2
            have h2 : s2.Canon := .of_eqSnd h1.jobStep e2
            exact .ite (.finishJob (.ite h2.noteSites h2)) (.stepBegin (.ite h2.noteSites h2))

theorem Canon.resumeRun {d c r} (h : s.Canon) : (s.resumeRun d c r).Canon := .after (.setRun (.foldl h fun _ _ h => h.modEngine))

theorem Canon.jobLastRead {d c e} (h : s.Canon) : (jobLastRead d c e s).Canon := by
  unfold Machine.jobLastRead
  split
  · exact h
  · exact h.modEngine.jobReadsEnd

theorem Canon.engineArrival {g b engine stamp} (h : s.Canon) : (engineArrival g b engine stamp s).Canon := h.atBar

theorem Canon.engineReply {d ix retry} (h : s.Canon) : (s.engineReply d ix retry).Canon := by
  unfold State.engineReply
  split
  · exact h
  · exact .ite h (.ite h.resumeRun h.finishJob)

theorem Canon.selfTest {d ix failed} (h : s.Canon) : (selfTest d ix failed s).Canon := by
  unfold Machine.selfTest
  split
  · exact h
  · extract_lets s1 s2 s3 s4 rec0 rec1
    have h1 : s1.Canon := h.modEngine
    have h2 : s2.Canon := h1.bump
    have h3 : s3.Canon := by
      unfold s3
      split
      · exact h2.modGroup
      · exact h2
    have h4 : s4.Canon := h3.raiseEvent.modDie
    exact h4.upd

theorem Canon.storeImage {addr n} (h : s.Canon) : (s.storeImage addr n).2.Canon := by
  unfold State.storeImage
  refine .foldlSnd h ?_
  rintro ⟨_, s1⟩ a (h1 : s1.Canon)
  dsimp only
  split
  · rename_i e2
    exact .of_eqSnd h1.physGet e2
  · rename_i s2 e2
    have h2 : s2.Canon := .of_eqSnd h1.physGet e2
    exact h2.upd

theorem Canon.controlStoreLoad {d} (h : s.Canon) : (controlStoreLoad d s).Canon := by
  unfold Machine.controlStoreLoad
  extract_lets -merge +onlyGivenNames go addr n
  split
  · exact h
  · split
    · exact h.setFld
    · extract_lets -merge +onlyGivenNames v es s1
      have h1 : s1.Canon := h.setFld.setFld
      split
      rename_i s2 e2
      have h2 : s2.Canon := .of_eqSnd h1.storeImage e2
      exact h2.foldl fun _ _ h => h.modEngine

theorem Canon.execJobStart (h : s.Canon) : NextCanon (execJobStart s) := by
  unfold Machine.execJobStart
  split
  · exact .ite (.next h.upd.jobStart) .fault
  · exact .fault

theorem Canon.execJobComplete (h : s.Canon) : NextCanon (execJobComplete s) := by
  unfold Machine.execJobComplete
  split
  · exact .ite (.next h.upd.jobComplete) .fault
  · exact .fault

theorem Canon.execJobLastRead (h : s.Canon) : NextCanon (execJobLastRead s) := by
  unfold Machine.execJobLastRead
  split
  · exact .ite (.next h.upd.jobLastRead) .fault
  · exact .fault

theorem Canon.execEngineArrival (h : s.Canon) : NextCanon (execEngineArrival s) := by
  unfold Machine.execEngineArrival
  split
  · exact .next h.upd.engineArrival
  · exact .fault

theorem Canon.execSelfTest (h : s.Canon) : NextCanon (execSelfTest s) := by
  unfold Machine.execSelfTest
  split
  · exact .ite (.next h.upd.selfTest) .fault
  · exact .fault

theorem Canon.execControlStoreLoad (h : s.Canon) : NextCanon (execControlStoreLoad s) := by
  unfold Machine.execControlStoreLoad
  split
  · exact .ite (.next h.upd.controlStoreLoad) .fault
  · exact .fault

/-! ### Class 13, operations 24 to 26: tasks, the ready queue and shadow task slots (R42 to R44, R80 to R82, R378 to R381, R387, R388,
R468, R469, R480) -/

theorem Canon.taskWords {d ctx n} (h : s.Canon) : (s.taskWords d ctx n).2.Canon := by
  unfold State.taskWords
  extract_lets base
  split <;> rename_i e1 <;> exact .of_eqSnd h.ctxWords e1

theorem Canon.taskEntry {d ctx n} (h : s.Canon) : (s.taskEntry d ctx n).2.Canon := by
  unfold State.taskEntry
  split <;> rename_i e1 <;> exact .of_eqSnd h.taskWords e1

theorem Canon.modTask {ctx n f} (h : s.Canon) : (s.modTask ctx n f).Canon := h.modCtx

theorem Canon.namesCont {d ctx ms} (h : s.Canon) : (s.namesCont d ctx ms).2.Canon := by
  unfold State.namesCont
  refine .foldlSnd h ?_
  rintro ⟨_, s1⟩ a (h1 : s1.Canon)
  dsimp only
  split
  · exact h1
  · split <;> rename_i e2 <;> exact .of_eqSnd h1.taskWords e2

theorem Canon.contEntry {d ctx n} (h : s.Canon) : (s.contEntry d ctx n).2.Canon := by
  unfold State.contEntry
  split
  · exact h
  · split
    · rename_i s1 e1
      have h1 : s1.Canon := .of_eqSnd h.taskEntry e1
      exact h1.modCtx.snd
    · rename_i e1
      exact .of_eqSnd h.taskEntry e1

theorem Canon.chainWalk {d ctx fuel x acc} (h : s.Canon) : (chainWalk d ctx fuel x acc s).2.Canon := by
  induction fuel generalizing s x acc with
  | zero => exact h
  | succ fuel ih =>
    rw [Machine.chainWalk]
    split
    rename_i s1 e1
    have h1 : s1.Canon := .of_eqSnd h.namesCont e1
    split
    · exact h1
    · split
      · exact h1
      · split
        · rename_i s2 e2
          exact .of_eqSnd h1.contEntry e2
        · rename_i s2 e2
          exact ih (.of_eqSnd h1.contEntry e2)

theorem Canon.writeBack {d ctx t st} (h : s.Canon) : (s.writeBack d ctx t st).Canon := by
  unfold State.writeBack
  split
  · exact h
  · extract_lets a
    split
    · rename_i e1
      exact .of_eqSnd h.recWords e1
    · rename_i s1 e1
      have h1 : s1.Canon := .of_eqSnd h.recWords e1
      exact h1.recWrite.recWrite

theorem Canon.enqueueTask {ctx n} (h : s.Canon) : (s.enqueueTask ctx n).Canon := by
  unfold State.enqueueTask
  split
  · exact h
  · exact h.modTask.modCtx

theorem Canon.returnTask {ctx n} (h : s.Canon) : (s.returnTask ctx n).Canon := by
  unfold State.returnTask
  split
  · exact h
  · exact h.modTask.modCtx.after

theorem Canon.sendTask {m} (h : s.Canon) : (s.sendTask m).Canon := by
  unfold State.sendTask
  extract_lets ctx
  split
  · exact h
  · exact h.modCtx.after

theorem Canon.answerTask {m fault quad ltime stamp slot} (h : s.Canon) : (s.answerTask m fault quad ltime stamp slot).Canon := by
  unfold State.answerTask
  split
  · exact h
  · exact h.after

theorem Canon.verdict {m fault} (h : s.Canon) : (s.verdict m fault).Canon := by
  unfold State.verdict
  split
  · exact h.answerTask
  · split
    · exact h
    · exact .pushRec (.ite h.bump h)

theorem Canon.postTask {m n ready} (h : s.Canon) : (s.postTask m n ready).2.Canon := by
  unfold State.postTask
  extract_lets ctx g
  split
  rename_i s1 e1
  have h1 : s1.Canon := by
    refine .of_eqSnd ?_ e1
    split
    · exact h
    · exact h.taskEntry
  split
  · exact h1.verdict
  · split
    · exact h1.verdict
    · split
      · exact h1.verdict
      · split
        · exact h1.verdict
        · exact h1.modCtx.formBatchAt.verdict.snd

theorem Canon.finishTask {m t} (h : s.Canon) : (s.finishTask m t).Canon := by
  unfold State.finishTask
  exact h.writeBack.modCtx.modGroup.formBatchAt

theorem Canon.doneTask {m n ready} (h : s.Canon) : (s.doneTask m n ready).2.Canon := by
  unfold State.doneTask
  extract_lets ctx
  split
  · exact h.verdict
  · split
    · exact h.verdict
    · extract_lets fail
      split
      · rename_i s1 e1
        have h1 : s1.Canon := .of_eqSnd h.chainWalk e1
        exact .snd (.ite h1.verdict.finishTask h1.verdict)
      · rename_i s1 e1
        have h1 : s1.Canon := .of_eqSnd h.chainWalk e1
        split
        · exact .snd (.ite h1.verdict.finishTask h1.verdict)
        · exact .snd (.verdict (.finishTask (.foldl h1 fun _ _ h => h.modTask)))

theorem Canon.runTask {g n} (h : s.Canon) : (s.runTask g n).Canon := h.modTask.modGroup

theorem Canon.serveTask {m} (h : s.Canon) : (s.serveTask m).Canon := by
  unfold State.serveTask
  extract_lets ctx keep
  split
  · split
    · exact h
    · split
      · exact h.modCtx
      · split
        · exact h.modCtx
        · extract_lets s1
          have h1 : s1.Canon := h.modCtx
          split
          · exact h1.answerTask
          · exact h1.runTask.answerTask
  · exact h

theorem Canon.taskRequestArrival {ctx} (h : s.Canon) : (taskRequestArrival ctx s).Canon := by
  unfold Machine.taskRequestArrival
  split
  · exact h
  · extract_lets held now s1 s2 isTake acts
    have h1 : s1.Canon := .ite h.after h
    have h2 : s2.Canon := h1.modCtx
    split
    rename_i s3 e3
    have h3 : s3.Canon := by
      refine .of_eqSnd ?_ e3
      refine .foldlSnd h2 ?_
      rintro ⟨_, s4⟩ a (h4 : s4.Canon)
      dsimp only
      split
      · exact h4.postTask
      · exact h4.doneTask
      · exact h4
    exact .ite (.modCtx (.foldl h3 fun _ _ h => h.enqueueTask.bump)) (.foldl (.modCtx (.foldl h3 fun _ _ h => h.enqueueTask.bump))
      fun _ _ h => h.serveTask)

theorem Canon.prefetch {d core ix sh t} (h : s.Canon) : (s.prefetch d core ix sh t).Canon :=
  .ite h.modCore.prefetchFault h.modCore.setHandle.enqueue

theorem Canon.slotAnswer {d core ix n ctx issued} (h : s.Canon) : (s.slotAnswer d core ix n ctx issued).Canon := by
  unfold State.slotAnswer
  split
  · exact h.returnTask
  · split
    · exact h
    · exact h.prefetch

theorem Canon.taskVerdictReturn {r} (h : s.Canon) : (taskVerdictReturn r s).Canon := by
  unfold Machine.taskVerdictReturn
  split
  · exact h.after
  · split
    · exact h.slotAnswer
    · extract_lets m
      split
      · exact h
      · split
        · exact h.raise
        · split
          · exact h.passLanes
          · exact h.modLanes.lanesDrop.passLanes

theorem Canon.shadowSlotTake {d core ix} (h : s.Canon) : (shadowSlotTake d core ix s).Canon := by
  unfold Machine.shadowSlotTake
  split
  · exact h
  · exact .ite h h.modCore.sendTask

theorem Canon.execTaskRequestArrival (h : s.Canon) : NextCanon (execTaskRequestArrival s) := by
  unfold Machine.execTaskRequestArrival
  split
  · exact .next h.upd.taskRequestArrival
  · exact .fault

theorem Canon.execTaskVerdictReturn (h : s.Canon) : NextCanon (execTaskVerdictReturn s) := by
  unfold Machine.execTaskVerdictReturn
  split
  · exact .next h.upd.taskVerdictReturn
  · exact .fault

theorem Canon.execShadowSlotTake (h : s.Canon) : NextCanon (execShadowSlotTake s) := by
  unfold Machine.execShadowSlotTake
  split
  · exact .ite (.next h.upd.shadowSlotTake) .fault
  · exact .fault

theorem Canon.taskRequest {mk} {x : Env} (h : s.Canon) : (x.taskRequest mk s).s.Canon := by
  unfold Env.taskRequest
  extract_lets n
  split
  · exact h.trapAll
  · exact .waitAll (.sendTask (.foldlSnd h fun _ _ h => h.modDie.snd))

theorem Canon.tkPostBody {x} (h : s.Canon) : (tkPostBody x s).s.Canon := h.taskRequest

theorem Canon.tkDoneBody {x} (h : s.Canon) : (tkDoneBody x s).s.Canon := h.taskRequest

theorem Canon.execTkPost {h' o} (h : s.Canon) : NextCanon (execTkPost h' o s) := h.issueWord fun _ _ h => h.tkPostBody

theorem Canon.execTkDone {h' o} (h : s.Canon) : NextCanon (execTkDone h' o s) := h.issueWord fun _ _ h => h.tkDoneBody

theorem Canon.ownSlot {x : Env} {f : Option Shadow → Res} (h : s.Canon) (hf : ∀ y0, (f y0).s.Canon) : (x.ownSlot s f).s.Canon := by
  unfold Env.ownSlot
  split
  · split
    · exact (hf _)
    · exact h.trapAll
  · exact (hf _)

theorem Canon.emptySlot {sh} (h : s.Canon) : (s.emptySlot sh).Canon := by
  unfold State.emptySlot
  split
  · exact h.returnTask
  · exact h

theorem Canon.tkArmBindBody {x} (h : s.Canon) : (tkArmBindBody x s).s.Canon := by
  unfold Machine.tkArmBindBody
  split
  · rename_i s1 e1
    have h1 : s1.Canon := .of_eqSnd h.readSlot e1
    exact h1.trapAll
  · rename_i s1 e1
    have h1 : s1.Canon := .of_eqSnd h.readSlot e1
    exact h1.ownSlot (fun _ => h1.modCore.ok)

theorem Canon.execTkArmBind {h' o} (h : s.Canon) : NextCanon (execTkArmBind h' o s) := h.issueWord fun _ _ h => h.tkArmBindBody

theorem Canon.tkArmUnbindBody {x} (h : s.Canon) : (tkArmUnbindBody x s).s.Canon := by
  unfold Machine.tkArmUnbindBody
  refine .ownSlot h (fun _ => ?_)
  dsimp only
  split
  · exact h.ok
  · exact h.modCore.emptySlot.ok

theorem Canon.execTkArmUnbind {h' o} (h : s.Canon) : NextCanon (execTkArmUnbind h' o s) := h.issueWord fun _ _ h => h.tkArmUnbindBody

theorem Canon.tkArmTakeBody {x} (h : s.Canon) : (tkArmTakeBody x s).s.Canon := by
  unfold Machine.tkArmTakeBody
  refine .ownSlot h (fun _ => ?_)
  dsimp only
  split
  · exact h.waitAll
  · split
    · exact h.modCore.modTask.runTask.after.waitAll
    · exact h.waitAll

theorem Canon.execTkArmTake {h' o} (h : s.Canon) : NextCanon (execTkArmTake h' o s) := h.issueWord fun _ _ h => h.tkArmTakeBody

theorem Canon.tkArmTakeDirectBody {x} (h : s.Canon) : (tkArmTakeDirectBody x s).s.Canon := h.sendTask.waitAll

theorem Canon.execTkArmTakeDirect {h' o} (h : s.Canon) : NextCanon (execTkArmTakeDirect h' o s) :=
  h.issueWord fun _ _ h => h.tkArmTakeDirectBody

theorem Canon.exitTasks {g stamp formed r} (h : s.Canon) : (s.exitTasks g stamp formed r).Canon := h.foldl fun _ _ h => h.sendTask

theorem Canon.exitShadows {g d core} (h : s.Canon) : (s.exitShadows g d core).Canon := .foldl (.ite h h.modCore) fun _ _ h => h.emptySlot

/-! ### The exit of lanes and of groups (R161, R444 to R446) -/

theorem Canon.leaveStage {g stamp key} (h : s.Canon) : (s.leaveStage g stamp key).Canon := by
  unfold State.leaveStage
  extract_lets s1 st
  have h1 : s1.Canon := h.modStage
  split
  · exact .ite h1.modStage.formBatch h1
  · exact h1

theorem Canon.groupExit {g tm lane pc} (h : s.Canon) : (s.groupExit g tm lane pc).Canon :=
  have h1 := h.modDie.modGroup.modPlan.exitSlots.exitTasks.exitShadows
  .bump (.modCore (.leaveStage (.exitFire (.ite h1 h1.modGroup.formBatch))))

theorem Canon.exitLanes {r m pc} (h : s.Canon) : (s.exitLanes r m pc).Canon := by
  unfold State.exitLanes
  extract_lets s1 s2 s3
  have h3 : s3.Canon := h.modTeam.modLanes.modTeam.tryArriveAll
  clear_value s3
  split
  · exact h3
  · split
    · exact .ite h3.groupExit h3
    · exact h3

theorem Canon.freeGroups (h : s.Canon) : (s.freeGroups).Canon := h.foldl fun _ _ h => h.modGroup

/-! ### Class 0: transfers, joins, exit, sleep and overlay frames (R136 to R140, R147, R148, R157 to R164), and the events of issue -/

theorem Canon.execNop {h' o} (h : s.Canon) : NextCanon (execNop h' o s) := h.issueWord fun _ _ h => h

theorem Canon.jumpAll {lat} {x : Env} (h : s.Canon) : (x.jumpAll s lat).s.Canon := h

theorem Canon.execBra {h' o} (h : s.Canon) : NextCanon (execBra h' o s) := h.issueWord fun _ _ h => h.jumpAll

theorem Canon.brxBody {x} (h : s.Canon) : (brxBody x s).s.Canon := .ite h.modLanes h

theorem Canon.execBrx {h' o} (h : s.Canon) : NextCanon (execBrx h' o s) := h.issueWord fun _ _ h => h.brxBody

theorem Canon.execRet {h' o} (h : s.Canon) : NextCanon (execRet h' o s) := h.issueWord fun _ _ h => h.brxBody

theorem Canon.callBody {x} (h : s.Canon) : (callBody x s).s.Canon := h.put.jumpAll

theorem Canon.execCall {h' o} (h : s.Canon) : NextCanon (execCall h' o s) := h.issueWord fun _ _ h => h.callBody

theorem Canon.fjmpBody {x} (h : s.Canon) : (fjmpBody x s).s.Canon := by
  unfold Machine.fjmpBody
  split
  · exact h.all
  · exact h.jumpAll

theorem Canon.execFjmp {h' o} (h : s.Canon) : NextCanon (execFjmp h' o s) := h.issueWord fun _ _ h => h.fjmpBody

theorem Canon.joinBody {x} (h : s.Canon) : (joinBody x s).s.Canon := h.modLanes.modTeam.all

theorem Canon.execJoin {h' o} (h : s.Canon) : NextCanon (execJoin h' o s) := h.issueWord fun _ _ h => h.joinBody

theorem Canon.jsetBody {x} (h : s.Canon) : (jsetBody x s).s.Canon := h.modTeam.ok

theorem Canon.execJset {h' o} (h : s.Canon) : NextCanon (execJset h' o s) := h.issueWord fun _ _ h => h.jsetBody

theorem Canon.jclrBody {x} (h : s.Canon) : (jclrBody x s).s.Canon := h.modTeam.ok

theorem Canon.execJclr {h' o} (h : s.Canon) : NextCanon (execJclr h' o s) := h.issueWord fun _ _ h => h.jclrBody

theorem Canon.joinTest {t} (h : s.Canon) : (s.joinTest t).Canon := h.foldl fun _ _ h => .ite h.modLanes.modTeam.bump h.modLanes.modTeam

theorem Canon.watchdogTick {t} (h : s.Canon) : (s.watchdogTick t).Canon := .ite h.modTeam.after h.modTeam

theorem Canon.watchdogExpiry {t} (h : s.Canon) : (watchdogExpiry t s).Canon := by
  unfold Machine.watchdogExpiry
  split
  · exact h
  · exact h.modTeam.bump.trap

theorem Canon.exitBody {x} (h : s.Canon) : (exitBody x s).s.Canon := h.exitLanes.all

theorem Canon.execExit {h' o} (h : s.Canon) : NextCanon (execExit h' o s) := h.issueWord fun _ _ h => h.exitBody

theorem Canon.yieldBody {x} (h : s.Canon) : (yieldBody x s).s.Canon := h.modTeam.ok

theorem Canon.execYield {h' o} (h : s.Canon) : NextCanon (execYield h' o s) := h.issueWord fun _ _ h => h.yieldBody

theorem Canon.sleepBody {x} (h : s.Canon) : (sleepBody x s).s.Canon := by
  unfold Machine.sleepBody
  split
  · exact h.ok
  · exact h.after.waitAll

theorem Canon.execSleep {h' o} (h : s.Canon) : NextCanon (execSleep h' o s) := h.issueWord fun _ _ h => h.sleepBody

theorem Canon.sleepExpiry {t} (h : s.Canon) : (sleepExpiry t s).Canon := by
  unfold Machine.sleepExpiry
  split
  · exact h
  · exact h.passLanes

theorem Canon.cfetchBody {x} (h : s.Canon) : (cfetchBody x s).s.Canon := by
  unfold Machine.cfetchBody
  extract_lets f g seg woff
  split
  · exact h.all
  · split
    · exact h.all
    · exact h.modGroup.modDie.enqueue.ok

theorem Canon.execCfetch {h' o} (h : s.Canon) : NextCanon (execCfetch h' o s) := h.issueWord fun _ _ h => h.cfetchBody

theorem Canon.cfetchLanded {g f serial} (h : s.Canon) : (cfetchLanded g f serial s).Canon := h.frameState

theorem Canon.prefiBody {x} (h : s.Canon) : (prefiBody x s).s.Canon := by
  unfold Machine.prefiBody
  split
  · exact h.ok
  · exact .ok (.foldl h fun _ _ h => h.fetchAhead)

theorem Canon.execPrefi {h' o} (h : s.Canon) : NextCanon (execPrefi h' o s) := h.issueWord fun _ _ h => h.prefiBody

theorem Canon.lookaheadResult {t m pc} (h : s.Canon) : (lookaheadResult t m pc s).Canon := h.modTeam.modLanes

theorem Canon.execQuadIssue (h : s.Canon) : NextCanon (execQuadIssue s) := by
  unfold Machine.execQuadIssue
  split
  · exact .ite (.next h.upd.quadIssue) .fault
  · exact .fault

theorem Canon.execWatchdogExpiry (h : s.Canon) : NextCanon (execWatchdogExpiry s) := by
  unfold Machine.execWatchdogExpiry
  split
  · exact .next h.upd.watchdogExpiry
  · exact .fault

theorem Canon.execSleepExpiry (h : s.Canon) : NextCanon (execSleepExpiry s) := by
  unfold Machine.execSleepExpiry
  split
  · exact .next h.upd.sleepExpiry
  · exact .fault

theorem Canon.execLookaheadResult (h : s.Canon) : NextCanon (execLookaheadResult s) := by
  unfold Machine.execLookaheadResult
  split
  · exact .next h.upd.lookaheadResult
  · exact .fault

theorem Canon.execIcacheFill (h : s.Canon) : NextCanon (execIcacheFill s) := by
  unfold Machine.execIcacheFill
  split
  · exact .next h.upd.icacheFill
  · exact .fault

theorem Canon.execCfetchLanded (h : s.Canon) : NextCanon (execCfetchLanded s) := by
  unfold Machine.execCfetchLanded
  split
  · exact .next h.upd.cfetchLanded
  · exact .fault

/-! ### A team as its section body (Table 14-8), the window items of Table 14-6, and how lanes park and return -/

theorem Canon.parkLanes {t m serial} (h : s.Canon) : (s.parkLanes t m serial).Canon := h.modTeam.modLanes

theorem Canon.rewait {t l} (h : s.Canon) : (s.rewait t l).Canon := by
  unfold State.rewait
  split
  · exact h.rewaitBar
  · exact h.at_
  · exact h

theorem Canon.unparkLanes {t m stamp} (h : s.Canon) : (s.unparkLanes t m stamp).Canon := by
  unfold State.unparkLanes
  split
  · exact h
  · exact h.modLanes.foldl fun _ _ h => h.rewait

theorem Canon.endOp {e} (h : s.Canon) : (s.endOp e).Canon := by
  unfold State.endOp
  split
  · exact h.parkLanes
  · exact h.lanesDrop.unparkLanes
  · exact h.modTeam

theorem Canon.endOps (h : s.Canon) : (s.endOps).Canon := h.upd.foldl fun _ _ h => h.endOp

/-! ### Class 15, the fault queue and replies (R422 to R442), and their events -/

theorem Canon.writeEntry {r} (h : s.Canon) : (s.writeEntry r).Canon := h.modDie.physPut.writeRels.setFld

theorem Canon.drainRecs {d n} (h : s.Canon) : (s.drainRecs d n).Canon := by
  induction n generalizing s with
  | zero => exact h
  | succ n ih =>
    rw [State.drainRecs]
    dsimp only
    split
    · exact ih h.modDie
    · split
      · exact h
      · split
        · exact h
        · exact ih h.modDie.writeEntry

theorem Canon.drainFaults {d} (h : s.Canon) : (s.drainFaults d).Canon := h.drainRecs

theorem Canon.serialUnit {r} (h : s.Canon) : (s.serialUnit r).Canon := by
  unfold State.serialUnit
  extract_lets n s1
  have h1 : s1.Canon := h.upd
  split
  · exact h1
  · exact h1
  · exact h1.modLanes
  · exact h1.modChan
  · exact h1.upd
  · exact h1.modEntry

theorem Canon.queueRec {r} (h : s.Canon) : (s.queueRec r).Canon := h.setFld.serialUnit.upd.modDie

theorem Canon.faultRecordWrite {d} (h : s.Canon) : (faultRecordWrite d s).Canon := .drainFaults (.foldl h.modDie fun _ _ h => h.queueRec)

theorem Canon.fqbaseWrite {d v} (h : s.Canon) : (fqbaseWrite d v s).Canon := h.setReg.drainFaults

theorem Canon.fqtailWrite {d v} (h : s.Canon) : (fqtailWrite d v s).Canon := h.setFld.drainFaults

theorem Canon.countWaiting (h : s.Canon) : (s.countWaiting).Canon := h.foldl fun _ _ h => .ite h h.bump

theorem Canon.execFaultRecordWrite (h : s.Canon) : NextCanon (execFaultRecordWrite s) := by
  unfold Machine.execFaultRecordWrite
  split
  · exact .ite (.next h.upd.faultRecordWrite) .fault
  · exact .fault

theorem Canon.execFqbaseWrite (h : s.Canon) : NextCanon (execFqbaseWrite s) := by
  unfold Machine.execFqbaseWrite
  split
  · exact .ite (.next h.upd.fqbaseWrite) .fault
  · exact .fault

theorem Canon.execFqtailWrite (h : s.Canon) : NextCanon (execFqtailWrite s) := by
  unfold Machine.execFqtailWrite
  split
  · exact .ite (.next h.upd.fqtailWrite) .fault
  · exact .fault

theorem Canon.replyResume {serial value stamp t} (h : s.Canon) : (s.replyResume serial value stamp t).Canon :=
  h.lanesDrop.modLanes.modLanes.unparkLanes.modGroup

theorem Canon.replyKeep {serial t} (h : s.Canon) : (s.replyKeep serial t).Canon := h.modLanes.modLanes

theorem Canon.parkTeam {serial t} (h : s.Canon) : (s.parkTeam serial t).Canon := h.parkLanes

theorem Canon.parkGroups {serial p} (h : s.Canon) : (s.parkGroups serial p).Canon :=
  .foldl (.foldl h fun _ _ h => h.parkTeam) fun _ _ h => h.modGroup

theorem Canon.stopDomain {serial ctx f} (h : s.Canon) : (s.stopDomain serial ctx f).Canon := h.parkGroups.upd

theorem Canon.stopWord {ctx serial level} (h : s.Canon) : (s.stopWord ctx serial level).Canon := by
  unfold State.stopWord
  split
  · exact h
  · exact h.recWrite.interrupt

theorem Canon.replyUnits {ctx serial retry} (h : s.Canon) : (s.replyUnits ctx serial retry).Canon :=
  .foldl (.foldl (.foldl h fun _ _ h => h.chanReply) fun _ _ h => h.engineReply) fun _ _ h => h.sendReply

theorem Canon.answered {serial} (h : s.Canon) : (s.answered serial).Canon := h.upd

theorem Canon.applyReply {d ctx serial action value stamp} (h : s.Canon) : (s.applyReply d ctx serial action value stamp).Canon := by
  unfold State.applyReply
  extract_lets -merge +onlyGivenNames unit ser plain
  split
  · exact h.bump
  · extract_lets -merge +onlyGivenNames ts doms s1 sysc unitOnly
    have h1 : s1.Canon := h.answered.replyUnits
    split
    · exact h1.foldl fun _ _ h => h.replyResume
    · exact h1.foldl fun _ _ h => h.lanesDrop.modLanes.exitLanes
    · exact h1.foldl fun _ _ h => h.replyKeep
    · exact .foldl (.foldl h1 fun _ _ h => h.lanesDrop.modLanes) fun _ _ h => h.parkTeam
    · exact .parkGroups (.foldl h1 fun _ _ h => h.lanesDrop.modLanes)
    · exact .stopWord (.ite h1 (.foldl (.foldl h1 fun _ _ h => h.lanesDrop.modLanes) fun _ _ h => h.stopDomain))
    · exact .stopWord (.ite h1 (.stopDomain (.foldl h1 fun _ _ h => h.lanesDrop.modLanes)))
    · exact h1

theorem Canon.replyArea {d x} (h : s.Canon) : (s.replyArea d x).2.Canon := by
  unfold State.replyArea
  split <;> rename_i e1 <;> exact .of_eqSnd h.recWords e1

theorem Canon.departedAnswer {ctx serial} (h : s.Canon) : (s.departedAnswer ctx serial).Canon := .ite h h.answered.upd

theorem Canon.appendReply {d x q} (h : s.Canon) (e : s.appendReply d x q = some t) : t.Canon := by
  unfold State.appendReply at e
  split at e
  · rename_i s1 e1
    have h1 : s1.Canon := .of_eqSnd h.replyArea e1
    split at e
    · cases e
    · dsimp only at e
      split at e
      · cases e
      · rw [← Option.some.inj e]; exact h1.recWrite.recWrite.recWrite
  · cases e

theorem Canon.sendReplyTo {d q stamp} (h : s.Canon) (e : s.sendReplyTo d q stamp = some t) : t.Canon := by
  unfold State.sendReplyTo at e
  extract_lets w serial ctx action at e
  split at e
  · extract_lets held at e
    split at e <;> rw [← Option.some.inj e]
    · exact h.modCtx
    · exact h.applyReply
  · split at e
    · obtain ⟨u, eu, rfl⟩ := Option.map_eq_some_iff.1 e
      exact (h.appendReply eu).departedAnswer
    · rw [← Option.some.inj e]; exact h.applyReply

theorem Canon.rteBody {x} (h : s.Canon) : (rteBody x s).s.Canon := by
  unfold Machine.rteBody
  extract_lets v q
  split
  · exact h.trapAll
  · split
    rename_i s1 e1
    have h1 : s1.Canon := .of_eqSnd h.release0 e1
    split
    · rename_i s2 e2
      have h2 : s2.Canon := h1.sendReplyTo e2
      exact h2.ok
    · exact h1.waitAll

theorem Canon.execRte {h' o} (h : s.Canon) : NextCanon (execRte h' o s) := h.issueWord fun _ _ h => h.rteBody

theorem Canon.retryReplies (h : s.Canon) : (s.retryReplies).Canon := by
  unfold State.retryReplies
  refine .foldl h fun s1 a h => ?_
  split
  · rename_i s2 e2
    have h2 : s2.Canon := h.sendReplyTo e2
    exact h2.passLanes
  · exact h

theorem Canon.relTrap {kind d1} {x : Env} (h : s.Canon) : (x.relTrap kind d1 s).s.Canon := h.releaseLanes.all

theorem Canon.execTrap {h' o} (h : s.Canon) : NextCanon (execTrap h' o s) := h.issueWord fun _ _ h => h.relTrap

theorem Canon.execBrk {h' o} (h : s.Canon) : NextCanon (execBrk h' o s) := h.issueWord fun _ _ h => h.relTrap

theorem Canon.execSysc {h' o} (h : s.Canon) : NextCanon (execSysc h' o s) := h.issueWord fun _ _ h => h.relTrap

theorem Canon.wdkickBody {x} (h : s.Canon) : (wdkickBody x s).s.Canon := h.modTeam.ok

theorem Canon.execWdkick {h' o} (h : s.Canon) : NextCanon (execWdkick h' o s) := h.issueWord fun _ _ h => h.wdkickBody

theorem Canon.winTrap {detail d1} {x : Env} (h : s.Canon) : (x.winTrap detail d1 s).s.Canon := h.trapAll

theorem Canon.onTarget {x : Env} {f : Team → Res} (h : s.Canon) (hf : ∀ y0, (f y0).s.Canon) : (x.onTarget s f).s.Canon := by
  unfold Env.onTarget
  extract_lets tgt
  split
  · exact h.winTrap
  · exact (hf _)

theorem Canon.rdwinBody {x} (h : s.Canon) : (rdwinBody x s).s.Canon := by
  unfold Machine.rdwinBody
  refine .onTarget h (fun _ => ?_)
  split
  · exact h.winTrap
  · exact h.putOne.ok

theorem Canon.execRdwin {h' o} (h : s.Canon) : NextCanon (execRdwin h' o s) := h.issueWord fun _ _ h => h.rdwinBody

theorem Canon.wrwinBody {x} (h : s.Canon) : (wrwinBody x s).s.Canon := by
  unfold Machine.wrwinBody
  refine .onTarget h (fun _ => ?_)
  dsimp only
  split
  · exact h.upd.ok
  · exact h.winTrap

theorem Canon.execWrwin {h' o} (h : s.Canon) : NextCanon (execWrwin h' o s) := h.issueWord fun _ _ h => h.wrwinBody

theorem Canon.parkBody {x} (h : s.Canon) : (parkBody x s).s.Canon := h.onTarget (fun _ => h.upd.ok)

theorem Canon.execPark {h' o} (h : s.Canon) : NextCanon (execPark h' o s) := h.issueWord fun _ _ h => h.parkBody

theorem Canon.unparkBody {x} (h : s.Canon) : (unparkBody x s).s.Canon := h.onTarget (fun _ => h.modDie.upd.ok)

theorem Canon.execUnpark {h' o} (h : s.Canon) : NextCanon (execUnpark h' o s) := h.issueWord fun _ _ h => h.unparkBody

theorem Canon.bodyPut {d a bs} (h : s.Canon) : (s.bodyPut d a bs).Canon := by
  unfold State.bodyPut
  refine .foldl h fun s1 a h => ?_
  dsimp only
  split
  · exact h.foldl fun _ _ h => h.devWrite
  · exact h.physPut

/-- The kernel must not run the address arithmetic below `State.devRead`, which stands as a variable here. -/
theorem Canon.bodyGet {a n} (h : s.Canon) : (s.bodyGet a n).2.Canon := by
  have hd := @Canon.devRead
  obtain ⟨read, hread⟩ := exists_eq (a' := @State.devRead)
  unfold State.bodyGet
  rw [← hread] at hd ⊢
  refine .foldlSnd h ?_
  rintro ⟨bs, s1⟩ ⟨pa, xs⟩ (h1 : s1.Canon)
  dsimp only
  split
  · refine .foldlSnd h1 ?_
    rintro ⟨bs, s2⟩ k (h2 : s2.Canon)
    exact .snd (hd h2)
  · exact .snd h1.placeBytes
  · exact h1

theorem Canon.bodyLines {d a n write} (h : s.Canon) : (s.bodyLines d a n write).2.Canon := by
  unfold State.bodyLines
  refine .foldlSnd h ?_
  rintro ⟨_, s1⟩ a (h1 : s1.Canon)
  dsimp only
  split
  · exact h1.storeLine
  · exact h1.loadLine

theorem Canon.csaveBody {x} (h : s.Canon) : (csaveBody x s).s.Canon := by
  unfold Machine.csaveBody
  refine .onTarget h (fun _ => ?_)
  dsimp only
  split
  · exact h.winTrap
  · split
    · exact h.trapAll
    · exact h.bodyLines.bodyPut.ok

theorem Canon.execCsave {h' o} (h : s.Canon) : NextCanon (execCsave h' o s) := h.issueWord fun _ _ h => h.csaveBody

theorem Canon.crestBody {x} (h : s.Canon) : (crestBody x s).s.Canon := by
  unfold Machine.crestBody
  refine .onTarget h (fun _ => ?_)
  dsimp only
  split
  · exact h.winTrap
  · split
    · exact h.trapAll
    · split
      · exact h.bodyLines.bodyGet.winTrap
      · exact
          have h1 := h.bodyLines.bodyGet.modTeam
          .ok (.foldl (.ite h1 h1.exitLanes) fun _ _ h => .ite h.rewait h)

theorem Canon.execCrest {h' o} (h : s.Canon) : NextCanon (execCrest h' o s) := h.issueWord fun _ _ h => h.crestBody

theorem Canon.takeEvents {d p} (h : s.Canon) : (s.takeEvents d p).Canon := h.modDie

theorem Canon.haltBody {x} (h : s.Canon) : (haltBody x s).s.Canon := by
  unfold Machine.haltBody
  extract_lets m p
  split
  · exact h.waitAll
  · exact h.takeEvents.modLanes.putOne.ok

theorem Canon.execHalt {h' o} (h : s.Canon) : NextCanon (execHalt h' o s) := h.issueWord fun _ _ h => h.haltBody

theorem Canon.wakeHalts (h : s.Canon) : (s.wakeHalts).Canon := by
  unfold State.wakeHalts
  refine .foldl h fun s1 a h => ?_
  dsimp only
  split
  · exact h
  · refine .passLanes ?_
    refine .takeEvents ?_
    split
    · exact h.writeK
    · exact h.modLanes

/-! ### Command queues and Headwater: registers, submission, the command stream and its commands (R51 to R69, R430 step 1) -/

theorem Canon.modQueue {q f} (h : s.Canon) : (s.modQueue q f).Canon := h.modDie

theorem Canon.tailSubmission {q v} (h : s.Canon) : (tailSubmission q v s).Canon := h.raiseEvent.modDie

theorem Canon.fifoEntryEvaluation {d} (h : s.Canon) : (fifoEntryEvaluation d s).Canon := by
  unfold Machine.fifoEntryEvaluation
  split
  · exact h
  · exact .ite h.modDie (.ite h.modDie.setFld.interrupt h.modDie.setFld)

theorem Canon.tailerrClear {q v} (h : s.Canon) : (tailerrClear q v s).Canon := .ite h.setFld h

theorem Canon.queueEnable {q v} (h : s.Canon) : (queueEnable q v s).Canon := .ite h.setReg.setFld.modQueue h.setReg

theorem Canon.qheadWrite {q v} (h : s.Canon) : (qheadWrite q v s).Canon := .ite h.setFld h

theorem Canon.execTailSubmission (h : s.Canon) : NextCanon (execTailSubmission s) := by
  unfold Machine.execTailSubmission
  split
  · exact .ite (.next h.upd.tailSubmission) .fault
  · exact .fault

theorem Canon.execFifoEntryEvaluation (h : s.Canon) : NextCanon (execFifoEntryEvaluation s) := by
  unfold Machine.execFifoEntryEvaluation
  split
  · exact .ite (.next h.upd.fifoEntryEvaluation) .fault
  · exact .fault

theorem Canon.execTailerrClear (h : s.Canon) : NextCanon (execTailerrClear s) := by
  unfold Machine.execTailerrClear
  split
  · exact .ite (.next h.upd.tailerrClear) .fault
  · exact .fault

theorem Canon.execQueueEnable (h : s.Canon) : NextCanon (execQueueEnable s) := by
  unfold Machine.execQueueEnable
  split
  · exact .ite (.next h.upd.queueEnable) .fault
  · exact .fault

theorem Canon.execQheadWrite (h : s.Canon) : NextCanon (execQheadWrite s) := by
  unfold Machine.execQheadWrite
  split
  · exact .ite (.next h.upd.qheadWrite) .fault
  · exact .fault

theorem Canon.counterReadClear {d off} (h : s.Canon) : (counterReadClear d off s).Canon := .ite h.readReg h.badAccess.upd

theorem Canon.registerWrite {d off v} (h : s.Canon) : (registerWrite d off v s).Canon := .ite h.badAccess (.ite h h.setReg)

theorem Canon.execCounterReadClear (h : s.Canon) : NextCanon (execCounterReadClear s) := by
  unfold Machine.execCounterReadClear
  split
  · exact .ite (.next h.upd.counterReadClear) .fault
  · exact .fault

theorem Canon.execRegisterWrite (h : s.Canon) : NextCanon (execRegisterWrite s) := by
  unfold Machine.execRegisterWrite
  split
  · exact .ite (.next h.upd.registerWrite) .fault
  · exact .fault

theorem Canon.stopQueue {q err} (h : s.Canon) : (s.stopQueue q err).Canon := h.setFld.setFld.modQueue.interrupt

theorem Canon.passWords {q n} (h : s.Canon) : (s.passWords q n).Canon := by
  unfold State.passWords
  split
  · exact h.modQueue
  · exact h.setFld

theorem Canon.progress {q} (h : s.Canon) : (s.progress q).Canon := h.physPut

theorem Canon.commit {q n f} (h : s.Canon) : (s.commit q n f).Canon := h.passWords.modQueue.progress

theorem Canon.command {q w} {f : State → Except Nat State} (h : s.Canon) (hf : ∀ s, s.Canon → OkCanon (f s)) : (s.command q w f).Canon := by
  unfold State.command
  split
  · split
    · exact h
    · split
      · rename_i e
        exact hf _ h _ e
      · exact h.stopQueue
  · exact h.stopQueue

theorem Canon.cmdNop {q w} (h : s.Canon) : (cmdNop q w s).Canon := h.command fun _ h => .ok h.commit

theorem Canon.drainPlan {d p} (h : s.Canon) : (s.drainPlan d p).Canon := h.modPlan.foldl fun _ _ h => h.after

theorem Canon.cmdDrainPlan {q w pl} (h : s.Canon) : (cmdDrainPlan q w pl s).Canon := by
  refine h.command fun s h => .ok (commit ?_)
  split
  · exact .ite h h.drainPlan
  · exact h

theorem Canon.cmdIndirect {q w pl} (h : s.Canon) : (cmdIndirect q w pl s).Canon :=
  h.command fun _ h => .ite .error (.ite .error (.ok h.commit))

theorem Canon.cmdReturn {q w} (h : s.Canon) : (cmdReturn q w s).Canon := h.command fun _ h => .ite .error (.ok h.commit)

theorem Canon.pollAll (h : s.Canon) : (s.pollAll).Canon := by
  unfold State.pollAll
  refine .foldl h fun s1 a h => ?_
  refine .foldl h fun s2 a h => ?_
  split
  · exact h.after
  · exact h

theorem Canon.cmdSignal {q w pl} (h : s.Canon) : (Machine.cmdSignal q w pl s).Canon := by
  refine h.command fun s h => .ite .error ?_
  split
  rename_i st s1 e1
  have h1 := of_eqSnd h.release e1
  extract_lets s2 s3 s4
  have h2 : s2.Canon := by
    unfold s2
    split
    · exact h1.devWrite
    · exact h1.touchStore.placePut.writeRels
    · exact h1
  exact .ok (.pollAll (.ite h2.commit.interrupt h2.commit))

/-- The kernel must not run the address arithmetic below `State.devRead`, which stands as a variable here. -/
theorem Canon.timeMet {a thr} (h : s.Canon) : (s.timeMet a thr).2.Canon := by
  have hd := @Canon.devRead
  obtain ⟨read, hread⟩ := exists_eq (a' := @State.devRead)
  unfold State.timeMet
  rw [← hread] at hd ⊢
  split
  · exact .snd (hd h)
  · split <;> rename_i s1 e1 <;> exact .of_eqSnd h.physGet e1

theorem Canon.queueAcquire {q stamp} (h : s.Canon) : (s.queueAcquire q stamp).Canon := h.modQueue

theorem Canon.timeAcquire {q a} (h : s.Canon) : (s.timeAcquire q a).Canon := h.queueAcquire

theorem Canon.cmdWaitTime {q w pl} (h : s.Canon) : (cmdWaitTime q w pl s).Canon := by
  refine h.command fun s h => .ite (.ite .error (.ite (.ok h.commit) (.ok h.modQueue.at_))) (.ite .error ?_)
  split
  · rename_i s1 e1
    exact .ok (of_eqSnd h.timeMet e1).timeAcquire.commit
  · rename_i s1 e1
    exact .ok (of_eqSnd h.timeMet e1).modQueue.after

theorem Canon.waitTimePoll {q} (h : s.Canon) : (waitTimePoll q s).Canon := by
  unfold Machine.waitTimePoll
  split
  · split
    · exact h
    · split
      · rename_i s1 e1
        have h1 : s1.Canon := .of_eqSnd h.timeMet e1
        exact h1.timeAcquire.commit
      · rename_i s1 e1
        have h1 : s1.Canon := .of_eqSnd h.timeMet e1
        exact .ite h1 h1.after
  · exact h

theorem Canon.waitTimeClockReached {q} (h : s.Canon) : (waitTimeClockReached q s).Canon := by
  unfold Machine.waitTimeClockReached
  split
  · exact .ite h.commit h
  · exact h

theorem Canon.cmdFence {q w} (h : s.Canon) : (cmdFence q w s).Canon := h.command fun _ h => .ok (.ite h.modQueue.after h.modQueue)

theorem Canon.fenceCommit {q} (h : s.Canon) : (fenceCommit q s).Canon := .ite h.modDie.queueAcquire.commit h

theorem Canon.setResident {c v} (h : s.Canon) : (s.setResident c v).Canon := by
  unfold State.setResident
  split
  · exact h.recWrite
  · exact h

theorem Canon.setClamp {c rcb m} (h : s.Canon) : (s.setClamp c rcb m).Canon := by
  unfold State.setClamp
  split
  · exact h
  · split
    · exact h.recWrite
    · exact h

theorem Canon.effNode {c up rcb} (h : s.Canon) : (s.effNode c up rcb).2.Canon := by
  unfold State.effNode
  split
  · exact h.setClamp.snd
  · exact h

theorem Canon.clampPlan {c p} (h : s.Canon) : (s.clampPlan c p).Canon := by
  unfold State.clampPlan
  split
  rename_i s1 e1
  have h1 : s1.Canon := .of_eqSnd h.effNode e1
  exact h1.foldl fun _ _ h => h.effNode

theorem Canon.addContext {c ps} (h : s.Canon) : (s.addContext c ps).Canon := h.upd

theorem OkCanon.bind {α : Type} {r : Except Nat α} {f : α → Except Nat State} (hf : ∀ a, OkCanon (f a)) : OkCanon (r >>= f) := by
  cases r with
  | error e => exact .error
  | ok a => exact hf a

theorem Canon.resumeCheck {q a} (h : s.Canon) : OkCanon (s.resumeCheck q a) := by
  unfold State.resumeCheck
  refine .bind fun i => .bind fun snap => .bind fun w => .bind fun _ => .bind fun ps => .ok ?_
  exact Canon.foldl (.setResident (.addContext h)) fun _ _ h => h.clampPlan

theorem Canon.cmdResume {q w pl} (h : s.Canon) : (cmdResume q w pl s).Canon :=
  h.command fun _ h => h.resumeCheck.map fun _ h => h.modQueue.after

theorem Canon.nameCtx {old new} (h : s.Canon) : (s.nameCtx old new).Canon := h.upd

theorem Canon.ctxidWrite {q} (h : s.Canon) : (Machine.ctxidWrite q s).Canon := by
  unfold Machine.ctxidWrite
  split
  · split
    · extract_lets id s1 s2 pa s3
      have h1 : s1.Canon := h.upd
      have h2 : s2.Canon := by
        unfold s2
        split
        · exact h1.recWrite
        · exact h1
      clear_value s1 s2
      have h3 : s3.Canon := h2.nameCtx.modQueue
      clear_value s3
      exact h3.commit.after
    · exact h
  · exact h

theorem Canon.returnSlots {ctx} (h : s.Canon) : (s.returnSlots ctx).Canon := by
  unfold State.returnSlots
  refine .foldl h fun s1 a h => ?_
  dsimp only
  refine .foldl h fun s2 a h => ?_
  refine .modCore ?_
  split
  · exact h.returnTask
  · exact h

theorem Canon.cmdPreempt {q w pl} (h : s.Canon) : (cmdPreempt q w pl s).Canon := by
  refine h.command fun s h => ?_
  split
  · exact .error
  · exact .ite (.ok h.modQueue) (.ok h.modQueue.modCtx.returnSlots.at_)

theorem Canon.serve {q} (h : s.Canon) : (s.serve q).Canon := h.modDie

theorem Canon.onCommand {q} {f : State → State} (h : s.Canon) (hf : ∀ s, State.Canon s → (f s).Canon) :
    NextCanon (onCommand s q f) := .ite (.next (hf _ h.upd.serve)) .fault

theorem Canon.execCmdNop (h : s.Canon) : NextCanon (execCmdNop s) := by
  unfold Machine.execCmdNop
  split
  · exact h.onCommand fun _ h => h.cmdNop
  · exact .fault

theorem Canon.execCmdResume (h : s.Canon) : NextCanon (execCmdResume s) := by
  unfold Machine.execCmdResume
  split
  · exact h.onCommand fun _ h => h.cmdResume
  · exact .fault

theorem Canon.execCmdPreempt (h : s.Canon) : NextCanon (execCmdPreempt s) := by
  unfold Machine.execCmdPreempt
  split
  · exact h.onCommand fun _ h => h.cmdPreempt
  · exact .fault

theorem Canon.execCmdDrainPlan (h : s.Canon) : NextCanon (execCmdDrainPlan s) := by
  unfold Machine.execCmdDrainPlan
  split
  · exact h.onCommand fun _ h => h.cmdDrainPlan
  · exact .fault

theorem Canon.execCmdIndirect (h : s.Canon) : NextCanon (execCmdIndirect s) := by
  unfold Machine.execCmdIndirect
  split
  · exact h.onCommand fun _ h => h.cmdIndirect
  · exact .fault

theorem Canon.execCmdReturn (h : s.Canon) : NextCanon (execCmdReturn s) := by
  unfold Machine.execCmdReturn
  split
  · exact h.onCommand fun _ h => h.cmdReturn
  · exact .fault

theorem Canon.execCmdSignal (h : s.Canon) : NextCanon (execCmdSignal s) := by
  unfold Machine.execCmdSignal
  split
  · exact h.onCommand fun _ h => h.cmdSignal
  · exact .fault

theorem Canon.execCmdWaitTime (h : s.Canon) : NextCanon (execCmdWaitTime s) := by
  unfold Machine.execCmdWaitTime
  split
  · exact h.onCommand fun _ h => h.cmdWaitTime
  · exact .fault

theorem Canon.execCmdFence (h : s.Canon) : NextCanon (execCmdFence s) := by
  unfold Machine.execCmdFence
  split
  · exact h.onCommand fun _ h => h.cmdFence
  · exact .fault

theorem Canon.execWaitTimePoll (h : s.Canon) : NextCanon (execWaitTimePoll s) := by
  unfold Machine.execWaitTimePoll
  split
  · exact .ite (.next h.upd.waitTimePoll) .fault
  · exact .fault

theorem Canon.execWaitTimeClockReached (h : s.Canon) : NextCanon (execWaitTimeClockReached s) := by
  unfold Machine.execWaitTimeClockReached
  split
  · exact .ite (.next h.upd.waitTimeClockReached) .fault
  · exact .fault

theorem Canon.execFenceCommit (h : s.Canon) : NextCanon (execFenceCommit s) := by
  unfold Machine.execFenceCommit
  split
  · exact .ite (.next h.upd.fenceCommit) .fault
  · exact .fault

theorem Canon.execCtxidWrite (h : s.Canon) : NextCanon (execCtxidWrite s) := by
  unfold Machine.execCtxidWrite
  split
  · exact .ite (.next h.upd.ctxidWrite) .fault
  · exact .fault

theorem Canon.reload {q} (h : s.Canon) : (s.reload q).Canon := by
  unfold State.reload
  split
  rename_i s1 e1
  have h1 : s1.Canon := by
    refine .of_eqSnd ?_ e1
    split
    · exact h
    · exact h.upd
  extract_lets w n left s2
  have h2 : s2.Canon := by
    unfold s2
    split
    · split
      · exact h1.setResident.upd
      · exact h1
    · exact h1
  exact h2.setFld.modQueue

theorem Canon.firmwareRestart {d} (h : s.Canon) : (firmwareRestart d s).Canon := h.upd.setFld.foldl fun _ _ h => .ite h.reload h

theorem Canon.firmwareRestartEnd {d} (h : s.Canon) : (firmwareRestartEnd d s).Canon := h.setFld.drainFaults

theorem Canon.execFirmwareRestart (h : s.Canon) : NextCanon (execFirmwareRestart s) := by
  unfold Machine.execFirmwareRestart
  split
  · exact .ite (.next h.upd.firmwareRestart) .fault
  · exact .fault

theorem Canon.execFirmwareRestartEnd (h : s.Canon) : NextCanon (execFirmwareRestartEnd s) := by
  unfold Machine.execFirmwareRestartEnd
  split
  · exact .ite (.next h.upd.firmwareRestartEnd) .fault
  · exact .fault

/-! ### Class 2: logic and bit instructions (R171 to R175) -/

theorem Canon.execAnd {h' o} (h : s.Canon) : NextCanon (execAnd h' o s) := h.laneOp

theorem Canon.execOr {h' o} (h : s.Canon) : NextCanon (execOr h' o s) := h.laneOp

theorem Canon.execXor {h' o} (h : s.Canon) : NextCanon (execXor h' o s) := h.laneOp

theorem Canon.execNot {h' o} (h : s.Canon) : NextCanon (execNot h' o s) := h.laneOp

theorem Canon.execLop3 {h' o} (h : s.Canon) : NextCanon (execLop3 h' o s) := h.laneOp

theorem Canon.execShl {h' o} (h : s.Canon) : NextCanon (execShl h' o s) := h.laneOp

theorem Canon.execShr {h' o} (h : s.Canon) : NextCanon (execShr h' o s) := h.laneOp

theorem Canon.execSar {h' o} (h : s.Canon) : NextCanon (execSar h' o s) := h.laneOp

theorem Canon.execRot {h' o} (h : s.Canon) : NextCanon (execRot h' o s) := h.laneOp

theorem Canon.execShf {h' o} (h : s.Canon) : NextCanon (execShf h' o s) := h.laneOp

theorem Canon.countOp {v f} (h : s.Canon) : NextCanon (countOp v f s) := h.issueWord fun _ _ h => h.put.ok

theorem Canon.execPopc {h' o} (h : s.Canon) : NextCanon (execPopc h' o s) := h.countOp

theorem Canon.execClz {h' o} (h : s.Canon) : NextCanon (execClz h' o s) := h.countOp

theorem Canon.execCtz {h' o} (h : s.Canon) : NextCanon (execCtz h' o s) := h.countOp

theorem Canon.execBrev {h' o} (h : s.Canon) : NextCanon (execBrev h' o s) := h.laneOp

theorem Canon.execBfe {h' o} (h : s.Canon) : NextCanon (execBfe h' o s) := h.laneOp

theorem Canon.execBfi {h' o} (h : s.Canon) : NextCanon (execBfi h' o s) := h.laneOp

theorem Canon.execPrmt {h' o} (h : s.Canon) : NextCanon (execPrmt h' o s) := h.laneOp

theorem Canon.execSext {h' o} (h : s.Canon) : NextCanon (execSext h' o s) := h.laneOp

/-! ### Events of memory: probes, refresh, invalidation, migration, hotness and the ordered-list area (R230, R232, R238 to R241, R258) -/

theorem Canon.rdcProbe {d home line} (h : s.Canon) : (rdcProbe d home line s).Canon := h.modDie.after

theorem Canon.probeAck {home d line} (h : s.Canon) : (probeAck home d line s).Canon := h.modDie

theorem Canon.dropNotice {home d line} (h : s.Canon) : (dropNotice home d line s).Canon := h.modDie

theorem Canon.hbmRefresh {d bank} (h : s.Canon) : (hbmRefresh d bank s).Canon := h.modDie

theorem Canon.dropTb {p} (h : s.Canon) : (s.dropTb p).Canon := h.upd

theorem Canon.wakeWalks {d} (h : s.Canon) : (s.wakeWalks d).Canon := h.wakeWhere

theorem Canon.goPrefs {d} (h : s.Canon) : (s.goPrefs d).Canon := by
  unfold State.goPrefs
  extract_lets go now
  refine .foldl h.modDie fun s1 a h => ?_
  dsimp only
  exact h.locate.prefPlace

theorem Canon.translationWalk {d} (h : s.Canon) : (translationWalk d s).Canon := h.wakeWalks.goPrefs

theorem Canon.invalidationStart {d} (h : s.Canon) : (invalidationStart d s).Canon :=
  .ite h (.foldl h.dropTb.setFld.modDie fun _ _ h => h.wakeWalks)

theorem Canon.invalidationComplete {d} (h : s.Canon) : (invalidationComplete d s).Canon := .ite h.setFld.modDie h

theorem Canon.migrationStart {d} (h : s.Canon) : (migrationStart d s).Canon := .ite h (.ite h.setFld h.setFld.dropTb.setFld.modDie.after)

theorem foldl_cellPut_wf {α : Type} (l : List α) (a : α → Nat) (v : α → Byte) (m : List Host.Cell) (h : Memory.wf m = true) :
    Memory.wf (l.foldl (fun m x => cellPut m (a x) (v x)) m) = true :=
  foldl_keeps (P := fun m => Memory.wf m = true) h fun m x h => cellPut_wf m (a x) (v x) h

theorem Canon.moveBlock {old dst} (h : s.Canon) : (s.moveBlock old dst).Canon := by
  unfold State.moveBlock
  extract_lets inOld m es rels bad s1
  have h1 : s1.Canon := ⟨foldl_cellPut_wf _ _ _ _ (cellsClear_wf _ _ _ h.1), h.2⟩
  exact .ite h1 h1.modDie

theorem Canon.stockRemap {fmt root va old dst} (h : s.Canon) : (s.stockRemap fmt root va old dst).2.Canon := by
  unfold State.stockRemap
  refine .foldlSnd h ?_
  rintro ⟨_, s1⟩ a (h1 : s1.Canon)
  dsimp only
  split
  · exact h1
  · split
    · split
      · exact h1
      · exact h1.devPutVal
    · split
      · exact h1
      · exact h1.devPutVal

theorem Canon.remap {d fmt root va old dst ctx} (h : s.Canon) : (s.remap d fmt root va old dst ctx).2.Canon := by
  unfold State.remap
  split
  · split
    rename_i e1
    exact .of_eqSndSndSnd h.rvCall e1
  · exact h.stockRemap

theorem Canon.cleanBlock {blk} (h : s.Canon) : (s.cleanBlock blk).Canon := h.upd

theorem Canon.remapBlock {d m} (h : s.Canon) : (s.remapBlock d m).2.Canon := by
  unfold State.remapBlock
  split
  · exact h.cleanBlock.cleanBlock.moveBlock.remap
  · exact h

theorem Canon.migrationEnd {d} (h : s.Canon) : (migrationEnd d s).Canon := by
  unfold Machine.migrationEnd
  split
  · exact h
  · extract_lets due
    split
    · exact h.after
    · split
      · exact h.modDie.at_
      · split
        rename_i s1 e1
        have h1 : s1.Canon := .of_eqSnd h.remapBlock e1
        exact .foldl (.modDie (.setFld (.ite h1 h1.setFld))) fun _ _ h => h.after

theorem Canon.hotnessHalving (h : s.Canon) : (hotnessHalving s).Canon := h.upd.after

theorem Canon.orderedOverflow {d} (h : s.Canon) : (orderedOverflow d s).Canon := by
  unfold Machine.orderedOverflow
  extract_lets old
  refine .foldl h fun s1 a h => ?_
  split
  · exact h
  · exact h.foldl fun _ _ h => h.raise

theorem Canon.orddrop {d rcb} (h : s.Canon) : (orddrop d rcb s).Canon := h.setFld.modDie.ordSpace

theorem Canon.onDie {d} {f : State → State} (h : s.Canon) (hf : ∀ s, State.Canon s → (f s).Canon) : NextCanon (onDie s d f) :=
  .ite (.next (hf _ h.upd)) .fault

theorem Canon.execTranslationWalk (h : s.Canon) : NextCanon (execTranslationWalk s) := by
  unfold Machine.execTranslationWalk
  split
  · exact h.onDie fun _ h => h.translationWalk
  · exact .fault

theorem Canon.execRdcProbe (h : s.Canon) : NextCanon (execRdcProbe s) := by
  unfold Machine.execRdcProbe
  split
  · exact h.onDie fun _ h => h.rdcProbe
  · exact .fault

theorem Canon.execProbeAck (h : s.Canon) : NextCanon (execProbeAck s) := by
  unfold Machine.execProbeAck
  split
  · exact h.onDie fun _ h => h.probeAck
  · exact .fault

theorem Canon.execDropNotice (h : s.Canon) : NextCanon (execDropNotice s) := by
  unfold Machine.execDropNotice
  split
  · exact h.onDie fun _ h => h.dropNotice
  · exact .fault

theorem Canon.execHbmRefresh (h : s.Canon) : NextCanon (execHbmRefresh s) := by
  unfold Machine.execHbmRefresh
  split
  · exact h.onDie fun _ h => h.hbmRefresh
  · exact .fault

theorem Canon.execInvalidationStart (h : s.Canon) : NextCanon (execInvalidationStart s) := by
  unfold Machine.execInvalidationStart
  split
  · exact h.onDie fun _ h => h.invalidationStart
  · exact .fault

theorem Canon.execInvalidationComplete (h : s.Canon) : NextCanon (execInvalidationComplete s) := by
  unfold Machine.execInvalidationComplete
  split
  · exact h.onDie fun _ h => h.invalidationComplete
  · exact .fault

theorem Canon.execMigrationStart (h : s.Canon) : NextCanon (execMigrationStart s) := by
  unfold Machine.execMigrationStart
  split
  · exact h.onDie fun _ h => h.migrationStart
  · exact .fault

theorem Canon.execMigrationEnd (h : s.Canon) : NextCanon (execMigrationEnd s) := by
  unfold Machine.execMigrationEnd
  split
  · exact h.onDie fun _ h => h.migrationEnd
  · exact .fault

theorem Canon.execHotnessHalving (h : s.Canon) : NextCanon (execHotnessHalving s) := by
  unfold Machine.execHotnessHalving
  split
  · exact .next h.upd.hotnessHalving
  · exact .fault

theorem Canon.execOrderedOverflow (h : s.Canon) : NextCanon (execOrderedOverflow s) := by
  unfold Machine.execOrderedOverflow
  split
  · exact h.onDie fun _ h => h.orderedOverflow
  · exact .fault

theorem Canon.execOrddrop (h : s.Canon) : NextCanon (execOrddrop s) := by
  unfold Machine.execOrddrop
  split
  · exact h.onDie fun _ h => h.orddrop
  · exact .fault

/-! ### Placement: which die, cluster and core a gang takes, what a placed group starts with, and core shares (R70 to R79, R89, R126,
R463) -/

theorem Canon.fillLaunch {ctx rcb} (h : s.Canon) : (s.fillLaunch ctx rcb).Canon := by
  unfold State.fillLaunch
  split
  · split
    · exact h.modStage
    · exact h
  · exact h

theorem Canon.claim {p k d c} (h : s.Canon) : (s.claim p k d c).Canon := .ite h (.foldl h.modCore.modStage fun _ _ h => h.fixHome)

theorem Canon.readEff {cx p} (h : s.Canon) : (s.readEff cx p).Canon := h.settleBuckets.clampPlan.modCtx.modPlan

theorem Canon.placeGang {cx p k st g d c} (h : s.Canon) : (s.placeGang cx p k st g d c).Canon := by
  unfold State.placeGang
  extract_lets ms need
  split
  · exact h
  · exact
      have h1 := h.readEff.claim.upd.modStage.modPlan
      .ite h1.fillLaunch (h1.foldl fun _ _ h => h.fixHome)

theorem Canon.gangPlace {r g} (h : s.Canon) : (gangPlace r g s).Canon := by
  unfold Machine.gangPlace
  split
  · extract_lets st
    split
    · exact h
    · split
      · split
        · exact .ite h.placeGang h
        · exact h
      · split
        · exact h
        · split
          · exact .placeGang (.ite h.bump h)
          · exact h
  · exact h

theorem Canon.plwaitExpiry {r g} (h : s.Canon) : (plwaitExpiry r g s).Canon := by
  unfold Machine.plwaitExpiry
  split
  · extract_lets st
    split
    · exact h
    · split
      · exact h
      · extract_lets ms
        split
        · exact .placeGang (.ite h.bump.bump h.bump)
        · exact h
  · exact h

theorem Canon.execGangPlace (h : s.Canon) : NextCanon (execGangPlace s) := by
  unfold Machine.execGangPlace
  split
  · exact .next h.upd.gangPlace
  · exact .fault

theorem Canon.execPlwaitExpiry (h : s.Canon) : NextCanon (execPlwaitExpiry s) := by
  unfold Machine.execPlwaitExpiry
  split
  · exact .next h.upd.plwaitExpiry
  · exact .fault

theorem Canon.releaseCores (h : s.Canon) : (s.releaseCores).Canon :=
  h.foldl fun _ _ h => h.foldl fun _ _ h => .ite h (.foldl h fun _ _ h => h.modCore.modStage)

theorem Canon.claimOne {cx p k st} (h : s.Canon) (e : s.claimOne cx p k st = some t) : t.Canon := by
  obtain ⟨d, _, e⟩ := List.exists_of_findSome?_eq_some e
  obtain ⟨c, _, rfl⟩ := Option.map_eq_some_iff.1 e
  exact h.claim

theorem Canon.claimShare {ctx rcb k n} (h : s.Canon) : (s.claimShare ctx rcb k n).Canon := by
  induction n generalizing s with
  | zero => exact h
  | succ n ih =>
    rw [State.claimShare]
    split
    · dsimp only
      split
      · exact h
      · split
        · rename_i e1
          exact ih (h.claimOne e1)
        · exact h
    · exact h

theorem Canon.claimCores (h : s.Canon) : (s.claimCores).Canon := h.foldl fun _ _ h => h.claimShare

theorem Canon.settleCores (h : s.Canon) : (s.settleCores).Canon := h.releaseCores.claimCores

/-! ### Freed groups, retirement of launches, plans and contexts, the Weir, deadlock, Sluice's deferred requests, and lost links and dies
(R83 to R92, R297, R307, R445 to R449, R465) -/

theorem Canon.keepBitmap {ctx rcb} (h : s.Canon) : (s.keepBitmap ctx rcb).Canon := by
  unfold State.keepBitmap
  split
  · split
    · exact h.physPut
    · exact h
  · exact h

theorem Canon.groupResourcesFree {r} (h : s.Canon) : (groupResourcesFree r s).Canon := by
  unfold Machine.groupResourcesFree
  split
  · exact h
  · exact h.bump.upd.modGroup.modPlan.keepBitmap

theorem Canon.freeSets (h : s.Canon) : (s.freeSets).Canon := .ite h h.upd

theorem Canon.sweepGroups (h : s.Canon) : (s.sweepGroups).Canon := .ite h h.upd

theorem Canon.launchRetire {r} (h : s.Canon) : (launchRetire r s).Canon := h.applyTargets.modPlan

theorem Canon.dropCtx {id} (h : s.Canon) : (s.dropCtx id).Canon := h.upd.retryNodes

theorem Canon.leaveChunks {c} (h : s.Canon) : (s.leaveChunks c).Canon := .ite h h.upd

theorem Canon.leaveUnits {c} (h : s.Canon) : (s.leaveUnits c).Canon := h.upd

theorem Canon.retireCtxs (h : s.Canon) : (s.retireCtxs).Canon :=
  .foldl (.ite h h.upd) fun _ _ h => h.setResident.bump.upd.leaveUnits.dropCtx

theorem Canon.forgetPlan {pa rcb stamp} (h : s.Canon) : (s.forgetPlan pa rcb stamp).Canon :=
  h.foldl fun _ _ h => .ite h (.ite h.modQueue.after h.modQueue)

theorem Canon.planRetire {r} (h : s.Canon) : (planRetire r s).Canon := by
  unfold Machine.planRetire
  split
  · exact .ite h h.upd.modPlan.bump.retryNodes.forgetPlan
  · exact h

theorem Canon.execGroupResourcesFree (h : s.Canon) : NextCanon (execGroupResourcesFree s) := by
  unfold Machine.execGroupResourcesFree
  split
  · exact .next h.upd.groupResourcesFree
  · exact .fault

theorem Canon.execLaunchRetire (h : s.Canon) : NextCanon (execLaunchRetire s) := by
  unfold Machine.execLaunchRetire
  split
  · exact .next h.upd.launchRetire
  · exact .fault

theorem Canon.execPlanRetire (h : s.Canon) : NextCanon (execPlanRetire s) := by
  unfold Machine.execPlanRetire
  split
  · exact .next h.upd.planRetire
  · exact .fault

theorem Canon.weirSample {r} (h : s.Canon) : (weirSample r s).Canon := by
  unfold Machine.weirSample
  split
  · exact h
  · exact .ite h (.ite h.modPlan.after h.modPlan.after)

theorem Canon.weirMove {cx p to_ from_ c} (h : s.Canon) : (s.weirMove cx p to_ from_ c).Canon := h.modCore.modStage.modStage.bump

theorem Canon.weirIntervalEnd {r} (h : s.Canon) : (weirIntervalEnd r s).Canon := by
  unfold Machine.weirIntervalEnd
  split
  · split
    · exact h
    · extract_lets ps s1 s2
      have h1 : s1.Canon := h.modPlan
      have h2 : s2.Canon := by
        unfold s2
        split
        · exact h1
        · split
          · exact h1
          · split
            · exact h1.weirMove
            · exact h1
      exact h2.after
  · exact h

theorem Canon.execWeirSample (h : s.Canon) : NextCanon (execWeirSample s) := by
  unfold Machine.execWeirSample
  split
  · exact .next h.upd.weirSample
  · exact .fault

theorem Canon.execWeirIntervalEnd (h : s.Canon) : NextCanon (execWeirIntervalEnd s) := by
  unfold Machine.execWeirIntervalEnd
  split
  · exact .next h.upd.weirIntervalEnd
  · exact .fault

theorem Canon.deadlockTick (h : s.Canon) : (s.deadlockTick).Canon :=
  h.foldl fun _ _ h => .ite (.ite h.modPlan h) (.modPlan (.ite h.modPlan h))

theorem Canon.deadlockDeclaration {r} (h : s.Canon) : (deadlockDeclaration r s).Canon := by
  unfold Machine.deadlockDeclaration
  split
  · extract_lets s1 ps
    have h1 : s1.Canon := h.bump
    split
    · exact h1.spill.modPlan
    · exact h1.unitRec.modPlan
  · exact h

theorem Canon.execDeadlockDeclaration (h : s.Canon) : NextCanon (execDeadlockDeclaration s) := by
  unfold Machine.execDeadlockDeclaration
  split
  · exact .next h.upd.deadlockDeclaration
  · exact .fault

theorem Canon.execSluiceDeferredServe (h : s.Canon) : NextCanon (execSluiceDeferredServe s) := by
  unfold Machine.execSluiceDeferredServe
  split
  · exact h.onDie fun _ h => h.sluiceDeferredServe
  · exact .fault

theorem Canon.loseGroups {p} (h : s.Canon) : (s.loseGroups p).Canon := h.upd

theorem Canon.partialLaunch {c p l d} (h : s.Canon) : (s.partialLaunch c p l d).Canon := h.upd.modPlan.keepBitmap.forgetPlan.unitRec

theorem Canon.planLoses {d p} (h : s.Canon) : (s.planLoses d p).Canon := by
  unfold State.planLoses
  split
  · exact .ite h h.partialLaunch
  · exact .ite h h.upd.unitRec
  · exact h

theorem Canon.disown {d} (h : s.Canon) : (s.disown d).Canon := h.upd

theorem Canon.dieUnreachable {d} (h : s.Canon) : (dieUnreachable d s).Canon :=
  .ite h (.disown (.foldl h.modDie.loseGroups.upd fun _ _ h => h.planLoses))

theorem Canon.dieLinkFail {a b} (h : s.Canon) : (dieLinkFail a b s).Canon :=
  .ite h (.ite (.after (.ite h.modDie.modDie.after h.modDie.modDie)) (.ite h.modDie.modDie.after h.modDie.modDie))

theorem Canon.execDieLinkFail (h : s.Canon) : NextCanon (execDieLinkFail s) := by
  unfold Machine.execDieLinkFail
  split
  · exact .ite (.next h.upd.dieLinkFail) .fault
  · exact .fault

theorem Canon.execDieUnreachable (h : s.Canon) : NextCanon (execDieUnreachable s) := by
  unfold Machine.execDieUnreachable
  split
  · exact h.onDie fun _ h => h.dieUnreachable
  · exact .fault

/-! ### Saving a context: the drain, the force cycle, the quiesce and the image (R430 to R433, R264, R323, R352, R382, R408) -/

theorem Canon.land {e} (h : s.Canon) : (s.land e).Canon := by
  unfold State.land
  split
  · exact h.lookaheadResult
  · exact h.cfetchLanded
  · exact h.deliveryCount
  · exact h.engineArrival
  · exact h.tlSigComplete
  · exact h.outCopyEnd
  · exact h.jobLastRead
  · exact h.tidelineBatchApply
  · exact h.taskVerdictReturn
  · exact h.pipeCounterChange
  · exact h

theorem Canon.landEnds {ctx} (h : s.Canon) : (s.landEnds ctx).Canon := h.foldl fun _ _ h => h.modEngine.foldl fun _ _ h => h.jobEnd

theorem Canon.landAll {ctx n} (h : s.Canon) : (s.landAll ctx n).Canon := by
  induction n generalizing s with
  | zero => exact h
  | succ n ih =>
    rw [State.landAll]
    dsimp only
    split
    · exact h
    · exact ih (h.cancel.foldl fun _ _ h => h.land)

theorem Canon.haltRun {d c r} (h : s.Canon) : (s.haltRun d c r).Canon := .ite h h.cancel.countBusy.setRun

theorem Canon.landImplied {ctx} (h : s.Canon) : (s.landImplied ctx).Canon := by
  unfold State.landImplied
  split
  · exact h
  · split
    rename_i s1 e1
    have h1 : s1.Canon := by
      refine .of_eqSnd ?_ e1
      refine .foldlSnd h ?_
      rintro ⟨_, s2⟩ a (h2 : s2.Canon)
      dsimp only
      split
      · exact h2.doneTask
      · exact h2
    exact h1.foldl fun _ _ h => h.enqueueTask.bump

theorem Canon.haltUnits {ctx} (h : s.Canon) : (s.haltUnits ctx).Canon := by
  unfold State.haltUnits
  extract_lets -merge +onlyGivenNames s1 s2 s3 mine gone rest ended unasked aside other still quiet save s4
  have h1 : s1.Canon := h.landEnds.landAll
  have h2 : s2.Canon := h1.foldl fun _ _ h => h.haltRun
  have h3 : s3.Canon := h2.landImplied.landAll
  extract_lets -merge +onlyGivenNames s5
  extract_lets -merge +onlyGivenNames s6
  have h6 : s6.Canon := h3.upd
  refine .foldl h6 fun s7 a h => ?_
  split
  · exact h.pipeDone
  · exact h

theorem Canon.drainEnd {ctx} (h : s.Canon) : (drainEnd ctx s).Canon := by
  unfold Machine.drainEnd
  split
  · exact h
  · split
    · exact .ite h.bump.haltUnits (.ite h.bump.modCtx.after h)
    · exact h

theorem Canon.forceCycle {ctx} (h : s.Canon) : (forceCycle ctx s).Canon := by
  unfold Machine.forceCycle
  split
  · split
    · exact .ite h.haltUnits h
    · exact h
  · exact h

theorem Canon.writeTasks {c} (h : s.Canon) : (s.writeTasks c).Canon := h.foldl fun _ _ h => h.writeBack

theorem Canon.rewaitTeam {t} (h : s.Canon) : (s.rewaitTeam t).Canon := h.foldl fun _ _ h => .ite h.rewait h

theorem Canon.startChan {c} (h : s.Canon) : (s.startChan c).Canon := h.modChan.once.after

theorem Canon.startRun {d c r} (h : s.Canon) : (s.startRun d c r).Canon := .ite h.setBusy h.resumeRun

theorem Canon.heldReplies {c qs} (h : s.Canon) : (s.heldReplies c qs).Canon := h.foldl fun _ _ h => h.applyReply

theorem Canon.requeue {e} (h : s.Canon) : (s.requeue e).Canon := .ite h.modFab h.modFab

theorem Canon.standBack {c} (h : s.Canon) : (s.standBack c).Canon :=
  have h1 := (h.foldl fun _ _ h => h.modCluster).upd.foldl fun _ _ h => h.requeue
  have h2 := (h1.foldl fun _ _ h => h.rewaitTeam).foldl fun _ _ h => h.startChan
  have h3 := (h2.foldl fun _ _ h => h.startRun).foldl fun _ _ h => h.after
  h3.heldReplies.after

theorem Canon.leave {c} (h : s.Canon) : (s.leave c).Canon := h.upd.leaveChunks.dropCtx

theorem Canon.physWrite {d pa bs} (h : s.Canon) : (s.physWrite d pa bs).Canon := .ite h.devPut (.foldl h fun _ _ h => h.physPut)

theorem Canon.quiesce {ctx} (h : s.Canon) : (quiesce ctx s).Canon := by
  unfold Machine.quiesce
  split
  · exact h
  · split
    · exact .ite h.standBack.stopQueue h.writeTasks.upd.physWrite.setResident.leave.commit
    · exact h

theorem Canon.execDrainEnd (h : s.Canon) : NextCanon (execDrainEnd s) := by
  unfold Machine.execDrainEnd
  split
  · exact .next h.upd.drainEnd
  · exact .fault

theorem Canon.execForceCycle (h : s.Canon) : NextCanon (execForceCycle s) := by
  unfold Machine.execForceCycle
  split
  · exact .next h.upd.forceCycle
  · exact .fault

theorem Canon.execQuiesce (h : s.Canon) : NextCanon (execQuiesce s) := by
  unfold Machine.execQuiesce
  split
  · exact .next h.upd.quiesce
  · exact .fault

/-! ### Restoring a context in the phases of Table 1-14, and the start of its units (R46, R48, R49, R67, R68, R79, R103, R341) -/

theorem Canon.restorePlans {c} (h : s.Canon) : (restorePlans c s).Canon :=
  .ite h (.foldl (.upd (.foldl h fun _ _ h => h.modPlan)) fun _ _ h => h.forgetPlan)

theorem Canon.restoreNodes {c} (h : s.Canon) : (restoreNodes c s).Canon := by
  unfold Machine.restoreNodes
  extract_lets xs s1
  have h1 : s1.Canon := .ite h (.foldl h fun _ _ h => h.modPlan)
  refine .foldl h1 fun s2 a h => ?_
  dsimp only
  split
  · exact h
  · exact h.modDie.foldl fun _ _ h => h.tidelineBatchApply

theorem Canon.restoreTables {c} (h : s.Canon) : (restoreTables c s).Canon :=
  have h1 := (h.foldl fun _ _ h => h.modCtx).restoreNodes.foldl fun _ _ h => h.modPipe
  (h1.foldl fun _ _ h => h.modPlan).foldl fun _ _ h => h.upd

theorem Canon.comeBack {c} (h : s.Canon) : (comeBack c s).Canon := by
  unfold Machine.comeBack
  split
  · exact h
  · exact h.upd

theorem Canon.modPending {ctx f} (h : s.Canon) : (s.modPending ctx f).Canon := h.upd

theorem Canon.restoreTeam {c g ix slot x} (h : s.Canon) : (s.restoreTeam c g ix slot x).Canon := h.modPending

/-- The bytes of a range are put anew. -/
theorem Canon.putScratch {α : Type} {lo hi} {a : α → Nat} {v : α → Byte} {l : List α} {clock srace rels atoms hw lastRead teams groups
    bars binds cbars ctxs plans pipes dies cores clusters engines chans fab chunks aways svc sections irqs fresh agenda eoc inputs
    acted closing watched chosen issues parks cur ev} (h : s.Canon) : Canon ⟨clock, s.mem,
    l.foldl (fun m x => cellPut m (a x) (v x)) (cellsClear s.scratch lo hi), srace, rels, atoms, hw, lastRead, teams, groups, bars,
    binds, cbars, ctxs, plans, pipes, dies, cores, clusters, engines, chans, fab, chunks, aways, svc, sections, irqs, fresh, agenda,
    eoc, inputs, acted, closing, watched, chosen, issues, parks, cur, ev⟩ :=
  ⟨h.1, foldl_cellPut_wf _ _ _ _ (cellsClear_wf _ _ _ h.2)⟩

theorem Canon.placeSaved {c x gs} (h : s.Canon) (e : s.placeSaved c x gs = some t) : t.Canon := by
  unfold State.placeSaved at e
  split at e
  · cases e
  · split at e
    · cases e
    · extract_lets -merge +onlyGivenNames st lo hi need d s1 hash ts bound seats at e
      have h1 : s1.Canon := h.readEff
      clear_value s1
      split at e
      · cases e
      · split at e
        · cases e
        · extract_lets -merge +onlyGivenNames put ofGang s2 a cells m quad sh s3 s4 news at e
          have h3 : s3.Canon := h1.claim.modCore
          have h4 : s4.Canon := by
            refine h3.foldl fun s y h => ?_
            split
            · exact h.restoreTeam
            · exact h
          rw [← Option.some.inj e]
          exact Canon.putScratch h4

theorem Canon.restoreSet {c d old a} (h : s.Canon) : (s.restoreSet c d old a).Canon := by
  unfold State.restoreSet
  split
  · exact h
  · extract_lets k
    split
    · exact h.modCluster
    · exact h

theorem Canon.restoreCols {c x paired} (h : s.Canon) : (s.restoreCols c x paired).Canon :=
  h.foldl fun _ _ h => h.foldl fun _ _ h => .ite h h.modEngine

theorem Canon.restoreEngine {c x} (h : s.Canon) : (s.restoreEngine c x).Canon :=
  .modPending (.foldl (.foldl h.restoreCols fun _ _ h => h.restoreSet) fun _ _ h => h.setRun)

theorem Canon.restoreChannel {c x} (h : s.Canon) : (s.restoreChannel c x).Canon := h.modPending

theorem Canon.restoreUnits {c} (h : s.Canon) : (restoreUnits c s).Canon :=
  .foldl (.foldl (.foldl h fun _ _ h => h.restoreCols) fun _ _ h => h.restoreEngine) fun _ _ h => h.restoreChannel

theorem Canon.restoreReplies {c} (h : s.Canon) : (restoreReplies c s).Canon := h.foldl fun _ _ h => h.modPending

theorem Canon.restorePhase {ctx n} (h : s.Canon) : (restorePhase ctx n s).Canon := by
  unfold Machine.restorePhase
  split
  · exact h
  · split
    · exact h
    · extract_lets next
      split
      · exact h.restorePlans.modCtx.after
      · exact h.restoreTables.comeBack.modCtx.after
      · split
        · split
          · rename_i s1 e1
            have h1 : s1.Canon := h.placeSaved e1
            exact h1.after
          · exact h.after
        · exact .ite h.restoreUnits.modCtx.after h.after
      · exact h.restoreReplies.after

theorem Canon.takeArea {c} (h : s.Canon) : (s.takeArea c).2.Canon := by
  unfold State.takeArea
  split
  · rename_i s1 e1
    have h1 : s1.Canon := .of_eqSnd h.recWords e1
    exact .snd (.ite h1 h1.recWrite)
  · rename_i e1
    exact .of_eqSnd h.recWords e1

theorem Canon.rootCounts {p} (h : s.Canon) : (s.rootCounts p).Canon :=
  .foldl (.foldl h fun _ _ h => .ite h.modDie h.holdBatch) fun _ _ h => h.postMsg

theorem Canon.rejoin {c} (h : s.Canon) : (s.rejoin c).Canon := h.upd

theorem Canon.startPlan {c rcb} (h : s.Canon) : (s.startPlan c rcb).Canon := by
  unfold State.startPlan
  split
  · exact h
  · exact
      have h1 := (Canon.ite h.rootCounts h).modPlan
      have h2 := h1.foldl fun _ _ h => h.claimShare
      .ite h (.ite h1.fillLaunch (.ite h2 h2.after))

theorem Canon.rearmChunk {k} (h : s.Canon) : (s.rearmChunk k).Canon := by
  unfold State.rearmChunk
  split
  · exact h
  · exact .ite h h.cancel.modChunk.armChunk

theorem Canon.startUnits {ctx} (h : s.Canon) : (startUnits ctx s).Canon := by
  unfold Machine.startUnits
  split
  · exact h
  · split
    · exact h
    · extract_lets cold bars s1 m lift s2 s3
      have h1 : s1.Canon := h.upd
      have h2 : s2.Canon := h1.modPending
      have h3 : s3.Canon := h2.rejoin
      split
      rename_i s4 e4
      have h4 : s4.Canon := .of_eqSnd h3.takeArea e4
      exact .foldl (.foldl h4.modPending.standBack.modCtx fun _ _ h => h.startPlan) fun _ _ h => h.rearmChunk.chunkCheck

theorem Canon.execRestorePhase (h : s.Canon) : NextCanon (execRestorePhase s) := by
  unfold Machine.execRestorePhase
  split
  · exact .next h.upd.restorePhase
  · exact .fault

theorem Canon.execStartUnits (h : s.Canon) : NextCanon (execStartUnits s) := by
  unfold Machine.execStartUnits
  split
  · exact .next h.upd.startUnits
  · exact .fault

/-! ### Resets, recalibration, firmware banks, configuration records and telemetry (R450 to R458) -/

theorem Canon.unitReset {d refused} {f : State → State} (h : s.Canon) (hf : ∀ s, s.Canon → (f s).Canon) : (s.unitReset d refused f).Canon :=
  .ite h (.ite h.setFld (hf _ h.setFld))

theorem Canon.abortRun {d ix} (h : s.Canon) : (s.abortRun d ix).Canon := by
  unfold State.abortRun
  split
  · exact h.cancel.finishJob
  · exact h

theorem Canon.engineReset {d unit} (h : s.Canon) : (engineReset d unit s).Canon := h.unitReset (fun _ h => h.abortRun.modEngine)

theorem Canon.abortNext {d core ix} (h : s.Canon) : (s.abortNext d core ix).Canon := by
  unfold State.abortNext
  split
  · exact h.putDesc.chanReply
  · exact h

theorem Canon.abortChan {d core ix} (h : s.Canon) : (s.abortChan d core ix).Canon := h.foldl fun _ _ h => h.abortNext

theorem Canon.channelReset {d unit} (h : s.Canon) : (channelReset d unit s).Canon := h.unitReset (fun _ h => h.abortChan)

theorem Canon.restartWalks {d n} (h : s.Canon) : (s.restartWalks d n).Canon :=
  .upd (.modDie (.foldl h fun _ _ h => h.foldl fun _ _ h => h.moveAccess))

theorem Canon.walkerReset {d} (h : s.Canon) : (walkerReset d s).Canon := h.unitReset (fun _ h => h.restartWalks.modDie.upd)

theorem Canon.rebuildNode {d} (h : s.Canon) : (s.rebuildNode d).Canon := .ite h.modDie h.modDie.upd.after

theorem Canon.tidelineNodeReset {d} (h : s.Canon) : (tidelineNodeReset d s).Canon := h.unitReset (fun _ h => h.rebuildNode)

theorem Canon.abortGroup {g} (h : s.Canon) : (s.abortGroup g).Canon := h.modGroup.foldl fun _ _ h => .ite h h.exitLanes

theorem Canon.coreReset {d unit} (h : s.Canon) : (coreReset d unit s).Canon :=
  h.unitReset fun _ h => (h.foldl fun _ _ h => h.abortGroup).abortChan.abortChan.modCore.clearScratch

theorem Canon.bootLater {d} (h : s.Canon) : (s.bootLater d).Canon := h.upd.after

theorem Canon.loseDirty {d} (h : s.Canon) : (s.loseDirty d).Canon :=
  h.foldl fun _ _ h => h.foldl fun _ _ h => h.memPut.upd

theorem Canon.writeBackAll {d} (h : s.Canon) : (s.writeBackAll d).Canon := h.foldl fun _ _ h => h.modDie

theorem Canon.clearDie {d} (h : s.Canon) : (s.clearDie d).Canon := h.cancel.clearScratch

theorem Canon.resetDie {d} (h : s.Canon) : (s.resetDie d).Canon :=
  .bootLater (.clearDie (.dieUnreachable (.ite h.writeBackAll h.loseDirty)))

theorem Canon.dieReset {d unit} (h : s.Canon) : (dieReset d unit s).Canon :=
  .ite h (.unitReset h (fun _ h => h.resetDie.setFld.setFld.setFld))

theorem Canon.thermalReset {d} (h : s.Canon) : (thermalReset d s).Canon := h.resetDie

theorem Canon.thermalEvent {d} (h : s.Canon) : (thermalEvent d s).Canon := h.upd

theorem Canon.dieBoot {d} (h : s.Canon) : (dieBoot d s).Canon :=
  have h1 := (h.upd.upd.upd.foldl fun _ _ h => h.modCore).foldl fun _ _ h => .ite h h.modEngine
  .after (.rebuildNode (.setFld (h1.modDie.upd.foldl fun _ _ h => .ite h.setFld h)))

theorem Canon.cleared {c} : (s.cleared c).Canon := Canon.reset.upd.foldl fun _ _ h => h.bootLater

/-- The memory of one state and the scratchpad of another. -/
theorem Canon.mix {clock srace rels atoms hw lastRead teams groups bars binds cbars ctxs plans pipes dies cores clusters engines chans
    fab chunks aways svc sections irqs fresh agenda eoc inputs acted closing watched chosen issues parks cur ev} (h : s.Canon)
    (ht : t.Canon) : Canon ⟨clock, s.mem, t.scratch, srace, rels, atoms, hw, lastRead, teams, groups, bars, binds, cbars, ctxs, plans,
    pipes, dies, cores, clusters, engines, chans, fab, chunks, aways, svc, sections, irqs, fresh, agenda, eoc, inputs, acted, closing,
    watched, chosen, issues, parks, cur, ev⟩ := ⟨h.1, ht.2⟩

theorem Canon.packageWarmReset (h : s.Canon) : (Machine.packageWarmReset s).Canon := by
  unfold Machine.packageWarmReset
  extract_lets f s1 y
  have h1 : s1.Canon := h.foldl fun _ _ h => h.loseDirty
  have hy : y.Canon := .cleared
  clear_value s1 y
  exact Canon.mix h1 hy

theorem Canon.packageColdReset : (Machine.packageColdReset s).Canon := Canon.cleared

theorem Canon.managementDomainReset (h : s.Canon) : (managementDomainReset s).Canon := h.cancel.upd

theorem Canon.execEngineReset (h : s.Canon) : NextCanon (execEngineReset s) := by
  unfold Machine.execEngineReset
  split
  · exact h.onDie fun _ h => h.engineReset
  · exact .fault

theorem Canon.execChannelReset (h : s.Canon) : NextCanon (execChannelReset s) := by
  unfold Machine.execChannelReset
  split
  · exact h.onDie fun _ h => h.channelReset
  · exact .fault

theorem Canon.execWalkerReset (h : s.Canon) : NextCanon (execWalkerReset s) := by
  unfold Machine.execWalkerReset
  split
  · exact h.onDie fun _ h => h.walkerReset
  · exact .fault

theorem Canon.execTidelineNodeReset (h : s.Canon) : NextCanon (execTidelineNodeReset s) := by
  unfold Machine.execTidelineNodeReset
  split
  · exact h.onDie fun _ h => h.tidelineNodeReset
  · exact .fault

theorem Canon.execCoreReset (h : s.Canon) : NextCanon (execCoreReset s) := by
  unfold Machine.execCoreReset
  split
  · exact h.onDie fun _ h => h.coreReset
  · exact .fault

theorem Canon.execDieReset (h : s.Canon) : NextCanon (execDieReset s) := by
  unfold Machine.execDieReset
  split
  · exact h.onDie fun _ h => h.dieReset
  · exact .fault

theorem Canon.execPackageWarmReset (h : s.Canon) : NextCanon (execPackageWarmReset s) := by
  unfold Machine.execPackageWarmReset
  split
  · exact .next h.upd.packageWarmReset
  · exact .fault

theorem Canon.execPackageColdReset : NextCanon (execPackageColdReset s) := by
  unfold Machine.execPackageColdReset
  split
  · exact .next .packageColdReset
  · exact .fault

theorem Canon.execManagementDomainReset (h : s.Canon) : NextCanon (execManagementDomainReset s) := by
  unfold Machine.execManagementDomainReset
  split
  · exact .next h.upd.managementDomainReset
  · exact .fault

theorem Canon.execDieBoot (h : s.Canon) : NextCanon (execDieBoot s) := by
  unfold Machine.execDieBoot
  split
  · exact h.onDie fun _ h => h.dieBoot
  · exact .fault

theorem Canon.execThermalEvent (h : s.Canon) : NextCanon (execThermalEvent s) := by
  unfold Machine.execThermalEvent
  split
  · exact h.onDie fun _ h => h.thermalEvent
  · exact .fault

theorem Canon.execThermalReset (h : s.Canon) : NextCanon (execThermalReset s) := by
  unfold Machine.execThermalReset
  split
  · exact h.onDie fun _ h => h.thermalReset
  · exact .fault

theorem Canon.hbmChannelRecalibration {d chan} (h : s.Canon) : (hbmChannelRecalibration d chan s).Canon := h.modDie.upd

theorem Canon.wavelengthRecalibration {plane wave} (h : s.Canon) : (wavelengthRecalibration plane wave s).Canon :=
  .ite h.upd (.ite h.after h.upd.after)

theorem Canon.execHbmChannelRecalibration (h : s.Canon) : NextCanon (execHbmChannelRecalibration s) := by
  unfold Machine.execHbmChannelRecalibration
  split
  · exact h.onDie fun _ h => h.hbmChannelRecalibration
  · exact .fault

theorem Canon.execWavelengthRecalibration (h : s.Canon) : NextCanon (execWavelengthRecalibration s) := by
  unfold Machine.execWavelengthRecalibration
  split
  · exact .ite (.next h.upd.wavelengthRecalibration) .fault
  · exact .fault

theorem Canon.updateStep {version step v} (h : s.Canon) : (s.updateStep version step v).Canon := h.upd.after

theorem Canon.firmwareUpdate {version} (h : s.Canon) : (firmwareUpdate version s).Canon := by
  unfold Machine.firmwareUpdate
  extract_lets -merge +onlyGivenNames v bank
  split
  · exact h.updateStep
  · split
    · exact h.after
    · extract_lets -merge +onlyGivenNames m
      split
      · exact .ite h.updateStep h.upd
      · exact .ite h.upd h.upd.after

theorem Canon.firmwareActivation {d} (h : s.Canon) : (firmwareActivation d s).Canon :=
  have h1 := h.upd.firmwareRestart.setFld.upd.after
  .ite h.after (.ite h1.setFld (.ite h1.after h1))

theorem Canon.execFirmwareUpdate (h : s.Canon) : NextCanon (execFirmwareUpdate s) := by
  unfold Machine.execFirmwareUpdate
  split
  · exact .next h.upd.firmwareUpdate
  · exact .fault

theorem Canon.execFirmwareActivation (h : s.Canon) : NextCanon (execFirmwareActivation s) := by
  unfold Machine.execFirmwareActivation
  split
  · exact h.onDie fun _ h => h.firmwareActivation
  · exact .fault

theorem Canon.telemetryRead {schema} (h : s.Canon) : (telemetryRead schema s).Canon := by
  unfold Machine.telemetryRead
  split
  · exact h.upd
  · exact h

theorem Canon.execTelemetryRead (h : s.Canon) : NextCanon (execTelemetryRead s) := by
  unfold Machine.execTelemetryRead
  split
  · exact .next h.upd.telemetryRead
  · exact .fault

/-! ### exec: one arm per constructor of Instr, each one call of that instruction's meaning -/

theorem Canon.exec {i} (h : s.Canon) : NextCanon (exec i s) := by
  cases i with
  | nop => exact h.execNop
  | bra => exact h.execBra
  | brx => exact h.execBrx
  | call => exact h.execCall
  | ret => exact h.execRet
  | join => exact h.execJoin
  | jset => exact h.execJset
  | jclr => exact h.execJclr
  | exit => exact h.execExit
  | yield => exact h.execYield
  | sleep => exact h.execSleep
  | fjmp => exact h.execFjmp
  | cfetch => exact h.execCfetch
  | prefi => exact h.execPrefi
  | iadd => exact h.execIadd
  | isub => exact h.execIsub
  | imul => exact h.execImul
  | imulhi => exact h.execImulhi
  | imad => exact h.execImad
  | imadw => exact h.execImadw
  | idiv => exact h.execIdiv
  | irem => exact h.execIrem
  | ineg => exact h.execIneg
  | iabs => exact h.execIabs
  | imin => exact h.execImin
  | imax => exact h.execImax
  | iclamp => exact h.execIclamp
  | isad => exact h.execIsad
  | aadd => exact h.execAadd
  | lea => exact h.execLea
  | mov => exact h.execMov
  | movi => exact h.execMovi
  | movk => exact h.execMovk
  | sel => exact h.execSel
  | and => exact h.execAnd
  | or => exact h.execOr
  | xor => exact h.execXor
  | not => exact h.execNot
  | lop3 => exact h.execLop3
  | shl => exact h.execShl
  | shr => exact h.execShr
  | sar => exact h.execSar
  | rot => exact h.execRot
  | shf => exact h.execShf
  | popc => exact h.execPopc
  | clz => exact h.execClz
  | ctz => exact h.execCtz
  | brev => exact h.execBrev
  | bfe => exact h.execBfe
  | bfi => exact h.execBfi
  | prmt => exact h.execPrmt
  | sext => exact h.execSext
  | icmp => exact h.execIcmp
  | fcmp => exact h.execFcmp
  | pset => exact h.execPset
  | p2g => exact h.execP2g
  | g2p => exact h.execG2p
  | ballot => exact h.execBallot
  | vote => exact h.execVote
  | shfl => exact h.execShfl
  | bcast => exact h.execBcast
  | tred => exact h.execTred
  | tscan => exact h.execTscan
  | matchLanes => exact h.execMatchLanes
  | kmov => exact h.execKmov
  | kadd => exact h.execKadd
  | kcmp => exact h.execKcmp
  | kld => exact h.execKld
  | rdsr => exact h.execRdsr
  | wrsr => exact h.execWrsr
  | clk => exact h.execClk
  | fadd => exact h.execFadd
  | fsub => exact h.execFsub
  | fmul => exact h.execFmul
  | ffma => exact h.execFfma
  | fmin => exact h.execFmin
  | fmax => exact h.execFmax
  | frcp => exact h.execFrcp
  | frsq => exact h.execFrsq
  | fsqrt => exact h.execFsqrt
  | fdiv => exact h.execFdiv
  | fex2 => exact h.execFex2
  | flg2 => exact h.execFlg2
  | fsin => exact h.execFsin
  | fcos => exact h.execFcos
  | ftanh => exact h.execFtanh
  | fclass => exact h.execFclass
  | fscale => exact h.execFscale
  | frnd => exact h.execFrnd
  | hadd2F16 => exact h.execHadd2F16
  | hmul2F16 => exact h.execHmul2F16
  | hfma2F16 => exact h.execHfma2F16
  | hmin2F16 => exact h.execHmin2F16
  | hmax2F16 => exact h.execHmax2F16
  | hdot2F16 => exact h.execHdot2F16
  | hadd2Bf16 => exact h.execHadd2Bf16
  | hmul2Bf16 => exact h.execHmul2Bf16
  | hfma2Bf16 => exact h.execHfma2Bf16
  | hmin2Bf16 => exact h.execHmin2Bf16
  | hmax2Bf16 => exact h.execHmax2Bf16
  | hdot2Bf16 => exact h.execHdot2Bf16
  | cvt => exact h.execCvt
  | quant => exact h.execQuant
  | dequant => exact h.execDequant
  | packPlanes => exact h.execPackPlanes
  | packPair => exact h.execPackPair
  | unpackPlanes => exact h.execUnpackPlanes
  | unpackPair => exact h.execUnpackPair
  | scalmax => exact h.execScalmax
  | ld => exact h.execLd
  | st => exact h.execSt
  | ldk => exact h.execLdk
  | stc => exact h.execStc
  | lde => exact h.execLde
  | prefd => exact h.execPrefd
  | cctlIcinv => exact h.execCctlIcinv
  | cctlRdcinv => exact h.execCctlRdcinv
  | cctlWb => exact h.execCctlWb
  | cctlWbinv => exact h.execCctlWbinv
  | atom => exact h.execAtom
  | red => exact h.execRed
  | cas => exact h.execCas
  | ordadd => exact h.execOrdadd
  | flushord => exact h.execFlushord
  | fence => exact h.execFence
  | cpy => exact h.execCpy
  | cpytIn => exact h.execCpytIn
  | cpytOut => exact h.execCpytOut
  | cpycsr => exact h.execCpycsr
  | bsetArm => exact h.execBsetArm
  | bsetClose => exact h.execBsetClose
  | bsetDrain => exact h.execBsetDrain
  | bsetFree => exact h.execBsetFree
  | bsetReset => exact h.execBsetReset
  | bwait => exact h.execBwait
  | bquery => exact h.execBquery
  | wptr => exact h.execWptr
  | wptrGe => exact h.execWptrGe
  | pres => exact h.execPres
  | pcom => exact h.execPcom
  | ptake => exact h.execPtake
  | prel => exact h.execPrel
  | pcpyIn => exact h.execPcpyIn
  | pcpyOut => exact h.execPcpyOut
  | pquery => exact h.execPquery
  | pspill => exact h.execPspill
  | pdrain => exact h.execPdrain
  | mxLdb => exact h.execMxLdb
  | mxMma => exact h.execMxMma
  | mxGmma => exact h.execMxGmma
  | mxRd => exact h.execMxRd
  | mxClr => exact h.execMxClr
  | mxPost => exact h.execMxPost
  | mxRing => exact h.execMxRing
  | mxStat => exact h.execMxStat
  | barArr => exact h.execBarArr
  | barWait => exact h.execBarWait
  | barSync => exact h.execBarSync
  | barBytes => exact h.execBarBytes
  | barMem => exact h.execBarMem
  | barMemBind => exact h.execBarMemBind
  | barMemUnbind => exact h.execBarMemUnbind
  | tlSig => exact h.execTlSig
  | tlWait => exact h.execTlWait
  | tlRd => exact h.execTlRd
  | ltSet => exact h.execLtSet
  | ltAdv => exact h.execLtAdv
  | ltHold => exact h.execLtHold
  | ltHoldRoot => exact h.execLtHoldRoot
  | ltDrop => exact h.execLtDrop
  | ltDropRoot => exact h.execLtDropRoot
  | ltFront => exact h.execLtFront
  | ltAwait => exact h.execLtAwait
  | tkPost => exact h.execTkPost
  | tkDone => exact h.execTkDone
  | tkArmBind => exact h.execTkArmBind
  | tkArmUnbind => exact h.execTkArmUnbind
  | tkArmTake => exact h.execTkArmTake
  | tkArmTakeDirect => exact h.execTkArmTakeDirect
  | fxSend => exact h.execFxSend
  | fxCirc => exact h.execFxCirc
  | fxGen => exact h.execFxGen
  | fxGenNe => exact h.execFxGenNe
  | fxSlot => exact h.execFxSlot
  | fxQstat => exact h.execFxQstat
  | coFire => exact h.execCoFire
  | coAck => exact h.execCoAck
  | coAckAll => exact h.execCoAckAll
  | coStat => exact h.execCoStat
  | trap => exact h.execTrap
  | brk => exact h.execBrk
  | sysc => exact h.execSysc
  | wdkick => exact h.execWdkick
  | rte => exact h.execRte
  | rdwin => exact h.execRdwin
  | wrwin => exact h.execWrwin
  | park => exact h.execPark
  | unpark => exact h.execUnpark
  | csave => exact h.execCsave
  | crest => exact h.execCrest
  | halt => exact h.execHalt
  | quadIssue => exact h.execQuadIssue
  | watchdogExpiry => exact h.execWatchdogExpiry
  | sleepExpiry => exact h.execSleepExpiry
  | lookaheadResult => exact h.execLookaheadResult
  | icacheFill => exact h.execIcacheFill
  | cfetchLanded => exact h.execCfetchLanded
  | tailSubmission => exact h.execTailSubmission
  | fifoEntryEvaluation => exact h.execFifoEntryEvaluation
  | tailerrClear => exact h.execTailerrClear
  | queueEnable => exact h.execQueueEnable
  | qheadWrite => exact h.execQheadWrite
  | cmdNop => exact h.execCmdNop
  | cmdResume => exact h.execCmdResume
  | cmdPreempt => exact h.execCmdPreempt
  | cmdDrainPlan => exact h.execCmdDrainPlan
  | cmdIndirect => exact h.execCmdIndirect
  | cmdReturn => exact h.execCmdReturn
  | cmdSignal => exact h.execCmdSignal
  | cmdWaitTime => exact h.execCmdWaitTime
  | cmdFence => exact h.execCmdFence
  | waitTimePoll => exact h.execWaitTimePoll
  | fenceCommit => exact h.execFenceCommit
  | firmwareRestart => exact h.execFirmwareRestart
  | ctxidWrite => exact h.execCtxidWrite
  | restorePhase => exact h.execRestorePhase
  | startUnits => exact h.execStartUnits
  | gangPlace => exact h.execGangPlace
  | plwaitExpiry => exact h.execPlwaitExpiry
  | shadowSlotTake => exact h.execShadowSlotTake
  | weirSample => exact h.execWeirSample
  | weirIntervalEnd => exact h.execWeirIntervalEnd
  | sluiceDeferredServe => exact h.execSluiceDeferredServe
  | dieLinkFail => exact h.execDieLinkFail
  | dieUnreachable => exact h.execDieUnreachable
  | memoryAccessPerform => exact h.execMemoryAccessPerform
  | translationWalk => exact h.execTranslationWalk
  | rdcProbe => exact h.execRdcProbe
  | probeAck => exact h.execProbeAck
  | dropNotice => exact h.execDropNotice
  | hbmRefresh => exact h.execHbmRefresh
  | invalidationStart => exact h.execInvalidationStart
  | invalidationComplete => exact h.execInvalidationComplete
  | migrationStart => exact h.execMigrationStart
  | migrationEnd => exact h.execMigrationEnd
  | hotnessHalving => exact h.execHotnessHalving
  | orderedOverflow => exact h.execOrderedOverflow
  | orddrop => exact h.execOrddrop
  | copyDescriptorStart => exact h.execCopyDescriptorStart
  | copyReadComplete => exact h.execCopyReadComplete
  | deliveryCount => exact h.execDeliveryCount
  | outCopyEnd => exact h.execOutCopyEnd
  | handleWaiterWake => exact h.execHandleWaiterWake
  | pipeRequestArrival => exact h.execPipeRequestArrival
  | pipeCounterChange => exact h.execPipeCounterChange
  | tileSpill => exact h.execTileSpill
  | deadlockDeclaration => exact h.execDeadlockDeclaration
  | stagingTransfer => exact h.execStagingTransfer
  | tileArrival => exact h.execTileArrival
  | creditReport => exact h.execCreditReport
  | stagingAck => exact h.execStagingAck
  | jobStart => exact h.execJobStart
  | jobLastRead => exact h.execJobLastRead
  | engineArrival => exact h.execEngineArrival
  | jobComplete => exact h.execJobComplete
  | selfTest => exact h.execSelfTest
  | controlStoreLoad => exact h.execControlStoreLoad
  | barrierPhaseAdvance => exact h.execBarrierPhaseAdvance
  | barrierWaiterRelease => exact h.execBarrierWaiterRelease
  | tlSigComplete => exact h.execTlSigComplete
  | timelineWaiterWake => exact h.execTimelineWaiterWake
  | tidelineBatchApply => exact h.execTidelineBatchApply
  | frontierRecompute => exact h.execFrontierRecompute
  | frontierWaiterRelease => exact h.execFrontierWaiterRelease
  | tidelineHeldTimeout => exact h.execTidelineHeldTimeout
  | taskRequestArrival => exact h.execTaskRequestArrival
  | taskVerdictReturn => exact h.execTaskVerdictReturn
  | ualinkReplay => exact h.execUalinkReplay
  | ualinkPortFail => exact h.execUalinkPortFail
  | ualinkPortRetrain => exact h.execUalinkPortRetrain
  | ualinkRouteTimeout => exact h.execUalinkRouteTimeout
  | sendEligible => exact h.execSendEligible
  | dataPeriodStart => exact h.execDataPeriodStart
  | guardInterval => exact h.execGuardInterval
  | frameReceive => exact h.execFrameReceive
  | frameAckReceive => exact h.execFrameAckReceive
  | controlMessage => exact h.execControlMessage
  | circuitRequestArrival => exact h.execCircuitRequestArrival
  | tableActivation => exact h.execTableActivation
  | circuitRequestWithdraw => exact h.execCircuitRequestWithdraw
  | receiveWindowEnable => exact h.execReceiveWindowEnable
  | childPartialArrival => exact h.execChildPartialArrival
  | reduceBlockEnd => exact h.execReduceBlockEnd
  | commitRequest => exact h.execCommitRequest
  | broadcastArrival => exact h.execBroadcastArrival
  | redoRequest => exact h.execRedoRequest
  | redo => exact h.execRedo
  | collectiveFail => exact h.execCollectiveFail
  | faultRecordWrite => exact h.execFaultRecordWrite
  | drainEnd => exact h.execDrainEnd
  | forceCycle => exact h.execForceCycle
  | quiesce => exact h.execQuiesce
  | groupResourcesFree => exact h.execGroupResourcesFree
  | launchRetire => exact h.execLaunchRetire
  | planRetire => exact h.execPlanRetire
  | engineReset => exact h.execEngineReset
  | channelReset => exact h.execChannelReset
  | walkerReset => exact h.execWalkerReset
  | tidelineNodeReset => exact h.execTidelineNodeReset
  | coreReset => exact h.execCoreReset
  | dieReset => exact h.execDieReset
  | packageWarmReset => exact h.execPackageWarmReset
  | packageColdReset => exact Canon.execPackageColdReset
  | managementDomainReset => exact h.execManagementDomainReset
  | dieBoot => exact h.execDieBoot
  | hbmChannelRecalibration => exact h.execHbmChannelRecalibration
  | wavelengthRecalibration => exact h.execWavelengthRecalibration
  | firmwareUpdate => exact h.execFirmwareUpdate
  | firmwareActivation => exact h.execFirmwareActivation
  | thermalEvent => exact h.execThermalEvent
  | thermalReset => exact h.execThermalReset
  | telemetryRead => exact h.execTelemetryRead
  | counterReadClear => exact h.execCounterReadClear
  | registerWrite => exact h.execRegisterWrite
  | waitTimeClockReached => exact h.execWaitTimeClockReached
  | fqbaseWrite => exact h.execFqbaseWrite
  | fqtailWrite => exact h.execFqtailWrite
  | firmwareRestartEnd => exact h.execFirmwareRestartEnd

/-! ### The order in which the events of one cycle happen, and the end of a cycle (log entry 1) -/

theorem Canon.pickEvent {i} (h : s.Canon) (e : s.pickEvent = some (i, t)) : t.Canon := by
  unfold State.pickEvent at e
  split at e
  · cases e; exact h.upd
  · split at e
    · cases e; exact h.upd
    · split at e
      · split at e
        · cases e; exact h.upd
        · obtain ⟨_, _, e⟩ := Option.map_eq_some_iff.1 e
          cases e; exact h
      · obtain ⟨_, _, e⟩ := Option.map_eq_some_iff.1 e
        cases e; exact h.upd

theorem Canon.orderIssues (h : s.Canon) : (s.orderIssues).Canon := h.upd

theorem Canon.joinAll (h : s.Canon) : (s.joinAll).Canon := h.foldl fun _ _ h => h.joinTest

theorem Canon.watchAll (h : s.Canon) : (s.watchAll).Canon := h.foldl fun _ _ h => h.watchdogTick

theorem Canon.pushBars (h : s.Canon) : (s.pushBars).Canon := h.foldl fun _ _ h => h.atEnd

theorem Canon.countHeld (h : s.Canon) : (s.countHeld).Canon := h.foldl fun _ _ h => .ite h h.bump

theorem Canon.tick (h : s.Canon) : (s.tick).Canon := h.upd

theorem Canon.watch (h : s.Canon) : (s.watch).Canon := h.wakeHalts.retryReplies.endOps.joinAll.watchAll.upd

theorem Canon.endCycle (h : s.Canon) : (s.endCycle).Canon :=
  h.freeGroups.freeSets.sweepGroups.settleCores.retireCtxs.deadlockTick.wakeHalts.retryReplies.countWaiting.pushBars.countHeld.tick.firesDue

/-! ### One step of the package: one issued word, one event, or the end of a cycle (log entry 1) -/

theorem Canon.stepIssue {i tm} (h : s.Canon) : NextCanon (stepIssue s i tm) := by
  unfold Machine.stepIssue
  dsimp only
  split
  · exact h.upd.exec
  · exact .next h.badWord

theorem Canon.stepEvent {e} (h : s.Canon) : NextCanon (stepEvent s e) := h.upd.exec

theorem Canon.stepIdle (h : s.Canon) : NextCanon (stepIdle s) := by
  unfold Machine.stepIdle
  split
  · rename_i e
    exact (h.pickEvent e).stepEvent
  · exact .ite (.next h.orderIssues) (.ite (.next h.upd) (.ite (.next h.watch) (.next h.endCycle)))

theorem Canon.step (h : s.Canon) : NextCanon (step s) := by
  unfold Machine.step
  split
  · exact h.stepIdle
  · split
    · exact h.upd.stepEvent
    · extract_lets i s1
      have h1 : s1.Canon := h.upd
      split
      · exact .ite (.next h1) h1.stepIssue
      · exact .next h1

end State

/-- Settles O58: each function that makes a state keeps the canonical form of memory and scratchpad (`State.Canon`), and a step is
made of such functions. -/
theorem memoryStaysCanonical : Obligations.MemoryStaysCanonical := by
  intro s t h e
  exact State.memOk_iff_canon.2 ((State.memOk_iff_canon.1 h).step t e)

end Sys2Proof.Machine
end

section
/-! Events of the queues and of placement (O32). An event's meaning runs its operation under the test that its unit is one of the
package; `eventRuns_of_guard` says so once, and the lemmas after it name the tests that events make. -/

namespace Sys2Proof.Machine

variable {i : Instr} {e : Event} {ok : Prop} {op : State → State}

/-- An event runs where `ok` gives the test `c` that its meaning makes; the meaning is asked only for states in which the event
happens. -/
theorem eventRuns_of_guard {c : Prop} [Decidable c] (hc : ok → c)
    (hx : ∀ s : State, exec i { s with ev := some e } = if c then .next (op { s with ev := none }) else .fault .noUnit) :
    EventRuns i e ok op := by
  intro s hev hok
  have hs : { s with ev := some e } = s := by rw [← hev]
  calc exec i s = exec i { s with ev := some e } := by rw [hs]
    _ = if c then .next (op { s with ev := none }) else .fault .noUnit := hx s
    _ = .next (op { s with ev := none }) := if_pos (hc hok)

/-- An event that names no numbered unit makes no test. -/
theorem eventRuns_of_next (hx : ∀ s : State, exec i { s with ev := some e } = .next (op { s with ev := none })) :
    EventRuns i e True op :=
  eventRuns_of_guard id fun s => by rw [hx s, if_pos trivial]

/-- A die's event tests its die's number. -/
theorem eventRuns_of_onDie {d : Nat} (hx : ∀ s : State, exec i { s with ev := some e } = onDie { s with ev := some e } d op) :
    EventRuns i e (d < 4) op :=
  eventRuns_of_guard id hx

/-- An event of a unit with two numbers (a queue of a die, a core of a die, a pair of dies) tests both. -/
theorem eventRuns_of_two_bounds {a b m n : Nat}
    (hx : ∀ s : State, exec i { s with ev := some e } =
      if (decide (a < m) && decide (b < n)) = true then .next (op { s with ev := none }) else .fault .noUnit) :
    EventRuns i e (a < m ∧ b < n) op :=
  eventRuns_of_guard (fun ⟨ha, hb⟩ => by simp [ha, hb]) hx

/-- A command's event tests its queue's numbers, and serves the queue before the command's operation. -/
theorem eventRuns_of_onCommand {q : QRef} {f : State → State}
    (hx : ∀ s : State, exec i { s with ev := some e } = onCommand { s with ev := some e } q f) :
    EventRuns i e (q.die < 4 ∧ q.q < 32) fun s => f (s.serve q) :=
  eventRuns_of_two_bounds hx

/-- Settles O32: the meaning of each event, on a state in which it happens, is its operation under the test of the unit it names. -/
theorem queueAndPlacementEventsRun : Obligations.QueueAndPlacementEventsRun :=
  ⟨-- the registers of a queue, and its entries
    fun _ _ => eventRuns_of_two_bounds fun _ => rfl,
    fun _ => eventRuns_of_onDie fun _ => rfl,
    fun _ _ => eventRuns_of_two_bounds fun _ => rfl,
    fun _ _ => eventRuns_of_two_bounds fun _ => rfl,
    fun _ _ => eventRuns_of_two_bounds fun _ => rfl,
    -- the commands, from NOP to FENCE
    fun _ _ _ => eventRuns_of_onCommand fun _ => rfl,
    fun _ _ _ => eventRuns_of_onCommand fun _ => rfl,
    fun _ _ _ => eventRuns_of_onCommand fun _ => rfl,
    fun _ _ _ => eventRuns_of_onCommand fun _ => rfl,
    fun _ _ _ => eventRuns_of_onCommand fun _ => rfl,
    fun _ _ _ => eventRuns_of_onCommand fun _ => rfl,
    fun _ _ _ => eventRuns_of_onCommand fun _ => rfl,
    fun _ _ _ => eventRuns_of_onCommand fun _ => rfl,
    fun _ _ _ => eventRuns_of_onCommand fun _ => rfl,
    -- what commands wait for, the restart of the firmware core, and CTXID
    fun _ => eventRuns_of_two_bounds fun _ => rfl,
    fun _ => eventRuns_of_two_bounds fun _ => rfl,
    fun _ => eventRuns_of_onDie fun _ => rfl,
    fun _ => eventRuns_of_two_bounds fun _ => rfl,
    -- the start of a context, and the placement of its gangs
    fun _ _ => eventRuns_of_next fun _ => rfl,
    fun _ => eventRuns_of_next fun _ => rfl,
    fun _ _ => eventRuns_of_next fun _ => rfl,
    fun _ _ => eventRuns_of_next fun _ => rfl,
    fun _ _ _ => eventRuns_of_two_bounds fun _ => rfl,
    -- Weir, Sluice, and links and dies that fail
    fun _ => eventRuns_of_next fun _ => rfl,
    fun _ => eventRuns_of_next fun _ => rfl,
    fun _ => eventRuns_of_onDie fun _ => rfl,
    fun _ _ => eventRuns_of_two_bounds fun _ => rfl,
    fun _ => eventRuns_of_onDie fun _ => rfl⟩

end Sys2Proof.Machine
end

section
/-! Words: what decodes is what encodes (O40 to O42). A word is the word of its fields, fields that build an instruction are that
instruction's, and the other way round. -/

namespace Sys2Proof

open Machine

/-! ### A word and its fields (Tables 4-3, 4-4, 4-7) -/

/-- Neighbouring fields of a word, appended, are one field. -/
theorem append_extract {n : Nat} (x : BitVec n) (lo k l : Nat) :
    x.extractLsb' (lo + k) l ++ x.extractLsb' lo k = x.extractLsb' lo (l + k) :=
  BitVec.extractLsb'_append_extractLsb'_eq_extractLsb' rfl

/-- One bit, as a field. -/
theorem ofBool_getLsbD {n : Nat} (x : BitVec n) (k : Nat) : BitVec.ofBool (x.getLsbD k) = x.extractLsb' k 1 := by
  apply BitVec.eq_of_getLsbD_eq
  intro i hi
  obtain rfl : i = 0 := by omega
  simp

theorem Opd.toBits_ofBits (x : BitVec 16) : (Opd.ofBits x).toBits = x := by
  have kind : ∀ n < 4, (x.extractLsb' 14 2).toNat = n → BitVec.ofNat 2 n = x.extractLsb' 14 2 := fun n _ h => by
    rw [← h, BitVec.ofNat_toNat, BitVec.setWidth_eq]
  have fields : x.extractLsb' 14 2 ++ x.extractLsb' 12 2 ++ x.extractLsb' 8 4 ++ x.extractLsb' 0 8 = x := by
    rw [append_extract x 12 2 2, append_extract x 8 4 4, append_extract x 0 8 8, extract_all]
  have short : x.extractLsb' 14 2 ++ x.extractLsb' 0 14 = x := by
    rw [append_extract x 0 14 2, extract_all]
  have lt := (x.extractLsb' 14 2).isLt
  unfold Opd.ofBits
  split
  case h_1 h => rw [toBits, kind 0 (by omega) h, fields]
  case h_2 h => rw [toBits, kind 1 (by omega) h, fields]
  case h_3 h => rw [toBits, kind 2 (by omega) h, fields]
  case h_4 h0 h1 h2 =>
    have h3 : (x.extractLsb' 14 2).toNat = 3 := by
      rw [imp_false] at h0 h1 h2
      omega
    rw [toBits, kind 3 (by omega) h3, short]

theorem bBits_bFieldOf (s : BSpec) (w : W96) : bBits (bFieldOf s w) = w.extractLsb' 0 32 := by
  cases s with
  | reg => rw [bFieldOf, bBits, Opd.toBits_ofBits, Opd.toBits_ofBits, append_extract w 0 16 16]
  | imm => rfl
  | mem =>
    rw [bFieldOf, bBits, ofBool_getLsbD, append_extract w 27 3 2, append_extract w 24 3 5, append_extract w 23 1 8,
      append_extract w 20 3 9, append_extract w 0 20 12]

/-- A word is the word of its fields. -/
theorem joinWord_of_splitWord {w : W96} {v : View} (h : splitWord w = some v) : joinWord v = w := by
  obtain ⟨f, -, rfl⟩ := Option.map_eq_some_iff.mp h
  simp only [joinWord, clsOf, opnOf, hdrOf, BitVec.ofNat_toNat, BitVec.setWidth_eq, Opd.toBits_ofBits, bBits_bFieldOf,
    ofBool_getLsbD]
  rw [append_extract w 86 6 4, append_extract w 78 8 10, append_extract w 75 3 18, append_extract w 72 3 21,
    append_extract w 69 3 24, append_extract w 65 4 27, append_extract w 64 1 31, append_extract w 48 16 32,
    append_extract w 32 16 48, append_extract w 0 32 64, extract_all]

/-! ### The rows of the opcode table that an operation has -/

/-- The fields `v` stand for the instruction `i`: they are its own, and their option bits name its row. -/
def Names (v : View) (i : Instr) : Prop := viewOf i = some v ∧ i.subOp = true

theorem bits_lt (v hi lo : Nat) : bits v hi lo < 2 ^ (hi + 1 - lo) := Nat.mod_lt _ (Nat.two_pow_pos _)

theorem failIf_eq_zero {c : Bool} {n : Nat} (hn : n ≠ 0) : failIf c n = 0 ↔ c = false := by
  cases c <;> simp [failIf, hn]

theorem firstFail_eq_zero {a b : Nat} : firstFail a b = 0 ↔ a = 0 ∧ b = 0 := by
  unfold firstFail
  split <;> [skip; split] <;> omega

theorem firstFails_eq_zero {l : List Nat} : firstFails l = 0 ↔ ∀ x ∈ l, x = 0 := by
  suffices ∀ a, l.foldl firstFail a = 0 ↔ a = 0 ∧ ∀ x ∈ l, x = 0 by simpa [firstFails] using this 0
  induction l with
  | nil => simp
  | cons x l ih => intro a; simp [ih, firstFail_eq_zero, and_assoc]

/-- A word that passes the checks of Table 4-9 passes those of its operation's entry. -/
theorem extraFail_eq_zero {v : View} (h : v.fail = 0) : extraFail v = 0 := by
  unfold View.fail at h
  split at h
  · cases h
  · exact firstFails_eq_zero.mp h _ (by simp)

/-- `bset` has five rows. -/
theorem bset_row_le {h : Hdr} {o : RegForm} (hx : extraFail (o.view 10 3 h) = 0) : bits o.c.opt 2 0 ≤ 4 := by
  have hx := firstFails_eq_zero.mp hx (failIf (bits o.c.opt 2 0 > 4) 5) (.head _)
  simpa [failIf_eq_zero] using hx

/-- `cctl` has four rows. -/
theorem cctl_row_le {h : Hdr} {o : MemForm} (hx : extraFail (o.view 8 6 h) = 0) : bits o.d.opt 13 10 ≤ 3 := by
  have hx : failIf (bits o.d.opt 13 10 > 3) 5 = 0 := hx
  simpa [failIf_eq_zero] using hx

theorem names_of_buildImm {cls opn : Nat} {h : Hdr} {o : ImmForm} {i : Instr} (hb : buildImm cls opn h o = some i) :
    Names (o.view cls opn h) i := by
  unfold buildImm at hb
  -- the class, then the operation: each has one row
  split at hb <;>
    simp only [build0Imm, build1Imm, build2Imm, build3Imm, build9Imm, build12Imm, build15Imm, reduceCtorEq] at hb
  all_goals split at hb <;> cases hb
  all_goals exact ⟨rfl, rfl⟩

theorem names_of_buildReg {cls opn : Nat} {h : Hdr} {o : RegForm} {i : Instr} (hb : buildReg cls opn h o = some i)
    (hx : extraFail (o.view cls opn h) = 0) : Names (o.view cls opn h) i := by
  unfold buildReg at hb
  -- the class, the operation, and the row that its option bits name
  split at hb <;>
    simp only [build0Reg, build1Reg, build2Reg, build3Reg, build4Reg, build5Reg, build6Reg, build7Reg, build9Reg, build10Reg,
      build11Reg, build12Reg, build13Reg, build14Reg, build15Reg, reduceCtorEq] at hb
  all_goals split at hb
  all_goals (repeat' split at hb)
  all_goals cases hb
  all_goals refine ⟨rfl, ?_⟩
  all_goals simp_all [Instr.subOp]
  -- the last rows of `bset` and of `tk.arm`, which are what is left
  · have le := bset_row_le hx
    omega
  · have lt := bits_lt o.c.opt 1 0
    omega

theorem names_of_buildMem {cls opn : Nat} {h : Hdr} {o : MemForm} {i : Instr} (hb : buildMem cls opn h o = some i)
    (hx : extraFail (o.view cls opn h) = 0) : Names (o.view cls opn h) i := by
  unfold buildMem at hb
  split at hb <;> simp only [build4Mem, build8Mem, build9Mem, build10Mem, build12Mem, reduceCtorEq] at hb
  all_goals split at hb
  all_goals (repeat' split at hb)
  all_goals cases hb
  all_goals refine ⟨rfl, ?_⟩
  all_goals simp_all [Instr.subOp]
  -- the last row of `cctl`
  have le := cctl_row_le hx
  omega

/-- Fields that pass the checks are those of the instruction that they build. -/
theorem names_of_build {v : View} {i : Instr} (hb : build v = some i) (hx : extraFail v = 0) : Names v i := by
  obtain ⟨cls, opn, h, d, a, b⟩ := v
  cases b with
  | reg c b => exact names_of_buildReg hb hx
  | imm x => exact names_of_buildImm hb
  | mem ord scope evict space size off => exact names_of_buildMem hb hx

/-! ### Decoding and encoding -/

/-- A word decodes to an instruction where its fields pass the checks and build it. -/
theorem decode_eq_ok_iff {w : W96} {i : Instr} :
    decode w = .ok i ↔ ∃ v, splitWord w = some v ∧ v.fail = 0 ∧ build v = some i := by
  unfold decode
  cases splitWord w with
  | none => simp
  | some v =>
    by_cases hf : v.fail = 0
    · cases hb : build v <;> simp [hf, hb]
    · simp [hf]

/-- A word's instruction is well-formed where its fields pass the checks and name its row. -/
theorem wf_iff {i : Instr} {v : View} (hv : viewOf i = some v) : i.wf = true ↔ v.fail = 0 ∧ i.subOp = true := by
  simp [Instr.wf, hv]

/-- Settles O41: the fields that a word splits into join to it again, and they stand for the instruction that they build. -/
theorem decodedWordsEncode : Obligations.DecodedWordsEncode := by
  intro w i hd
  obtain ⟨v, hs, hf, hb⟩ := decode_eq_ok_iff.mp hd
  obtain ⟨hv, hsub⟩ := names_of_build hb (extraFail_eq_zero hf)
  refine ⟨?_, (wf_iff hv).mpr ⟨hf, hsub⟩⟩
  rw [encode, hv, Option.map_some, joinWord_of_splitWord hs]

open Laws in
/-- The word of every instruction splits into the instruction's fields, which build it. -/
theorem splits_and_builds (i : Instr) : Fields.Statement i := by
  cases i with
  -- class 0 (Table 6-2)
  | nop h o => exact Fields.nop h o | bra h o => exact Fields.bra h o | brx h o => exact Fields.brx h o
  | call h o => exact Fields.call h o | ret h o => exact Fields.ret h o | join h o => exact Fields.join h o
  | jset h o => exact Fields.jset h o | jclr h o => exact Fields.jclr h o | exit h o => exact Fields.exit h o
  | yield h o => exact Fields.yield h o | sleep h o => exact Fields.sleep h o | fjmp h o => exact Fields.fjmp h o
  | cfetch h o => exact Fields.cfetch h o | prefi h o => exact Fields.prefi h o
  -- class 1 (Table 6-3)
  | iadd h o => exact Fields.iadd h o | isub h o => exact Fields.isub h o | imul h o => exact Fields.imul h o
  | imulhi h o => exact Fields.imulhi h o | imad h o => exact Fields.imad h o | imadw h o => exact Fields.imadw h o
  | idiv h o => exact Fields.idiv h o | irem h o => exact Fields.irem h o | ineg h o => exact Fields.ineg h o
  | iabs h o => exact Fields.iabs h o | imin h o => exact Fields.imin h o | imax h o => exact Fields.imax h o
  | iclamp h o => exact Fields.iclamp h o | isad h o => exact Fields.isad h o | aadd h o => exact Fields.aadd h o
  | lea h o => exact Fields.lea h o | mov h o => exact Fields.mov h o | movi h o => exact Fields.movi h o
  | movk h o => exact Fields.movk h o | sel h o => exact Fields.sel h o
  -- class 2 (Table 6-4)
  | and h o => exact Fields.and h o | or h o => exact Fields.or h o | xor h o => exact Fields.xor h o
  | not h o => exact Fields.not h o | lop3 h o => exact Fields.lop3 h o | shl h o => exact Fields.shl h o
  | shr h o => exact Fields.shr h o | sar h o => exact Fields.sar h o | rot h o => exact Fields.rot h o
  | shf h o => exact Fields.shf h o | popc h o => exact Fields.popc h o | clz h o => exact Fields.clz h o
  | ctz h o => exact Fields.ctz h o | brev h o => exact Fields.brev h o | bfe h o => exact Fields.bfe h o
  | bfi h o => exact Fields.bfi h o | prmt h o => exact Fields.prmt h o | sext h o => exact Fields.sext h o
  -- class 3 (Table 6-5)
  | icmp h o => exact Fields.icmp h o | fcmp h o => exact Fields.fcmp h o | pset h o => exact Fields.pset h o
  | p2g h o => exact Fields.p2g h o | g2p h o => exact Fields.g2p h o | ballot h o => exact Fields.ballot h o
  | vote h o => exact Fields.vote h o
  -- class 4 (Table 6-9)
  | shfl h o => exact Fields.shfl h o | bcast h o => exact Fields.bcast h o | tred h o => exact Fields.tred h o
  | tscan h o => exact Fields.tscan h o | matchLanes h o => exact Fields.matchLanes h o | kmov h o => exact Fields.kmov h o
  | kadd h o => exact Fields.kadd h o | kcmp h o => exact Fields.kcmp h o | kld h o => exact Fields.kld h o
  | rdsr h o => exact Fields.rdsr h o | wrsr h o => exact Fields.wrsr h o | clk h o => exact Fields.clk h o
  -- class 5 (Table 7-3)
  | fadd h o => exact Fields.fadd h o | fsub h o => exact Fields.fsub h o | fmul h o => exact Fields.fmul h o
  | ffma h o => exact Fields.ffma h o | fmin h o => exact Fields.fmin h o | fmax h o => exact Fields.fmax h o
  | frcp h o => exact Fields.frcp h o | frsq h o => exact Fields.frsq h o | fsqrt h o => exact Fields.fsqrt h o
  | fdiv h o => exact Fields.fdiv h o | fex2 h o => exact Fields.fex2 h o | flg2 h o => exact Fields.flg2 h o
  | fsin h o => exact Fields.fsin h o | fcos h o => exact Fields.fcos h o | ftanh h o => exact Fields.ftanh h o
  | fclass h o => exact Fields.fclass h o | fscale h o => exact Fields.fscale h o | frnd h o => exact Fields.frnd h o
  -- class 6 (Table 7-7)
  | hadd2F16 h o => exact Fields.hadd2F16 h o | hmul2F16 h o => exact Fields.hmul2F16 h o
  | hfma2F16 h o => exact Fields.hfma2F16 h o | hmin2F16 h o => exact Fields.hmin2F16 h o
  | hmax2F16 h o => exact Fields.hmax2F16 h o | hdot2F16 h o => exact Fields.hdot2F16 h o
  | hadd2Bf16 h o => exact Fields.hadd2Bf16 h o | hmul2Bf16 h o => exact Fields.hmul2Bf16 h o
  | hfma2Bf16 h o => exact Fields.hfma2Bf16 h o | hmin2Bf16 h o => exact Fields.hmin2Bf16 h o
  | hmax2Bf16 h o => exact Fields.hmax2Bf16 h o | hdot2Bf16 h o => exact Fields.hdot2Bf16 h o
  -- class 7 (Table 7-9)
  | cvt h o => exact Fields.cvt h o | quant h o => exact Fields.quant h o | dequant h o => exact Fields.dequant h o
  | packPlanes h o => exact Fields.packPlanes h o | packPair h o => exact Fields.packPair h o
  | unpackPlanes h o => exact Fields.unpackPlanes h o | unpackPair h o => exact Fields.unpackPair h o
  | scalmax h o => exact Fields.scalmax h o
  -- classes 8 and 9 (Table 8-7)
  | ld h o => exact Fields.ld h o | st h o => exact Fields.st h o | ldk h o => exact Fields.ldk h o
  | stc h o => exact Fields.stc h o | lde h o => exact Fields.lde h o | prefd h o => exact Fields.prefd h o
  | cctlIcinv h o => exact Fields.cctlIcinv h o | cctlRdcinv h o => exact Fields.cctlRdcinv h o
  | cctlWb h o => exact Fields.cctlWb h o | cctlWbinv h o => exact Fields.cctlWbinv h o | atom h o => exact Fields.atom h o
  | red h o => exact Fields.red h o | cas h o => exact Fields.cas h o | ordadd h o => exact Fields.ordadd h o
  | flushord h o => exact Fields.flushord h o | fence h o => exact Fields.fence h o
  -- class 10 (Table 9-3)
  | cpy h o => exact Fields.cpy h o | cpytIn h o => exact Fields.cpytIn h o | cpytOut h o => exact Fields.cpytOut h o
  | cpycsr h o => exact Fields.cpycsr h o | bsetArm h o => exact Fields.bsetArm h o
  | bsetClose h o => exact Fields.bsetClose h o | bsetDrain h o => exact Fields.bsetDrain h o
  | bsetFree h o => exact Fields.bsetFree h o | bsetReset h o => exact Fields.bsetReset h o
  | bwait h o => exact Fields.bwait h o | bquery h o => exact Fields.bquery h o | wptr h o => exact Fields.wptr h o
  | wptrGe h o => exact Fields.wptrGe h o
  -- class 11 (Table 9-8)
  | pres h o => exact Fields.pres h o | pcom h o => exact Fields.pcom h o | ptake h o => exact Fields.ptake h o
  | prel h o => exact Fields.prel h o | pcpyIn h o => exact Fields.pcpyIn h o | pcpyOut h o => exact Fields.pcpyOut h o
  | pquery h o => exact Fields.pquery h o | pspill h o => exact Fields.pspill h o | pdrain h o => exact Fields.pdrain h o
  -- class 12 (Table 10-3)
  | mxLdb h o => exact Fields.mxLdb h o | mxMma h o => exact Fields.mxMma h o | mxGmma h o => exact Fields.mxGmma h o
  | mxRd h o => exact Fields.mxRd h o | mxClr h o => exact Fields.mxClr h o | mxPost h o => exact Fields.mxPost h o
  | mxRing h o => exact Fields.mxRing h o | mxStat h o => exact Fields.mxStat h o
  -- class 13 (Tables 11-7 and 12-5)
  | barArr h o => exact Fields.barArr h o | barWait h o => exact Fields.barWait h o | barSync h o => exact Fields.barSync h o
  | barBytes h o => exact Fields.barBytes h o | barMem h o => exact Fields.barMem h o
  | barMemBind h o => exact Fields.barMemBind h o | barMemUnbind h o => exact Fields.barMemUnbind h o
  | tlSig h o => exact Fields.tlSig h o | tlWait h o => exact Fields.tlWait h o | tlRd h o => exact Fields.tlRd h o
  | ltSet h o => exact Fields.ltSet h o | ltAdv h o => exact Fields.ltAdv h o | ltHold h o => exact Fields.ltHold h o
  | ltHoldRoot h o => exact Fields.ltHoldRoot h o | ltDrop h o => exact Fields.ltDrop h o
  | ltDropRoot h o => exact Fields.ltDropRoot h o | ltFront h o => exact Fields.ltFront h o
  | ltAwait h o => exact Fields.ltAwait h o | tkPost h o => exact Fields.tkPost h o | tkDone h o => exact Fields.tkDone h o
  | tkArmBind h o => exact Fields.tkArmBind h o | tkArmUnbind h o => exact Fields.tkArmUnbind h o
  | tkArmTake h o => exact Fields.tkArmTake h o | tkArmTakeDirect h o => exact Fields.tkArmTakeDirect h o
  -- class 14 (Table 13-4)
  | fxSend h o => exact Fields.fxSend h o | fxCirc h o => exact Fields.fxCirc h o | fxGen h o => exact Fields.fxGen h o
  | fxGenNe h o => exact Fields.fxGenNe h o | fxSlot h o => exact Fields.fxSlot h o | fxQstat h o => exact Fields.fxQstat h o
  | coFire h o => exact Fields.coFire h o | coAck h o => exact Fields.coAck h o | coAckAll h o => exact Fields.coAckAll h o
  | coStat h o => exact Fields.coStat h o
  -- class 15 (Table 14-10)
  | trap h o => exact Fields.trap h o | brk h o => exact Fields.brk h o | sysc h o => exact Fields.sysc h o
  | wdkick h o => exact Fields.wdkick h o | rte h o => exact Fields.rte h o | rdwin h o => exact Fields.rdwin h o
  | wrwin h o => exact Fields.wrwin h o | park h o => exact Fields.park h o | unpark h o => exact Fields.unpark h o
  | csave h o => exact Fields.csave h o | crest h o => exact Fields.crest h o | halt h o => exact Fields.halt h o
  -- events
  | _ => exact Fields.of_event rfl

/-- Settles O40: the joined word splits into the fields it was made of, which pass the checks and build the instruction. -/
theorem roundTrip : Obligations.RoundTrip := by
  intro i w hwf he
  obtain ⟨v, hv, rfl⟩ := Option.map_eq_some_iff.mp he
  obtain ⟨hf, hsub⟩ := (wf_iff hv).mp hwf
  obtain ⟨hs, hb⟩ := splits_and_builds i v hv hsub
  exact decode_eq_ok_iff.mpr ⟨v, hs, hf, hb⟩

/-- Settles O42: the decoder is run on each of the words. -/
theorem wordsDecode : Obligations.WordsDecode :=
  ⟨rfl, rfl, rfl, rfl, rfl, rfl, rfl, rfl, rfl⟩

end Sys2Proof
end

section
/-! Instruction addresses (O53). Index and address name the same instruction: word `k` of line `q` has index `5 q + k` (R94, R96). -/

namespace Sys2Proof.Machine

/-- A valid address is that of word `k` of line `q` (R94), which has index `5 q + k`. -/
theorem exists_line_word {a : Addr} (h : validAddr a.toNat = true) :
    ∃ q < 2 ^ 42, ∃ k < 5, a.toNat = q * 64 + 12 * k ∧ ixOf a = 5 * q + k := by
  have lt := a.isLt
  have hr : a.toNat % 64 = 12 * (a.toNat % 64 / 12) ∧ a.toNat % 64 / 12 < 5 := by
    simp only [validAddr, Bool.and_eq_true, List.contains_iff_mem, List.mem_cons, List.not_mem_nil, or_false] at h
    omega
  exact ⟨a.toNat / 64, by omega, a.toNat % 64 / 12, hr.2, by omega, by rw [ixOf]; omega⟩

theorem validAddr_of_line_word {a : Addr} {q k : Nat} (hk : k < 5) (h : a.toNat = q * 64 + 12 * k) :
    validAddr a.toNat = true := by
  have lt := a.isLt
  have top : a.toNat / 2 ^ 48 = 0 := by omega
  simp only [validAddr, top, BEq.rfl, Bool.true_and, List.contains_iff_mem, List.mem_cons, List.not_mem_nil, or_false]
  interval_cases k <;> omega

theorem toNat_addrOf (i : Nat) : (addrOf i).toNat = i / 5 % 2 ^ 42 * 64 + 12 * (i % 5) := by
  rw [addrOf, BitVec.toNat_ofNat]
  omega

theorem toNat_addrOf_word (q : Nat) {k : Nat} (hk : k < 5) : (addrOf (5 * q + k)).toNat = q % 2 ^ 42 * 64 + 12 * k := by
  rw [toNat_addrOf, show (5 * q + k) / 5 = q by omega, show (5 * q + k) % 5 = k by omega]

theorem validAddr_addrOf (i : Nat) : validAddr (addrOf i).toNat = true :=
  validAddr_of_line_word (by omega) (toNat_addrOf i)

/-- The indexes of the 5 × 2^42 instructions wrap. -/
theorem ixOf_addrOf (i : Nat) : ixOf (addrOf i) = i % (5 * 2 ^ 42) := by
  rw [ixOf, toNat_addrOf, Nat.mod_mul]
  have lt := Nat.mod_lt i (Nat.succ_pos 4)
  generalize i % 5 = k at *
  omega

theorem addrOf_mod (i : Nat) : addrOf (i % (5 * 2 ^ 42)) = addrOf i := by
  apply BitVec.eq_of_toNat_eq
  rw [toNat_addrOf, toNat_addrOf]
  omega

theorem addrOf_ixOf {a : Addr} (h : validAddr a.toNat = true) : addrOf (ixOf a) = a := by
  obtain ⟨q, hq, k, hk, ha, hi⟩ := exists_line_word h
  apply BitVec.eq_of_toNat_eq
  rw [hi, toNat_addrOf_word q hk, ha, Nat.mod_eq_of_lt hq]

/-- A relative target is `n` instructions on, where `n` is its displacement from the successor. -/
theorem ixOf_relPc (a : Addr) (d : BitVec 32) : (ixOf (relPc a d) : Int) = ((ixOf a : Int) + 1 + d.toInt) % (5 * 2 ^ 42) := by
  rw [relPc, ixOf_addrOf]
  omega

/-- A displacement that leads to the instruction of index `n`. -/
theorem relPc_eq_addrOf {a : Addr} {d : BitVec 32} {n : Nat} (h : (ixOf a : Int) + 1 + d.toInt = n) : relPc a d = addrOf n := by
  rw [relPc, h, ← addrOf_mod n]
  rfl

theorem nextPc_within_line {a : Addr} (h : validAddr a.toNat = true) (hr : a.toNat % 64 < 48) : nextPc a = a + 12 := by
  obtain ⟨q, hq, k, hk, ha, hi⟩ := exists_line_word h
  apply BitVec.eq_of_toNat_eq
  rw [nextPc, hi, Nat.add_assoc, toNat_addrOf_word q (by omega), BitVec.toNat_add, ha, show (12 : Addr).toNat = 12 from rfl]
  omega

theorem nextPc_across_lines {a : Addr} (h : validAddr a.toNat = true) (hr : a.toNat % 64 = 48) : nextPc a = a + 16 := by
  obtain ⟨q, hq, k, hk, ha, hi⟩ := exists_line_word h
  obtain rfl : k = 4 := by omega
  apply BitVec.eq_of_toNat_eq
  rw [nextPc, hi, show 5 * q + 4 + 1 = 5 * (q + 1) + 0 from rfl, toNat_addrOf_word (q + 1) (by omega), BitVec.toNat_add, ha,
    show (16 : Addr).toNat = 16 from rfl]
  omega

/-- Settles O53: addresses and indexes are two ways to name one of 5 × 2^42 instructions, and each clause is one about indexes. -/
theorem addressRules : Obligations.AddressRules := by
  intro a h
  have next : relPc a 0 = nextPc a := relPc_eq_addrOf (by simp)
  have self : relPc a (-1) = a := (relPc_eq_addrOf (by simp)).trans (addrOf_ixOf h)
  exact ⟨rfl, toNat_addrOf, rfl, fun d => (ixOf_relPc a d).symm, addrOf_ixOf h, validAddr_addrOf _, fun _ => validAddr_addrOf _,
    next, self, nextPc_within_line h, nextPc_across_lines h⟩

end Sys2Proof.Machine
end

section
/-! Issues in which no lane makes an effect (O45, O46, O47), and the steps that run an issue (O43). The suppressed lanes go on, and
the lanes whose guard is true take a trap that does not depend on the instruction's body. -/

namespace Sys2Proof.Machine

/-! ### Masks of lanes -/

@[simp] theorem maskOf_lanesOf (m : Lanes) : maskOf (lanesOf m) = m := by
  apply BitVec.eq_of_getLsbD_eq
  intro l hl
  rw [getLsbD_maskOf]
  simp [mem_lanesOf, hl]

@[simp] theorem pick_zero (p : Nat → Bool) : pick 0 p = 0 := by
  rw [pick, lanesOf_zero]
  rfl

/-- The lanes of a mask that all take one trap. -/
theorem maskOf_traps (m : Lanes) (i : TrapInfo) : maskOf (((lanesOf m).map fun l => (l, i)).map (·.1)) = m := by
  rw [List.map_map]
  simp [Function.comp_def]

/-- Where no lane's guard names a register of an open window, no lane fails the first check of R145. -/
theorem lookTraps_eq_nil {tm : Team} {v : View} {m : Lanes}
    (hg : ∀ l, m.getLsbD l = true → guardViolation tm v.h l = none) : lookTraps tm v m = [] :=
  filterMap_lanesOf_nil _ _ fun l hl => by rw [hg l hl]; rfl

/-- No lane drops out where none traps. -/
theorem pick_not_trapping (m : Lanes) : (pick m fun l => !(([] : List (Nat × TrapInfo)).any (·.1 == l))) = m :=
  pick_eq_self _ _ fun _ _ => rfl

/-! ### Updates that leave a team as it is -/

@[simp] theorem State.modLanes_zero (s : State) (t : TeamRef) (f : Nat → Lane → Lane) : s.modLanes t 0 f = s := by
  have h : ∀ x : Team, { x with lanes := updLanes 0 f x.lanes } = x := fun x => by
    rw [show updLanes 0 f x.lanes = x.lanes by simp [updLanes]]
  have h' : s.modLanes t 0 f = s.modTeam t id := congrArg (s.modTeam t) (funext h)
  rw [h', State.modTeam, updIf]
  simp

/-- Occupying an issue or a unit changes cores alone. -/
theorem State.occupy_frame (s : State) (t : TeamRef) (v : View) : (s.occupy t v).1 = { s with cores := (s.occupy t v).1.cores } := by
  unfold State.occupy
  extract_lets q extra s1 c
  have h1 : s1 = { s with cores := s1.cores } := by
    unfold s1
    split <;> rfl
  clear_value s1
  rw [h1]
  split
  · rfl
  · split <;> rfl

/-- Where a team awaits no result beyond its first ones, none comes later: every team looks as it did. -/
theorem State.lateK_nothing {s : State} {t : TeamRef} {tm : Team} (n : Nat) (h : s.team? t = some tm) :
    s.lateK t tm.kpend.length n = { s with teams := (s.lateK t tm.kpend.length n).teams } ∧
      ∀ r, (s.lateK t tm.kpend.length n).team? r = s.team? r := by
  by_cases hn : n = 0
  · subst hn
    exact ⟨rfl, fun _ => rfl⟩
  · have e : s.lateK t tm.kpend.length n = s.modTeam t fun x => { x with kpend := x.kpend.take tm.kpend.length } := by
      simp only [State.lateK, if_neg hn, h, List.drop_length, List.map_nil, List.append_nil]
    rw [e]
    refine ⟨rfl, fun r => ?_⟩
    by_cases hr : r = t
    · subst hr
      have e1 := team?_modTeam s r (fun x => { x with kpend := x.kpend.take tm.kpend.length }) fun _ => rfl
      rw [e1, h, Option.map_some, List.take_length]
    · exact team?_modTeam_ne _ _ _ _ (fun _ => rfl) hr

/-! ### Lanes that pass suppressed -/

section
variable {s u u' t : State} {iss : Issue} {tm : Team} {v : View} {to_ : Nat → Option Addr}

/-- How lanes go on is read from what the teams look like before. -/
theorem GoesTo.of_team? (h : GoesTo u' t iss tm v to_) (hu : u' = { u with teams := u'.teams })
    (ht : ∀ r, u'.team? r = u.team? r) : GoesTo u t iss tm v to_ where
  rest := by rw [h.rest, hu]
  others r hr := (h.others r hr).trans (ht r)
  team um hum := h.team um ((ht _).trans hum)

/-- Where the suppressed lanes alone pass, the lanes of E stay as they are. -/
theorem goesTo_suppressed (u : State) (iss : Issue) (tm : Team) (v : View) (clock lat : Nat) :
    GoesTo u (u.modLanes iss.team (issueOff iss tm v) fun _ y => suppressLane clock lat v iss.pc y) iss tm v fun _ => none where
  rest := rfl
  others r hr := State.team?_modTeam_ne _ _ _ _ (fun _ => rfl) hr
  team um hum := by
    refine ⟨_, by rw [team?_modLanes, hum, Option.map_some], rfl, by simp only [length_updLanes], fun l y hy => ?_⟩
    have e := getElem_updLanes um.lanes (issueOff iss tm v) (fun _ => suppressLane clock lat v iss.pc) l y hy
    refine ⟨_, e, fun he => ?_, fun ho => ?_, fun hn => ?_⟩
    · simp [e_not_off l he]
    · simp only [ho, if_true, suppressLane, Lane.pass, Passed]
    · simp [(not_in_issue l hn).2]

theorem begun_frame (s : State) (iss : Issue) (v : View) :
    begun s iss v = { s with cur := none, cores := (begun s iss v).cores } := by
  rw [begun, State.occupy_frame]

theorem begun_clock (s : State) (iss : Issue) (v : View) : (begun s iss v).clock = s.clock := by rw [begun_frame]

theorem begun_team? (s : State) (iss : Issue) (v : View) (r : TeamRef) : (begun s iss v).team? r = s.team? r := by
  rw [begun_frame]
  rfl

/-- An issue that makes no effect has no k result that contention could delay. -/
theorem GoesTo.of_settled_begun (ht : s.team? iss.team = some tm) (h : GoesTo (settled s iss tm v (begun s iss v)) t iss tm v to_) :
    GoesTo (begun s iss v) t iss tm v to_ :=
  have hl := State.lateK_nothing _ ((begun_team? s iss v _).trans ht)
  h.of_team? hl.1 hl.2

/-- Where an instruction's privilege or a register's number fails its check, every lane whose guard is true takes that trap. -/
theorem front_of_issueCheck {i : TrapInfo} (hc : issueCheck s iss.team v (s.regsOf tm) = some i)
    (hg : ∀ l, iss.lanes.getLsbD l = true → guardViolation tm v.h l = none) :
    front { s with cur := none } iss tm v =
      ⟨(lanesOf (issueE iss tm v)).map fun l => (l, i), issueOff iss tm v, { envOf iss tm v with e := 0 }⟩ := by
  have hc' : issueCheck { s with cur := none } iss.team v (({ s with cur := none } : State).regsOf tm) = some i := hc
  simp only [front, lookTraps_eq_nil hg, pick_not_trapping, hc']
  rfl

@[simp] theorem Res.traps_zero (r : Res) : r.traps 0 = [] := by rw [Res.traps, lanesOf_zero, List.filterMap_nil]

/-- What is left of an issue in which no lane executes: the suppressed lanes go on, and the others take their traps. -/
theorem runIssue_of_no_lane {traps : List (Nat × TrapInfo)} {off : Lanes} {x : Env}
    (hf : front { s with cur := none } iss tm v = ⟨traps, off, x⟩) (he : x.e = 0) (body : Env → State → Res) :
    runIssue v body iss tm s =
      (let t := (settled s iss tm v (begun s iss v)).modLanes iss.team off fun _ y => suppressLane s.clock 0 v iss.pc y
       let t1 := t.raise iss.team iss.pc (tm.key (lowest (maskOf (traps.map (·.1))))) traps
       if v.h.yld then t1.modTeam iss.team fun x => { x with yldTo := max x.yldTo (s.clock + 8) } else t1) := by
  unfold runIssue
  simp only [hf, he, if_true, Res.traps_zero, List.append_nil, State.modLanes_zero, Res.quiet, pick_zero]
  rfl

/-- An instruction that fails a check of its privilege or of its register numbers has no effect but its trap, whatever its body. -/
theorem issueWord_of_issueCheck {i : TrapInfo} (hcur : s.cur = some iss) (ht : s.team? iss.team = some tm)
    (hc : issueCheck s iss.team v (s.regsOf tm) = some i)
    (hg : ∀ l, iss.lanes.getLsbD l = true → guardViolation tm v.h l = none) (body : Env → State → Res) :
    ∃ t0, GoesTo (begun s iss v) t0 iss tm v (fun _ => none) ∧
      issueWord v body s = .next (afterRaise t0 (envOf iss tm v) ((envOf iss tm v).lanes.map fun l => (l, i))) := by
  have g := GoesTo.of_settled_begun ht (goesTo_suppressed (settled s iss tm v (begun s iss v)) iss tm v s.clock 0)
  have hclock := (congrArg State.clock g.rest).trans (begun_clock s iss v)
  refine ⟨_, g, ?_⟩
  simp only [issueWord, hcur, ht]
  rw [runIssue_of_no_lane (front_of_issueCheck hc hg) rfl, maskOf_traps, afterRaise, hclock]
  rfl

/-- Every instruction word is issued with its own fields; an event has none. -/
theorem exec_eq_issueWord {i : Instr} {v : View} (hv : viewOf i = some v) : ∃ body, ∀ s, exec i s = issueWord v body s := by
  cases i <;> cases hv <;> exact ⟨_, fun _ => rfl⟩

end

/-- Settles O45: in an issue whose lanes are all suppressed the body is not run. -/
theorem suppressedLanesPass : Obligations.SuppressedLanesPass := by
  intro i v hv s iss tm h hE
  obtain ⟨body, hx⟩ := exec_eq_issueWord hv
  have none_in : ∀ l, (issueE iss tm v).getLsbD l ≠ true := fun l => by simp [hE]
  refine ⟨_, (hx s).trans (issueWord_ready h body), GoesTo.of_settled_begun h.team ?_⟩
  exact runIssue_goesTo h body (.ok (begun s iss v) 0) _ (if_pos hE) (fun l hl => absurd hl (none_in l))
    fun l _ hl => absurd hl (none_in l)

/-- Settles O47: check 2 fails whatever the body is. -/
theorem firmwareWordsAreReserved : Obligations.FirmwareWordsAreReserved := by
  intro i v hv hcls hopn s iss tm hcur ht hcore hg
  obtain ⟨body, hx⟩ := exec_eq_issueWord hv
  have hc : issueCheck s iss.team v (s.regsOf tm) = some (.simple 0x05) := by simp [issueCheck, hcls, hopn, hcore]
  rw [hx]
  exact issueWord_of_issueCheck hcur ht hc hg body

/-! ### Steps -/

/-- A step with an issue ahead that waits for no access runs the word at the issue's address, where lanes still stand there. -/
theorem step_of_issue {s : State} {i : Issue} {rest : List Issue} {tm : Team} (hi : s.issues = i :: rest) (hp : i.post = none)
    (ht : s.team? i.team = some tm) (hl : s.stillThere i ≠ 0) :
    step s = stepIssue { s with issues := rest } { i with lanes := s.stillThere i } tm := by
  have ht' : ({ s with issues := rest } : State).team? i.team = some tm := ht
  simp only [step, hi, hp, ht', if_neg hl]

section
variable {s : State} {i : Issue} {tm : Team}

theorem issuedWord_of_team (ht : s.team? i.team = some tm) : s.issuedWord i = wordOfBytes (s.fetchBytes i tm) := by
  rw [State.issuedWord, ht]

theorem stepIssue_of_ok {ins : Instr} (ht : s.team? i.team = some tm) (hd : decode (wordOfBytes (s.fetchBytes i tm)) = .ok ins) :
    stepIssue s i tm = exec ins { s with cur := some i } := by
  simp only [stepIssue, issuedWord_of_team ht, hd]

theorem stepIssue_of_error {w : W96} {r : Reject} (ht : s.team? i.team = some tm) (hw : w = wordOfBytes (s.fetchBytes i tm))
    (hd : decode w = .error r) : stepIssue s i tm = .next (badWord (hdrOf w) (clsOf w) (opnOf w) r.check i tm s) := by
  simp only [stepIssue, issuedWord_of_team ht, ← hw, hd]

/-- A word that is no instruction, and none that check 2 concerns: the suppressed lanes go on, and the others take the trap. -/
theorem badWord_eq {h : Hdr} {cls opn check : Nat} {v : View} (hv : v = ⟨cls, opn, h, .none0, .none0, .imm 0⟩)
    (hfw : ¬(cls = 15 ∧ opn ≥ 56)) (hg : ∀ l, i.lanes.getLsbD l = true → guardViolation tm v.h l = none) :
    badWord h cls opn check i tm s =
      (({ s with cur := none }.modLanes i.team (issueOff i tm v) fun _ y => suppressLane s.clock 0 v i.pc y).raise i.team i.pc
        (envOf i tm v).key ((envOf i tm v).lanes.map fun l => (l, .simple 0x04 (checkDetail check)))) := by
  subst hv
  have hl : lookTraps tm ⟨cls, opn, h, .none0, .none0, .imm 0⟩ i.lanes = [] := lookTraps_eq_nil hg
  have hk : ∀ a b : Bool, (a && cls == 15 && decide (opn ≥ 56) && b) = false := fun a b => by
    simp only [Bool.and_eq_false_iff, beq_eq_false_iff_ne, decide_eq_false_iff_not]
    tauto
  simp only [badWord, hl, pick_not_trapping, hk, List.nil_append, maskOf_traps]
  rfl
end

/-- Settles O43: a step's first two cases are its issue's, the third is that of a step with no issue left. -/
theorem stepRunsDecoded : Obligations.StepRunsDecoded := by
  intro s i rest tm ins
  refine ⟨fun hi hp ht hl hd => ?_, fun a hi hp => ?_, fun e s' hi he => ?_⟩
  · rw [step_of_issue hi hp ht hl]
    exact stepIssue_of_ok (tm := tm) ht hd
  · simp only [step, hi, hp]
    rfl
  · simp only [step, hi, stepIdle, he]
    rfl

/-- Settles O46: the step of an issue whose word fails to decode is that of the bad word, from the state without the issue. -/
theorem badWordTraps : Obligations.BadWordTraps := by
  intro s i rest tm w r hi hp ht hl hw hd hfw hg j v
  refine ⟨_, goesTo_suppressed _ j tm v s.clock 0, ?_⟩
  have issued := stepIssue_of_error (s := { s with issues := rest }) (i := j) ht hw hd
  rw [badWord_eq (v := v) rfl hfw hg] at issued
  exact (step_of_issue hi hp ht hl).trans issued

end Sys2Proof.Machine
end

section
/-! Predicates (O8). Writing a predicate replaces one bit of the lane's mask, which gives what each predicate reads after it; the
pair of R135 and the mask of `g2p` are sequences of such writes. -/

namespace Sys2Proof.Machine

/-! ### One bit of a number -/

/-- A number with bit `n` replaced, by its digits below, at and above that bit. -/
theorem setBits_bit_eq (v n : Nat) (b : Bool) :
    setBits v n n b.toNat = 2 ^ n * (2 * (v / 2 ^ n / 2) + b.toNat) + v % 2 ^ n := by
  have hv : v = 2 ^ n * (2 * (v / 2 ^ n / 2) + v / 2 ^ n % 2) + v % 2 ^ n := by
    rw [Nat.div_add_mod, Nat.div_add_mod]
  have hb : b.toNat % 2 = b.toNat := Nat.mod_eq_of_lt b.toNat_lt
  simp only [setBits, bits, Nat.add_sub_cancel_left, pow_one, Nat.shiftRight_eq_div_pow, hb]
  generalize v / 2 ^ n / 2 = h at *
  generalize v / 2 ^ n % 2 = d at *
  generalize v % 2 ^ n = l at *
  subst hv
  rw [Nat.mul_add, Nat.mul_add, Nat.mul_comm d, Nat.mul_comm b.toNat]
  omega

theorem testBit_setBits_bit (v n j : Nat) (b : Bool) :
    (setBits v n n b.toNat).testBit j = if j = n then b else v.testBit j := by
  rw [setBits_bit_eq, Nat.testBit_two_pow_mul_add _ (Nat.mod_lt _ (Nat.two_pow_pos n))]
  rcases Nat.lt_trichotomy j n with below | rfl | above
  · simp [below, below.ne, Nat.testBit_mod_two_pow]
  · cases b <;> simp [Nat.testBit_zero]
  · obtain ⟨k, rfl⟩ := Nat.exists_eq_add_of_lt above
    have half : (2 * (v / 2 ^ n / 2) + b.toNat) / 2 = v / 2 ^ n / 2 := by
      have := b.toNat_lt
      omega
    have hk : n + k + 1 - n = k + 1 := by omega
    rw [if_neg (by omega), if_neg (by omega), hk, Nat.testBit_succ, half, ← Nat.testBit_succ, Nat.testBit_div_two_pow]
    exact congrArg v.testBit (by omega)

/-! ### Predicates of a lane (R9) -/

theorem Lane.wp_of_ge (y : Lane) {n : Nat} (v : Bool) (h : 7 ≤ n) : y.wp n v = y := if_pos (by simpa using h)

theorem Lane.rp_of_ge (y : Lane) {n : Nat} (h : 7 ≤ n) : y.rp n = true := by simp [Lane.rp, h]

theorem Lane.wp_frame (y : Lane) (n : Nat) (v : Bool) : y.wp n v = { y with p := (y.wp n v).p } := by
  unfold Lane.wp
  split <;> rfl

/-- What each predicate reads after a write of one that is not p7. -/
theorem Lane.rp_wp (y : Lane) {n : Nat} (m : Nat) (v : Bool) (h : n < 7) : (y.wp n v).rp m = if m = n then v else y.rp m := by
  by_cases hm : 7 ≤ m
  · rw [Lane.rp_of_ge _ hm, Lane.rp_of_ge _ hm, if_neg (by omega)]
  · have e : (setBits y.p.toNat n n v.toNat).testBit m = if m = n then v else y.p.getLsbD m := testBit_setBits_bit ..
    rw [Lane.wp, if_neg (by simpa using h)]
    simp only [Lane.rp, decide_eq_false hm, Bool.false_or, BitVec.getLsbD_ofNat, e]
    simp [show m < 7 by omega]

theorem Lane.rp_wp_same (y : Lane) {n : Nat} (v : Bool) (h : n < 7) : (y.wp n v).rp n = v := by
  rw [Lane.rp_wp _ _ _ h, if_pos rfl]

theorem Lane.rp_wp_ne (y : Lane) {n m : Nat} (v : Bool) (h : m ≠ n) : (y.wp n v).rp m = y.rp m := by
  by_cases hn : n < 7
  · rw [Lane.rp_wp _ _ _ hn, if_neg h]
  · rw [Lane.wp_of_ge _ _ (by omega)]

/-! ### The pair (R135) and `g2p` (R179) -/

section
variable (cm : Nat) (r : Bool) (y : Lane)

theorem rp_writePair_first {n : Nat} (m : Nat) (h : n < 7) : (writePair n m cm r y).rp n = comb cm (y.rp n) r := by
  unfold writePair
  split <;> exact Lane.rp_wp_same _ _ h

theorem rp_writePair_second {n m : Nat} (h : m < 7) (hne : m ≠ n) :
    (writePair n m cm r y).rp m = comb cm (y.rp m) (!r) := by
  rw [writePair, if_neg hne.symm, Lane.rp_wp_ne _ _ hne, Lane.rp_wp_same _ _ h]

theorem rp_writePair_ne {n m j : Nat} (hn : j ≠ n) (hm : j ≠ m) : (writePair n m cm r y).rp j = y.rp j := by
  unfold writePair
  split
  · exact Lane.rp_wp_ne _ _ hn
  · rw [Lane.rp_wp_ne _ _ hn, Lane.rp_wp_ne _ _ hm]

end

theorem comb_modes (old r : Bool) :
    comb 0 old r = r ∧ comb 1 old r = (old && r) ∧ comb 2 old r = (old || r) ∧ comb 3 old r = (old != r) :=
  ⟨rfl, rfl, rfl, by cases old <;> cases r <;> rfl⟩

/-- The predicates of a mask, written one after another: each is written in its own turn alone. -/
theorem rp_foldl_wp (a k : Nat) {n : Nat} (h : n < 7) (ps : List Nat) (y : Lane) :
    (ps.foldl (fun y i => if k.testBit i then y.wp i (a.testBit i) else y) y).rp n =
      if n ∈ ps ∧ k.testBit n then a.testBit n else y.rp n := by
  induction ps generalizing y with
  | nil => simp
  | cons i ps ih =>
    rw [List.foldl_cons, ih]
    by_cases hi : n = i
    · subst hi
      by_cases hk : k.testBit n
      · simp [hk, Lane.rp_wp_same _ _ h]
      · simp [hk]
    · have turn : (if k.testBit i then y.wp i (a.testBit i) else y).rp n = y.rp n := by
        split
        · exact Lane.rp_wp_ne _ _ hi
        · rfl
      rw [turn]
      simp [hi]

/-- Settles O8: each clause is what a predicate reads after one write, or after the writes of a pair or of a mask. -/
theorem predicateRules : Obligations.PredicateRules := by
  intro y n m v
  refine ⟨y.rp_of_ge le_rfl, y.wp_of_ge v le_rfl, y.rp_wp_same v, y.rp_wp_ne v, y.wp_frame n v, comb_modes,
    fun cm r => rp_writePair_first cm r y m, fun cm r _ => rp_writePair_ne cm r y, fun cm r => ?_,
    fun cm r => rp_writePair_second cm r y, fun a k h => ?_⟩
  · rw [writePair, if_pos rfl, y.wp_of_ge _ le_rfl]
  · rw [g2pLane, rp_foldl_wp a k h]
    simp [h]

end Sys2Proof.Machine
end

section
/-! Events of issue (O31), by the rules for events of O32. -/

namespace Sys2Proof.Machine

/-- Settles O31: a quad's issue tests its die's, core's and quad's numbers; the other events name their unit by a reference. -/
theorem issueEventsRun : Obligations.IssueEventsRun :=
  ⟨fun _ _ _ => eventRuns_of_guard (fun ⟨hd, hc, hq⟩ => by simp [hd, hc, hq]) fun _ => rfl,
    fun _ => eventRuns_of_next fun _ => rfl,
    fun _ _ => eventRuns_of_next fun _ => rfl,
    fun _ _ _ => eventRuns_of_next fun _ => rfl,
    fun _ _ _ _ => eventRuns_of_next fun _ => rfl,
    fun _ _ _ => eventRuns_of_next fun _ => rfl⟩

end Sys2Proof.Machine
end

section
/-! Completion (O16, O30): instructions whose lanes all pass or all stay, and what the firmware's bodies do where nothing traps. -/

namespace Sys2Proof.Machine

/-! ### What becomes of the lanes of E -/

/-- An entry of a list of pairs, looked up. -/
theorem lookD_map {α : Type} (f : Nat → α) {ls : List Nat} {l : Nat} (d : α) (h : l ∈ ls) :
    lookD (ls.map fun k => (k, f k)) l d = f l := by
  induction ls with
  | nil => cases h
  | cons k ls ih =>
    by_cases hk : k = l
    · simp [lookD, hk]
    · have : l ∈ ls := (List.mem_cons.1 h).resolve_left fun e => hk e.symm
      simp [lookD, hk, ih this]

/-- Every lane of E has the one fate of a body that treats them alike. -/
theorem Res.fate_all (s : State) (x : Env) (f : Fate) {l : Nat} (h : x.e.getLsbD l = true) : (Res.all s x f).fate l = f :=
  lookD_map (fun _ => f) .pass ((mem_lanesOf _ _).2 ⟨lt_of_getLsbD _ _ h, h⟩)

section
variable {i : Instr} {v : View} {body : Env → State → Res} {ok : Env → State → Prop} {eff : Env → State → State}

/-- An instruction whose body is the effect and a latency, where `ok` holds, completes. -/
theorem completes_of_ok (hx : ∀ s, exec i s = issueWord v body s)
    (hb : ∀ x s, x.v = v → ok x s → ∃ lat, body x s = .ok (eff x s) lat) : Completes i v ok eff :=
  completes_of i body ok eff hx fun x s hv _ ho => by
    obtain ⟨lat, e⟩ := hb x s hv ho
    rw [e]
    exact ⟨rfl, fun _ _ => rfl⟩

/-- An instruction whose body lets every lane pass, where `ok` holds, completes with the state that its body makes. -/
theorem completes_of_body (hx : ∀ s, exec i s = issueWord v body s)
    (hb : ∀ x s, x.v = v → ok x s → ∃ t lat, body x s = .ok t lat) : Completes i v ok fun x s => (body x s).s :=
  completes_of_ok hx fun x s hv ho => by
    obtain ⟨t, lat, e⟩ := hb x s hv ho
    exact ⟨lat, by rw [e]; rfl⟩

/-- An instruction whose body leaves every lane of E where it is completes, and its lanes stay. -/
theorem completesTo_of_stay (hx : ∀ s, exec i s = issueWord v body s)
    (hb : ∀ x s, x.v = v → ok x s → body x s = .all (eff x s) x .stay) : CompletesTo i v ok eff fun _ _ => none :=
  completesTo_of i body ok eff _ hx fun x s hv _ ho => by
    rw [hb x s hv ho]
    exact ⟨rfl, fun l hl => .inr (.inr ⟨rfl, Res.fate_all _ x _ hl⟩)⟩

end

/-! ### Class 0: joins, sleep, frames and prefetch (R160 to R164) -/

theorem view_imm_eq_zero (m : ImmForm) (cls opn : Nat) (h : Hdr) : (m.view cls opn h).imm = 0 ↔ m.imm = 0 :=
  (BitVec.toNat_eq (x := m.imm) (y := 0)).symm

theorem sleepBody_of_zero {x : Env} (s : State) (h : x.v.imm = 0) : sleepBody x s = .ok s 0 := if_pos h

theorem sleepBody_of_ne {x : Env} (s : State) (h : x.v.imm ≠ 0) :
    sleepBody x s = x.waitAll (.sleep (s.clock + x.v.imm)) (s.after x.v.imm (.sleepExpiry x.t x.l0)) := if_neg h

/-- In overlay mode, where the segment fits the window, `cfetch` traps in no lane. -/
theorem cfetchBody_passes {x : Env} {s : State} (ho : s.overlay x.ctx = true)
    (hw : x.b0 32 * 4096 % 2 ^ 32 + 4096 ≤ (x.group s).winLim) : ∃ t lat, cfetchBody x s = .ok t lat := by
  have hw' : ¬ x.b0 32 * 4096 % 2 ^ 32 + 4096 > (x.group s).winLim := by omega
  simp only [cfetchBody, ho, Bool.not_true, Bool.false_eq_true, if_false, if_neg hw']
  exact ⟨_, _, rfl⟩

theorem prefiBody_of_direct {x : Env} {s : State} (h : s.overlay x.ctx = false) :
    prefiBody x s = .ok (((x.lanes.flatMap fun l => prefiLines (x.a l 64) x.v.imm).dedup).foldl
      (fun s a => s.fetchAhead x.tm (BitVec.ofNat 48 a)) s) 0 := by
  simp [prefiBody, h]

/-- Settles O16: in no case does a lane trap; `join`, `exit` and a `sleep` of some cycles leave their lanes where they are, and the
lanes of the others pass. -/
theorem joinExitAndFrameResults : Obligations.JoinExitAndFrameResults := by
  intro h o m
  have imm_zero : ∀ x : Env, x.v = m.view 0 10 h → (x.v.imm = 0 ↔ m.imm = 0) := fun x hv => by
    rw [hv, view_imm_eq_zero]
  refine ⟨completesTo_of_stay (fun _ => rfl) fun x s hv _ => ?join,
    completes_of_ok (fun _ => rfl) fun x s hv _ => ⟨4, ?jset⟩,
    completes_of_ok (fun _ => rfl) fun x s hv _ => ⟨4, ?jclr⟩,
    completesTo_of_stay (fun _ => rfl) fun x s _ _ => rfl,
    completes_of_ok (fun _ => rfl) fun x s hv hz => ⟨0, sleepBody_of_zero s ((imm_zero x hv).2 hz)⟩,
    completesTo_of_stay (fun _ => rfl) fun x s hv hz => (sleepBody_of_ne s fun e => hz ((imm_zero x hv).1 e)).trans ?sleep,
    completes_of_body (fun _ => rfl) fun x s _ ⟨ho, hw⟩ => cfetchBody_passes ho hw,
    completes_of_ok (fun _ => rfl) fun x s hv ho => ⟨0, (prefiBody_of_direct ho).trans ?prefi⟩⟩
  case join => rw [joinBody, hv]; rfl
  case jset => rw [jsetBody, hv]; rfl
  case jclr => rw [jclrBody, hv]; rfl
  case sleep => rw [hv]; rfl
  case prefi => rw [hv]; rfl

/-! ### Class 15: the watchdog and the firmware's instructions (R147, R437 to R441) -/

section
variable {x : Env} {s t : State} {tm : Team}

theorem onTarget_of_some (h : s.target x.t.die (x.a0 32) = some tm) (f : Team → Res) : x.onTarget s f = f tm := by
  simp only [Env.onTarget, h]

/-- The word of a reply that holds its ACTION is the second register of the quad. -/
theorem replyWords_second (v : Nat) : ((replyWords v).getD 1 0).toNat = bits v 63 32 := by
  simp [replyWords, bits, Nat.shiftRight_eq_div_pow]

/-- `rte` with an ACTION of Table 14-4 goes on where its reply can be sent. -/
theorem rteBody_passes (hc : bits (bits (x.a0 128) 63 32) 15 12 < 7)
    (hr : (x.release0 s).2.sendReplyTo x.t.die (replyWords (x.a0 128)) (x.release0 s).1 = some t) : rteBody x s = .ok t 4 := by
  rw [← replyWords_second] at hc
  simp only [rteBody, if_neg (Nat.not_le.2 hc), hr]

theorem rdwinBody_passes {n : Nat} (ht : s.target x.t.die (x.a0 32) = some tm) (hw : s.winItem tm (x.b0 32) = some n) :
    rdwinBody x s = .ok (x.putOne s x.v.d 2 n 4) 4 := by
  rw [rdwinBody, onTarget_of_some ht, hw]

theorem wrwinBody_passes (ht : s.target x.t.die (x.a0 32) = some tm) (hw : s.winBad tm (x.b0 32) (x.dsrc x.l0 64) = 0) :
    wrwinBody x s = .ok { s with parks := s.parks ++ [.put tm.ref (x.b0 32) (x.dsrc x.l0 64)] } 0 := by
  rw [wrwinBody, onTarget_of_some ht]
  simp only [hw]

theorem parkBody_passes (ht : s.target x.t.die (x.a0 32) = some tm) :
    parkBody x s = .ok { s with parks := s.parks ++ [.park tm.ref (BitVec.ofNat 32 (x.b0 32))] } 0 := by
  rw [parkBody, onTarget_of_some ht]

theorem unparkBody_passes (ht : s.target x.t.die (x.a0 32) = some tm) : ∃ t, unparkBody x s = .ok t 0 := by
  rw [unparkBody, onTarget_of_some ht]
  exact ⟨_, rfl⟩

/-- `csave` of a team without a runnable lane, whose body passes its checks. -/
theorem csaveBody_passes (ht : s.target x.t.die (x.a0 32) = some tm) (hl : tm.lanes.any (fun l => l.st == .runnable) = false)
    (hc : s.bodyCheck (x.b0 64 % 2 ^ 48) (teamBodyBytes (s.regsOf tm)) false = none) : ∃ t lat, csaveBody x s = .ok t lat := by
  rw [csaveBody, onTarget_of_some ht]
  simp only [hl, Bool.false_eq_true, if_false, hc]
  exact ⟨_, _, rfl⟩

/-- `crest` of a team with its lanes parked or exited, from a body of its own REGS that passes the checks. -/
theorem crestBody_passes {bs : List Byte} (ht : s.target x.t.die (x.a0 32) = some tm)
    (hl : tm.lanes.all (fun l => l.st == .parked || l.st == .exited) = true)
    (hc : s.bodyCheck (x.b0 64 % 2 ^ 48) (teamBodyBytes (s.regsOf tm)) true = none)
    (hbs : ((s.bodyLines x.t.die (x.b0 64 % 2 ^ 48) (teamBodyBytes (s.regsOf tm)) false).2.bodyGet (x.b0 64 % 2 ^ 48)
      (teamBodyBytes (s.regsOf tm))).1 = bs)
    (hr : bits (bodyWord bs 0) 15 8 = s.regsOf tm) (hk : teamBodyOk bs = true) : ∃ t lat, crestBody x s = .ok t lat := by
  subst hbs
  rw [crestBody, onTarget_of_some ht]
  simp only [hl, hc, hr, hk, Bool.not_true, bne_self_eq_false, Bool.or_self, Bool.false_eq_true, if_false]
  exact ⟨_, _, rfl⟩

/-- `halt` takes the pending events of its mask where there are any. -/
theorem haltBody_passes (h : s.pendingEvents x.t.die &&& x.v.imm ≠ 0) : ∃ t, haltBody x s = .ok t 4 := by
  simp only [haltBody, if_neg h]
  exact ⟨_, rfl⟩

/-- `halt` waits where none is pending. -/
theorem haltBody_waits (h : s.pendingEvents x.t.die &&& x.v.imm = 0) : haltBody x s = x.waitAll (.halt x.v.imm x.v.d) s := by
  simp only [haltBody, if_pos h]

end

/-- Settles O30: under its condition, the body of each instruction lets all its lanes pass, and a `halt` without an event lets them
wait. -/
theorem firmwareResults : Obligations.FirmwareResults := by
  intro h o m
  refine ⟨completes_of_ok (fun _ => rfl) fun _ _ _ _ => ⟨0, rfl⟩,
    completes_of_body (fun _ => rfl) fun x s _ ⟨hc, hr⟩ => ?rte,
    completes_of_body (fun _ => rfl) fun x s _ ⟨_, _, ht, hw⟩ => ⟨_, _, rdwinBody_passes ht hw⟩,
    completes_of_body (fun _ => rfl) fun x s _ ⟨_, ht, hw⟩ => ⟨_, _, wrwinBody_passes ht hw⟩,
    completes_of_body (fun _ => rfl) fun x s _ ht => ?park,
    completes_of_body (fun _ => rfl) fun x s _ ht => ?unpark,
    completes_of_body (fun _ => rfl) fun x s _ ⟨_, ht, hl, hc⟩ => csaveBody_passes ht hl hc,
    completes_of_body (fun _ => rfl) fun x s _ ⟨_, ht, hl, hc, hr, hk⟩ => crestBody_passes ht hl hc rfl hr hk,
    completes_of_body (fun _ => rfl) fun x s hv hp => ?halt,
    completesTo_of_stay (fun _ => rfl) fun x s hv hp => ?wait⟩
  case rte =>
    obtain ⟨t, hr⟩ := Option.isSome_iff_exists.1 hr
    exact ⟨t, 4, rteBody_passes hc hr⟩
  case park =>
    obtain ⟨tm, ht⟩ := Option.isSome_iff_exists.1 ht
    exact ⟨_, 0, parkBody_passes ht⟩
  case unpark =>
    obtain ⟨tm, ht⟩ := Option.isSome_iff_exists.1 ht
    obtain ⟨t, e⟩ := unparkBody_passes ht
    exact ⟨t, 0, e⟩
  case halt =>
    obtain ⟨t, e⟩ := haltBody_passes (x := x) (s := s) (by rw [hv]; exact hp)
    exact ⟨t, 4, e⟩
  case wait =>
    rw [haltBody_waits (by rw [hv]; exact hp), hv]
    rfl

end Sys2Proof.Machine
end

section
/-! The lookahead trap of operands (O48). The record list of R145 is in the order of the lanes; where every lane whose guard is true
fails step 4, no lane is left to execute. -/

namespace Sys2Proof.Machine

/-! ### Lists in ascending order of a key -/

section
variable {α : Type} {key : α → Nat}

/-- An item whose key no item's exceeds comes last. -/
theorem insertBy_of_forall_le {a : α} {l : List α} (h : ∀ b ∈ l, key b ≤ key a) : insertBy key a l = l ++ [a] := by
  induction l with
  | nil => rfl
  | cons b l ih =>
    obtain ⟨hb, hl⟩ := List.forall_mem_cons.1 h
    rw [insertBy, if_neg (Nat.not_lt.2 hb), ih hl, List.cons_append]

/-- A list in order is not changed by sorting. -/
theorem sortBy_of_pairwise {l : List α} (h : l.Pairwise fun a b => key a ≤ key b) : sortBy key l = l := by
  induction l using List.reverseRecOn with
  | nil => rfl
  | append_singleton l a ih =>
    obtain ⟨hl, -, hle⟩ := List.pairwise_append.1 h
    have last : ∀ b ∈ l, key b ≤ key a := fun b hb => hle b hb a (List.mem_singleton_self a)
    have ih : l.foldl (fun acc x => insertBy key x acc) [] = l := ih hl
    rw [sortBy, List.foldl_append, ih, List.foldl_cons, List.foldl_nil, insertBy_of_forall_le last]

end

theorem pairwise_lanesOf (m : Lanes) : (lanesOf m).Pairwise (· < ·) := List.pairwise_lt_range.filter _

/-- Traps of the lanes of a mask, one each, stand in order. -/
theorem sortBy_traps (m : Lanes) (g : Nat → TrapInfo) :
    sortBy (·.1) ((lanesOf m).map fun l => (l, g l)) = (lanesOf m).map fun l => (l, g l) :=
  sortBy_of_pairwise <| List.pairwise_map.2 <| (pairwise_lanesOf m).imp Nat.le_of_lt

/-- The lanes of a mask that each take a trap of their own. -/
theorem maskOf_lane_traps (m : Lanes) (g : Nat → TrapInfo) : maskOf (((lanesOf m).map fun l => (l, g l)).map (·.1)) = m := by
  rw [List.map_map]
  simp [Function.comp_def]

/-- No lane of a mask is left without those that trap, where they all do. -/
theorem pick_none_left (m : Lanes) (g : Nat → TrapInfo) :
    (pick m fun l => !(((lanesOf m).map fun l => (l, g l)).any (·.1 == l))) = 0 := by
  apply BitVec.eq_of_getLsbD_eq
  intro l hl
  rw [getLsbD_pick]
  by_cases hm : m.getLsbD l = true
  · have : ((lanesOf m).map fun l => (l, g l)).any (·.1 == l) = true :=
      List.any_eq_true.2 ⟨(l, g l), List.mem_map.2 ⟨l, (mem_lanesOf m l).2 ⟨hl, hm⟩, rfl⟩, beq_self_eq_true l⟩
    simp [this]
  · simp [hm]

section
variable {s : State} {iss : Issue} {tm : Team} {v : View}

/-- Where every lane whose guard is true traps before the effect, each with its own trap, the instruction has no effect but these
traps, whatever its body. -/
theorem issueWord_of_front_traps {g : Nat → TrapInfo} (hcur : s.cur = some iss) (ht : s.team? iss.team = some tm)
    (hf : front { s with cur := none } iss tm v =
      ⟨(lanesOf (issueE iss tm v)).map fun l => (l, g l), issueOff iss tm v, { envOf iss tm v with e := 0 }⟩)
    (body : Env → State → Res) :
    ∃ t0, GoesTo (begun s iss v) t0 iss tm v (fun _ => none) ∧
      issueWord v body s = .next (afterRaise t0 (envOf iss tm v) ((envOf iss tm v).lanes.map fun l => (l, g l))) := by
  have goes := GoesTo.of_settled_begun ht (goesTo_suppressed (settled s iss tm v (begun s iss v)) iss tm v s.clock 0)
  have hclock := (congrArg State.clock goes.rest).trans (begun_clock s iss v)
  refine ⟨_, goes, ?_⟩
  simp only [issueWord, hcur, ht]
  rw [runIssue_of_no_lane hf rfl, maskOf_lane_traps, afterRaise, hclock]
  rfl

/-- Lanes of an instruction that fail the lookahead check of their operands (R145 step 4). -/
def operandTraps (x : Env) : List (Nat × TrapInfo) :=
  x.lanes.filterMap fun l => (operandViolation x l).map fun p => (l, violationInfo p)

/-- The checks of R145 where the first three pass: what the fourth leaves. -/
theorem front_of_operandTraps (hc : issueCheck s iss.team v (s.regsOf tm) = none)
    (hg : ∀ l, iss.lanes.getLsbD l = true → guardViolation tm v.h l = none) :
    front { s with cur := none } iss tm v =
      ⟨sortBy (·.1) (operandTraps (envOf iss tm v)), issueOff iss tm v, { envOf iss tm v with
        e := pick (issueE iss tm v) fun l => !((operandTraps (envOf iss tm v)).any (·.1 == l)) }⟩ := by
  have hc' : issueCheck { s with cur := none } iss.team v (({ s with cur := none } : State).regsOf tm) = none := hc
  simp only [front, lookTraps_eq_nil hg, pick_not_trapping, hc', List.nil_append]
  rfl

theorem operandTraps_of_forall {x : Env} {p : Nat → RegName × Addr}
    (h : ∀ l, x.e.getLsbD l = true → operandViolation x l = some (p l)) :
    operandTraps x = (lanesOf x.e).map fun l => (l, violationInfo (p l)) :=
  List.filterMap_eq_map_iff_forall_eq_some.2 fun l hl => by rw [h l ((mem_lanesOf _ l).1 hl).2]; rfl

/-- Where every lane whose guard is true fails the last check, each has its lookahead trap, and none executes. -/
theorem front_of_operandViolation {p : Nat → RegName × Addr} (hc : issueCheck s iss.team v (s.regsOf tm) = none)
    (hg : ∀ l, iss.lanes.getLsbD l = true → guardViolation tm v.h l = none)
    (ho : ∀ l, (issueE iss tm v).getLsbD l = true → operandViolation (envOf iss tm v) l = some (p l)) :
    front { s with cur := none } iss tm v =
      ⟨(lanesOf (issueE iss tm v)).map fun l => (l, violationInfo (p l)), issueOff iss tm v, { envOf iss tm v with e := 0 }⟩ := by
  have bad : operandTraps (envOf iss tm v) = (lanesOf (issueE iss tm v)).map fun l => (l, violationInfo (p l)) :=
    operandTraps_of_forall ho
  rw [front_of_operandTraps hc hg, bad, sortBy_traps, pick_none_left]

end

/-- Settles O48: each lane whose guard is true fails step 4 of R145 with its own register and address, so that the body is not run. -/
theorem lookaheadViolationTraps : Obligations.LookaheadViolationTraps := by
  intro i v hv s iss tm p hcur ht hc hg ho
  obtain ⟨body, hx⟩ := exec_eq_issueWord hv
  rw [hx]
  exact issueWord_of_front_traps hcur ht (front_of_operandViolation hc hg ho) body

end Sys2Proof.Machine
end

section
/-! Results of integer, address, move, logic and bit-field instructions (O1, O3, O4, O5): each is a lane operation whose result is the
one that the statement names, but for the spelling of an absolute value, a shift by 0 or an immediate. -/

namespace Sys2Proof.Machine

/-! ### Classes 1 and 2: results written to the lanes of E -/

section
variable {i : Instr} {v : View} {f : Env → Nat → Nat}

/-- A lane operation writes its own result. -/
theorem laneResult_of_laneOp (hx : ∀ s, exec i s = laneOp v f s) : LaneResult i v v.ty.regs f :=
  laneResult_laneOp i v f f hx fun _ _ _ => rfl

/-- A count writes its own result to one register. -/
theorem laneResult_of_countOp (hx : ∀ s, exec i s = countOp v f s) : LaneResult i v 1 f :=
  laneResult_countOp i v f f hx fun _ _ _ => rfl

end

/-- Settles O1: the model's `iabs` and `isad` take the absolute value as a natural number, and its `ineg` subtracts from 0. -/
theorem integerResults : Obligations.IntegerResults := by
  intro h o
  refine ⟨laneResult_of_laneOp fun _ => rfl, laneResult_of_laneOp fun _ => rfl, laneResult_of_laneOp fun _ => rfl,
    laneResult_of_laneOp fun _ => rfl, laneResult_of_laneOp fun _ => rfl, laneResult_of_laneOp fun _ => rfl,
    laneResult_of_laneOp fun _ => rfl, laneResult_of_laneOp fun _ => rfl,
    laneResult_laneOp _ _ _ _ (fun _ => rfl) fun x _ l => ?ineg,
    laneResult_laneOp _ _ _ _ (fun _ => rfl) fun x _ l => ?iabs, laneResult_of_laneOp fun _ => rfl,
    laneResult_of_laneOp fun _ => rfl, laneResult_of_laneOp fun _ => rfl,
    laneResult_laneOp _ _ _ _ (fun _ => rfl) fun x _ l => ?isad⟩
  case ineg => rw [zero_sub]
  case iabs => rw [Int.natCast_natAbs]
  case isad => rw [Int.natCast_natAbs]

theorem leaVal_zero (a b : Nat) : leaVal a b 0 = wrap 48 (((a % 2 ^ 48 : Nat) : Int) + toSigned 32 b) := by
  rw [leaVal, pow_zero, Nat.cast_one, mul_one]

theorem moviVal_eq (t : Ty) (imm : Nat) : moviVal t imm = if t = .s64 then wrap 64 (toSigned 32 imm) else imm := by
  simp only [moviVal, beq_iff_eq]

/-- Settles O3: `aadd` is `lea` with a shift by 0, and `movk` writes the odd register in place of D. -/
theorem addressAndMoveResults : Obligations.AddressAndMoveResults := by
  intro h o m
  refine ⟨laneResult_laneOp _ _ _ _ (fun _ => rfl) fun x _ l => leaVal_zero .., laneResult_of_laneOp fun _ => rfl,
    laneResult_of_laneOp fun _ => rfl, laneResult_of_laneOp fun _ => rfl,
    laneResult_laneOp _ _ _ _ (fun _ => rfl) fun x hv l => ?movi,
    completes_of_ok (fun _ => rfl) fun x s hv _ => ⟨x.v.latency, ?movk⟩⟩
  case movi => rw [moviVal_eq, hv]; rfl
  case movk =>
    have imm : BitVec.ofNat 32 (m.view 1 18 h).imm = m.imm := BitVec.ofNat_toNat ..
    rw [hv, imm]
    rfl

/-- Settles O4: each is a lane operation, `lop3` with the fields of its immediate. -/
theorem logicResults : Obligations.LogicResults := fun h o m =>
  ⟨laneResult_of_laneOp fun _ => rfl, laneResult_of_laneOp fun _ => rfl, laneResult_of_laneOp fun _ => rfl,
    laneResult_of_laneOp fun _ => rfl, laneResult_laneOp _ _ _ _ (fun _ => rfl) fun x hv l => by rw [hv]; rfl,
    laneResult_of_laneOp fun _ => rfl, laneResult_of_laneOp fun _ => rfl, laneResult_of_laneOp fun _ => rfl,
    laneResult_of_laneOp fun _ => rfl, laneResult_of_laneOp fun _ => rfl⟩

/-- Settles O5: the counts write one register, the others those of their type. -/
theorem bitFieldResults : Obligations.BitFieldResults := fun _ _ =>
  ⟨laneResult_of_countOp fun _ => rfl, laneResult_of_countOp fun _ => rfl, laneResult_of_countOp fun _ => rfl,
    laneResult_of_laneOp fun _ => rfl, laneResult_of_laneOp fun _ => rfl, laneResult_of_laneOp fun _ => rfl,
    laneResult_of_laneOp fun _ => rfl, laneResult_of_laneOp fun _ => rfl⟩

end Sys2Proof.Machine
end

section
/-! Results of compares, predicates, cross-lane, uniform and special-register instructions, and transfers (O7, O9, O11, O15). -/

namespace Sys2Proof.Machine

/-! ### Results written to the lanes of E, to a pair, or to a k register -/

section
variable {i : Instr} {v : View}

/-- An instruction that puts `r` registers in the lanes of E writes them. -/
theorem laneResult_of_put {r : Nat} {f : Env → Nat → Nat} {lat : Env → Nat}
    (hx : ∀ s, exec i s = issueWord v (fun x s => .ok (x.put s r (f x)) (lat x)) s) : LaneResult i v r f :=
  laneResult_of i v r (fun _ => r) f f lat hx (fun _ _ => rfl) fun _ _ _ => rfl

/-- The same where the number of registers is that of the type. -/
theorem laneResult_of_put_type {f : Env → Nat → Nat} {lat : Env → Nat}
    (hx : ∀ s, exec i s = issueWord v (fun x s => .ok (x.put s x.v.ty.regs (f x)) (lat x)) s) : LaneResult i v v.ty.regs f :=
  laneResult_of i v _ (fun x => x.v.ty.regs) f f lat hx (fun _ hv => by rw [hv]) fun _ _ _ => rfl

/-- A uniform operation of a fixed number of registers. -/
theorem uniformResult_of_put {r : Nat} {f : Env → State → Nat → Nat}
    (hx : ∀ s, exec i s = issueWord v (fun x s => .ok (x.putLaneOrK s r x.v.latency (f x s)) x.v.latency) s) :
    UniformResult i v r f :=
  uniformResult_of i v r (fun _ => r) f f hx (fun _ _ => rfl) fun _ _ _ _ => rfl

/-- A uniform operation of its type. -/
theorem uniformResult_of_put_type {f g : Env → State → Nat → Nat}
    (hx : ∀ s, exec i s = issueWord v (fun x s => .ok (x.putLaneOrK s x.v.ty.regs x.v.latency (g x s)) x.v.latency) s)
    (hf : ∀ x, x.v = v → ∀ s l, g x s l = f x s l) : UniformResult i v v.ty.regs f :=
  uniformResult_of i v _ (fun x => x.v.ty.regs) f g hx (fun _ hv => by rw [hv]) hf

end

/-- Settles O7: compares, `pset` and `vote` are pair operations, `p2g` and `ballot` write registers, and the body of `g2p` is its effect. -/
theorem predicateResults : Obligations.PredicateResults := fun h o m =>
  ⟨pairResult_pairOp _ _ _ _ _ _ (fun _ => rfl) rfl fun x hv l => by simp only [cmpInt, View.cond, hv]; rfl,
    pairResult_pairOp _ _ _ _ _ _ (fun _ => rfl) rfl fun x hv l => by simp only [cmpFlt, View.cond, hv]; rfl,
    pairResult_pairOp _ _ _ _ _ _ (fun _ => rfl) rfl fun _ _ _ => rfl,
    pairResult_pairOp _ _ _ _ _ _ (fun _ => rfl) rfl fun _ _ _ => rfl,
    laneResult_of_put fun _ => rfl,
    completes_of_ok (fun _ => rfl) fun x _ _ _ => ⟨x.v.latency, rfl⟩,
    uniformResult_of_put fun _ => rfl⟩

/-- Settles O9: each instruction puts the value of R182 to R186 in the lanes of E, or in a k register. -/
theorem crossLaneResults : Obligations.CrossLaneResults := fun h o =>
  ⟨laneResult_of_put_type fun _ => rfl,
    uniformResult_of_put_type (fun _ => rfl) fun _ _ _ _ => rfl,
    uniformResult_of_put_type (fun _ => rfl) fun _ hv _ _ => by rw [hv]; rfl,
    laneResult_of_put_type fun _ => rfl,
    laneResult_of_put fun _ => rfl⟩

/-- Settles O11: each instruction puts one value in the lanes of E or in a k register, but for the pair of `kcmp` and the tag of `wrsr`. -/
theorem uniformAndSpecialResults : Obligations.UniformAndSpecialResults := fun h o =>
  ⟨uniformResult_of_put_type (fun _ => rfl) fun _ _ _ _ => rfl,
    uniformResult_of_put_type (fun _ => rfl) fun _ _ _ _ => rfl,
    pairResult_pairOp _ _ _ _ _ _ (fun _ => rfl) rfl fun x hv l => by simp only [cmpInt, View.cond, hv]; rfl,
    uniformResult_of_put_type (fun _ => rfl) fun _ _ _ _ => rfl,
    completes_of_ok (fun _ => rfl) fun x _ _ _ => ⟨x.v.latency, rfl⟩,
    uniformResult_of_put fun _ => rfl⟩

/-! ### Transfers (R157 to R159) -/

/-- An instruction that moves every lane of E to its target. -/
theorem completesTo_of_jumpAll {i : Instr} {v : View} {body : Env → State → Res} {ok : Env → State → Prop}
    {eff : Env → State → State} {to_ : Env → Addr} (hx : ∀ s, exec i s = issueWord v body s)
    (hb : ∀ x s, x.v = v → ok x s → ∃ lat, body x s = x.jumpAll (eff x s) lat) (ht : ∀ x, x.v = v → x.target = to_ x) :
    CompletesTo i v ok eff fun x _ => some (to_ x) :=
  completesTo_of i body ok eff _ hx fun x s hv _ ho => by
    obtain ⟨lat, e⟩ := hb x s hv ho
    rw [e]
    refine ⟨rfl, fun l hl => .inr (.inl ⟨_, rfl, ?_⟩)⟩
    exact (lookD_map _ _ ((mem_lanesOf _ _).2 ⟨lt_of_getLsbD _ _ hl, hl⟩)).trans (congrArg Fate.jump (ht x hv))

theorem target_of_imm {m : ImmForm} {cls opn : Nat} {h : Hdr} (x : Env) (hv : x.v = m.view cls opn h) :
    x.target = relPc x.pc m.imm := by
  have imm : BitVec.ofNat 32 (m.view cls opn h).imm = m.imm := BitVec.ofNat_toNat ..
  rw [Env.target, hv, imm]

/-- In overlay mode `fjmp` moves its lanes where the target's segment is landed (R108). -/
theorem fjmpBody_of_landed {x : Env} {s : State} (h : s.overlay x.ctx = false ∨ ((x.group s).landed x.target).isSome = true) :
    fjmpBody x s = x.jumpAll s 0 := by
  rw [fjmpBody, if_neg]
  rw [Bool.and_eq_true, not_and_or]
  exact h.imp (fun direct => by simp [direct]) fun landed absent => by simp [Option.isNone_iff_eq_none.1 absent] at landed

/-- `brx` and `ret` where every lane names a valid instruction address: each lane goes to its own, with the link in D (R159). -/
theorem completesTo_of_brxBody {i : Instr} {o : RegForm} {cls opn : Nat} {h : Hdr}
    (hx : ∀ s, exec i s = issueWord (o.view cls opn h) brxBody s) :
    CompletesTo i (o.view cls opn h) (fun x _ => ∀ l ∈ x.lanes, validAddr (x.a l 64) = true)
      (fun x s => if o.d.isNone then s else s.modLanes x.t x.e fun _ y => writeG o.d 2 (nextPc x.pc).toNat y)
      (fun x l => some (BitVec.ofNat 48 (x.a l 64))) :=
  completesTo_of i brxBody _ _ _ hx fun x s hv _ ho => by
    have mem : ∀ l, x.e.getLsbD l = true → l ∈ x.lanes := fun l hl => (mem_lanesOf _ _).2 ⟨lt_of_getLsbD _ _ hl, hl⟩
    have valid : (pick x.e fun l => validAddr (x.a l 64)) = x.e := pick_eq_self _ _ fun l hl => ho l (mem l hl)
    have hd : x.v.d = o.d := by rw [hv]; rfl
    refine ⟨?_, fun l hl => .inr (.inl ⟨_, rfl, ?_⟩)⟩
    · simp only [brxBody, valid, hd]
      cases o.d.isNone <;> rfl
    · have fate := lookD_map (fun l => if validAddr (x.a l 64) then Fate.jump (BitVec.ofNat 48 (x.a l 64))
        else .trap (.simple 0x06 0 (x.a l 64))) .pass (mem l hl)
      exact fate.trans (if_pos (ho l (mem l hl)))

/-- Settles O15: `nop` and `yield` pass, the relative transfers move all lanes to one target, `brx` and `ret` each to its own. -/
theorem transferResults : Obligations.TransferResults := by
  intro h o m
  refine ⟨completes_of_ok (fun _ => rfl) fun _ _ _ _ => ⟨0, rfl⟩,
    completesTo_of_jumpAll (fun _ => rfl) (fun _ _ _ _ => ⟨0, rfl⟩) target_of_imm,
    completesTo_of_jumpAll (fun _ => rfl) (fun x s hv _ => ⟨4, ?call⟩) target_of_imm,
    completesTo_of_brxBody fun _ => rfl, completesTo_of_brxBody fun _ => rfl,
    completesTo_of_jumpAll (fun _ => rfl) (fun x s hv ho => ⟨0, fjmpBody_of_landed ?fjmp⟩) target_of_imm,
    completes_of_ok (fun _ => rfl) fun _ _ _ _ => ⟨0, rfl⟩⟩
  case call => rw [callBody, Env.put, hv]; rfl
  case fjmp => rwa [target_of_imm x hv]

end Sys2Proof.Machine
end

section
/-! Rules of results: division (O2), bits (O6) and the lanes that cross-lane instructions read (O10). -/

namespace Sys2Proof.Machine

/-! ### Division truncates toward zero (R167) -/

/-- The two ways in which a type bounds its values: from 0, or as two's complement, where the negation of the least value is the
first that is no value. -/
theorem Ty.bounds (t : Ty) : (t.signed = false ∧ t.min = 0) ∨ (t.signed = true ∧ t.min = -t.max - 1 ∧ 0 ≤ t.max) := by
  cases t <;> decide

/-- The truncated quotient of two values of a type is a value of it, but that of the least value by -1. -/
theorem Ty.tdiv_mem {t : Ty} {a b : Int} (ha : t.min ≤ a) (ha' : a ≤ t.max) (hb : t.min ≤ b)
    (corner : ¬(t.signed = true ∧ a = t.min ∧ b = -1)) : t.min ≤ a.tdiv b ∧ a.tdiv b ≤ t.max := by
  have shrinks := Int.natAbs_tdiv_le_natAbs a b
  rcases t.bounds with ⟨-, hmin⟩ | ⟨hs, hmin, hmax⟩
  · rw [hmin] at ha hb ⊢
    have := Int.tdiv_nonneg ha hb
    omega
  · by_cases least : a = t.min
    · by_cases one : b = 1
      · rw [one, Int.tdiv_one]
        exact ⟨ha, ha'⟩
      · have more : b ≠ -1 := fun e => corner ⟨hs, least, e⟩
        by_cases zero : b = 0
        · rw [zero, Int.tdiv_zero]
          omega
        · have halves : a.natAbs / b.natAbs ≤ a.natAbs / 2 := Nat.div_le_div_left (by omega) (by omega)
          have quotient : (a.tdiv b).natAbs = a.natAbs / b.natAbs := Int.natAbs_tdiv a b
          omega
    · omega

/-- The division of R167 away from its two special cases. -/
theorem divRem_of_ordinary {t : Ty} {a b : Int} (h0 : b ≠ 0) (corner : ¬(t.signed = true ∧ a = t.min ∧ b = -1)) :
    divRem t a b = (wrap t.width (a.tdiv b), wrap t.width (a.tmod b)) := by
  have hc : ¬(t.signed && a == t.min && b == -1) = true := by simpa [and_assoc] using corner
  rw [divRem, if_neg h0, if_neg hc, Int.tmod_def, mul_comm b]
  rfl

theorem abs_tmod_lt (a : Int) {b : Int} (h0 : b ≠ 0) : |a.tmod b| < |b| := by
  rw [Int.abs_eq_natAbs, Int.abs_eq_natAbs, Int.natAbs_tmod]
  exact_mod_cast Nat.mod_lt _ (Int.natAbs_pos.2 h0)

/-- A remainder is 0, or has the sign of the dividend. -/
theorem tmod_neg_iff (a b : Int) : a.tmod b = 0 ∨ (a.tmod b < 0 ↔ a < 0) := by
  have sign := Int.sign_tmod a b
  by_cases h : b ∣ a
  · exact .inl (Int.sign_eq_zero_iff_zero.1 (sign.trans (if_pos h)))
  · rw [if_neg h] at sign
    exact .inr (by rw [← Int.sign_eq_neg_one_iff_neg, sign, Int.sign_eq_neg_one_iff_neg])

/-- Settles O2: in the ordinary case the quotient is truncated, and the remainder is what it leaves. -/
theorem divisionRule : Obligations.DivisionRule := by
  intro t a b ha ha' hb _
  refine ⟨fun h0 => if_pos h0, fun hs hm h1 => ?corner, fun h0 corner => ?ordinary⟩
  case corner =>
    subst hm h1
    simp [divRem, hs]
  case ordinary =>
    obtain ⟨hq, hq'⟩ := Ty.tdiv_mem ha ha' hb corner
    exact ⟨a.tdiv b, a.tmod b, (Int.tdiv_mul_add_tmod a b).symm, abs_tmod_lt a h0, tmod_neg_iff a b, hq, hq',
      divRem_of_ordinary h0 corner⟩

/-! ### Bits (R171, R173) -/

theorem bitsOf_succ (w : Nat) (f : Nat → Bool) : bitsOf (w + 1) f = 2 ^ w * (f w).toNat + bitsOf w f := by
  rw [bitsOf, List.range_succ, List.foldl_append, ← bitsOf]
  cases h : f w <;> simp [h, Nat.add_comm]

theorem bitsOf_lt (w : Nat) (f : Nat → Bool) : bitsOf w f < 2 ^ w := by
  induction w with
  | zero => exact Nat.one_pos
  | succ w ih =>
    rw [bitsOf_succ, pow_succ]
    have := Nat.mul_le_mul_left (2 ^ w) (f w).toNat_le
    omega

/-- Bit `i` of a number made of its bits. -/
theorem testBit_bitsOf {w i : Nat} (f : Nat → Bool) (h : i < w) : (bitsOf w f).testBit i = f i := by
  induction w with
  | zero => cases h
  | succ w ih =>
    rw [bitsOf_succ, Nat.testBit_two_pow_mul_add _ (bitsOf_lt w f)]
    rcases Nat.lt_succ_iff_lt_or_eq.1 h with below | rfl
    · rw [if_pos below, ih below]
    · cases hf : f i <;> simp

theorem length_filter_eq_sum {α : Type} (p : α → Bool) (l : List α) : (l.filter p).length = (l.map fun a => (p a).toNat).sum := by
  induction l with
  | nil => rfl
  | cons a l ih => cases h : p a <;> simp [h, ih, Nat.add_comm]

section
variable {w a i : Nat}

/-- The leading zeros of `w` bits whose highest that is set is bit `i`. -/
theorem clzVal_of_highest (hi : i < w) (above : ∀ j, i < j → j < w → a.testBit j = false) (set_ : a.testBit i = true) :
    clzVal w a = w - 1 - i := by
  have bit : ∀ j, (a % 2 ^ w).testBit j = (decide (j < w) && a.testBit j) := fun j => Nat.testBit_mod_two_pow ..
  have low : 2 ^ i ≤ a % 2 ^ w := Nat.ge_two_pow_of_testBit (by rw [bit, set_]; simpa using hi)
  have high : a % 2 ^ w < 2 ^ (i + 1) := Nat.lt_pow_two_of_testBit _ fun j hj => by
    rw [bit]
    by_cases hw : j < w
    · simp [above j hj hw]
    · simp [hw]
  have pos : a % 2 ^ w ≠ 0 := (Nat.two_pow_pos i).trans_le low |>.ne'
  rw [clzVal, if_neg pos, (Nat.log2_eq_iff pos).2 ⟨low, high⟩]
  omega

/-- The trailing zeros of `w` bits whose lowest that is set is bit `i`. -/
theorem ctzVal_of_lowest (hi : i < w) (below : ∀ j, j < i → a.testBit j = false) (set_ : a.testBit i = true) : ctzVal w a = i := by
  have found := List.find?_range_eq_some.2 ⟨set_, List.mem_range.2 hi, fun j hj => by simp [below j hj]⟩
  rw [ctzVal, found, Option.getD_some]

theorem ctzVal_of_zero (h : a % 2 ^ w = 0) : ctzVal w a = w := by
  have none_set := List.find?_range_eq_none (n := w) (p := fun j => a.testBit j) |>.2 fun j hj => by
    have bit := Nat.testBit_mod_two_pow a w j
    rw [h, Nat.zero_testBit] at bit
    simpa [hj] using bit.symm
  rw [ctzVal, none_set, Option.getD_none]

end

/-- Settles O6: `lop3` and `brev` are made of their bits, and the counts are those of the bits that are set. -/
theorem bitRules : Obligations.BitRules := by
  intro w a b c tt i _ hi
  exact ⟨testBit_bitsOf _ hi, testBit_bitsOf _ hi, length_filter_eq_sum _ _, clzVal_of_highest hi, ctzVal_of_lowest hi,
    fun h => ⟨by rw [clzVal, if_pos h]; rfl, ctzVal_of_zero h⟩⟩

/-! ### The lanes that cross-lane instructions read (R182, R183, R185) -/

/-- Two numbers of one segment. -/
theorem segment_eq {seg l k : Nat} (h : k < seg) : (l - l % seg + k) / seg = l / seg := by
  have hl : l - l % seg = seg * (l / seg) := by
    have := Nat.div_add_mod l seg
    omega
  rw [hl, Nat.mul_add_div (by omega), Nat.div_eq_of_lt h, Nat.add_zero]

/-- In each mode but the exclusive or, `shfl` reads a lane of its own segment. -/
theorem shflSrc_segment {mode seg l n src : Nat} (hseg : 0 < seg) (h : shflSrc mode seg l n = some src) (hm : mode < 3) :
    src / seg = l / seg := by
  have lt := Nat.mod_lt l hseg
  have le := Nat.mod_le l seg
  obtain rfl | rfl | rfl : mode = 0 ∨ mode = 1 ∨ mode = 2 := by omega
  case inl =>
    obtain rfl : l - l % seg + n % seg = src := Option.some.inj h
    exact segment_eq (Nat.mod_lt n hseg)
  case inr.inl =>
    obtain ⟨hn, h⟩ : n ≤ l % seg ∧ l - l % seg + l % seg - n = src := by simpa [shflSrc] using h
    obtain rfl : l - l % seg + (l % seg - n) = src := by omega
    exact segment_eq (by omega)
  case inr.inr =>
    obtain ⟨hn, h⟩ : l % seg + n < seg ∧ l - l % seg + l % seg + n = src := by simpa [shflSrc] using h
    obtain rfl : l - l % seg + (l % seg + n) = src := by omega
    exact segment_eq hn

/-- The lowest lane of a mask that has one: it is in the mask, and none below it is. -/
theorem lowest_spec {m : Lanes} {l : Nat} (h : m.getLsbD l = true) :
    m.getLsbD (lowest m) = true ∧ ∀ k < lowest m, m.getLsbD k = false := by
  have hl : l ∈ lanesOf m := (mem_lanesOf m l).2 ⟨lt_of_getLsbD m l h, h⟩
  obtain ⟨a, rest, e⟩ := List.exists_cons_of_ne_nil (List.ne_nil_of_mem hl)
  have low : lowest m = a := by rw [lowest, e, List.headD_cons]
  have sorted := pairwise_lanesOf m
  rw [e, List.pairwise_cons] at sorted
  rw [low]
  refine ⟨((mem_lanesOf m a).1 (e ▸ List.mem_cons_self)).2, fun k hk => Bool.eq_false_iff.2 fun bit => ?_⟩
  have hk' : k ∈ a :: rest := e ▸ (mem_lanesOf m k).2 ⟨lt_of_getLsbD m k bit, bit⟩
  rcases List.mem_cons.1 hk' with rfl | later
  · exact lt_irrefl k hk
  · exact lt_asymm hk (sorted.1 k later)

section
variable {x : Env} {l : Nat}

/-- Where its source lies in the segment, `shfl` reads it if it is a lane of E, and its own lane if not. -/
theorem shflVal_of_some {src : Nat} (h : shflSrc (x.v.opt % 4) (32 / 2 ^ bits x.v.opt 4 2) l (x.b l 32) = some src) :
    shflVal x l = if x.e.getLsbD src then x.a src x.ty.width else x.a l x.ty.width := by
  simp only [shflVal, h]

theorem shflVal_of_none (h : shflSrc (x.v.opt % 4) (32 / 2 ^ bits x.v.opt 4 2) l (x.b l 32) = none) :
    shflVal x l = x.a l x.ty.width := by
  simp only [shflVal, h]

/-- `bcast` reads a lane of E. -/
theorem getLsbD_bcastLane (h : x.e.getLsbD l = true) : x.e.getLsbD (bcastLane x) = true := by
  simp only [bcastLane]
  split
  · assumption
  · exact (lowest_spec h).1

/-- The scan starts at the lowest lane of E, which has none before it. -/
theorem scanVal_of_first (h : ∀ k, k < l → x.e.getLsbD k = false) :
    scanVal x l = if x.v.opt.testBit 4 then redStart (x.v.opt % 16) x.ty else x.a l x.ty.width := by
  have none_before : x.lanes.filter (· < l) = [] := List.filter_eq_nil_iff.2 fun k hk => by
    have bit := ((mem_lanesOf x.e k).1 hk).2
    simpa using Nat.le_of_not_lt fun hkl => by simp [h k hkl] at bit
  simp only [scanVal, none_before]
  rfl

end

/-- Settles O10: each clause is one of `shfl`'s cases, of its modes, or what the lowest lane of E is. -/
theorem crossLaneRules : Obligations.CrossLaneRules := by
  intro x l h
  obtain ⟨-, lower⟩ := lowest_spec h
  exact ⟨fun src hs hin => (shflVal_of_some hs).trans (if_pos hin),
    fun src hs hout => (shflVal_of_some hs).trans (if_neg (by simp [hout])), shflVal_of_none,
    fun _ _ _ _ => shflSrc_segment, fun _ _ _ => ⟨rfl, rfl, rfl, rfl⟩, rfl, getLsbD_bcastLane h, lower,
    fun hk excl => (scanVal_of_first hk).trans (if_pos excl),
    fun hk incl => (scanVal_of_first hk).trans (if_neg (by simp [incl]))⟩

end Sys2Proof.Machine
end

section
/-! Register instructions act on their own team alone (O57). A state that acts on a team (`ActsOn`) keeps the frame of the statement; every
update that an issue makes has it, and so has the body of each register instruction. -/

namespace Sys2Proof.Machine

/-! ### A die and a core after an update -/

/-- Each die is updated, or as it was (where another is named, or the one named is none of the package's). -/
theorem State.die_modDie (s : State) (d k : Nat) (f : Die → Die) :
    (s.modDie d f).die k = f (s.die k) ∨ (s.modDie d f).die k = s.die k := by
  simp only [State.die, State.modDie, List.getD_eq_getElem?_getD]
  by_cases h : k = d
  · subst h
    rw [getElem?_updAt_same]
    cases s.dies[k]? with
    | none => exact .inr rfl
    | some x => exact .inl rfl
  · exact .inr (by rw [getElem?_updAt _ _ _ _ h])

/-- Each core is updated, or as it was; one that the list does not hold yet stands for its initial state. -/
theorem State.core_modCore (s : State) (d c k n : Nat) (f : Core → Core) (hf : ∀ x, (f x).die = x.die ∧ (f x).ix = x.ix) :
    (s.modCore d c f).core k n = f (s.core k n) ∨ (s.modCore d c f).core k n = s.core k n := by
  have keeps : ∀ x : Core, ((f x).die == k && (f x).ix == n) = (x.die == k && x.ix == n) := fun x => by
    rw [(hf x).1, (hf x).2]
  have init : ((Core.init d c).die == k && (Core.init d c).ix == n) = (d == k && c == n) := rfl
  simp only [State.core, State.modCore, upsert]
  by_cases same : d = k ∧ c = n
  · obtain ⟨rfl, rfl⟩ := same
    left
    split
    case isTrue there =>
      rw [find_updIf _ _ _ fun x h => (keeps x).trans h]
      obtain ⟨y, hy⟩ := Option.isSome_iff_exists.1 (List.find?_isSome.2 (List.any_eq_true.1 there))
      rw [hy]
      rfl
    case isFalse absent =>
      have not_found := List.find?_eq_none.2 fun x hx hp => absent (List.any_eq_true.2 ⟨x, hx, hp⟩)
      rw [List.find?_append, not_found, List.find?_singleton, keeps, init]
      simp
  · right
    have other : (d == k && c == n) = false := by simpa using same
    split
    case isTrue =>
      rw [find_updIf_ne]
      intro x hx
      have ⟨hd, hc⟩ : x.die = d ∧ x.ix = c := by simpa using hx
      rw [keeps, hd, hc]
      exact ⟨other, other⟩
    case isFalse =>
      rw [List.find?_append, List.find?_singleton, keeps, init, other]
      simp

/-! ### What acts on a team -/

/-- `u` differs from `s` in the team `r`, the records and the schedule of traps and results, and the units that are occupied, alone. -/
structure ActsOn (r : TeamRef) (s u : State) : Prop where
  rest : u = { s with teams := u.teams, cores := u.cores, dies := u.dies, hw := u.hw, eoc := u.eoc, agenda := u.agenda }
  others : ∀ q, q ≠ r → u.team? q = s.team? q
  dies : ∀ d, u.die d = { s.die d with newRecs := (u.die d).newRecs }
  cores : ∀ d c, u.core d c = { s.core d c with
    longTo := (u.core d c).longTo, crossTo := (u.core d c).crossTo, issTo := (u.core d c).issTo }

namespace ActsOn

variable {r : TeamRef} {s u w : State}

theorem refl (r : TeamRef) (s : State) : ActsOn r s s := ⟨rfl, fun _ _ => rfl, fun _ => rfl, fun _ _ => rfl⟩

theorem trans (h : ActsOn r s u) (h' : ActsOn r u w) : ActsOn r s w where
  rest := by rw [h'.rest, h.rest]
  others q hq := (h'.others q hq).trans (h.others q hq)
  dies d := by rw [h'.dies, h.dies]
  cores d c := by rw [h'.cores, h.cores]

theorem ite {p : Prop} [Decidable p] {a b : State} (ha : ActsOn r s a) (hb : ActsOn r s b) : ActsOn r s (if p then a else b) := by
  split
  · exact ha
  · exact hb

theorem foldl {α : Type} {f : State → α → State} (hf : ∀ s a, ActsOn r s (f s a)) (l : List α) (s : State) :
    ActsOn r s (l.foldl f s) := by
  induction l generalizing s with
  | nil => exact refl r s
  | cons a l ih => exact (hf s a).trans (ih (f s a))

/-- The counters of traps, and what is scheduled. -/
theorem of_schedule (h : u = { s with agenda := u.agenda, eoc := u.eoc, hw := u.hw }) : ActsOn r s u := by
  rw [h]
  exact ⟨rfl, fun _ _ => rfl, fun _ => rfl, fun _ _ => rfl⟩

/-- An update of the team that keeps its name. -/
theorem modTeam {f : Team → Team} (hf : ∀ x, (f x).ref = x.ref) : ActsOn r s (s.modTeam r f) :=
  ⟨rfl, fun q hq => State.team?_modTeam_ne s r q f hf hq, fun _ => rfl, fun _ _ => rfl⟩

theorem modLanes {m : Lanes} {f : Nat → Lane → Lane} : ActsOn r s (s.modLanes r m f) := modTeam fun _ => rfl

/-- A die's list of records. -/
theorem modDie {d : Nat} {f : Die → Die} (hf : ∀ x, f x = { x with newRecs := (f x).newRecs }) : ActsOn r s (s.modDie d f) where
  rest := rfl
  others _ _ := rfl
  dies k := by
    rcases s.die_modDie d k f with e | e <;> rw [e]
    exact hf _
  cores _ _ := rfl

/-- The times to which a core's units are occupied. -/
theorem modCore {d c : Nat} {f : Core → Core}
    (hf : ∀ x, f x = { x with longTo := (f x).longTo, crossTo := (f x).crossTo, issTo := (f x).issTo }) :
    ActsOn r s (s.modCore d c f) where
  rest := rfl
  others _ _ := rfl
  dies _ := rfl
  cores k n := by
    rcases s.core_modCore d c k n f fun x => by rw [hf]; exact ⟨rfl, rfl⟩ with e | e <;> rw [e]
    exact hf _

/-! ### The updates of an issue -/

theorem writeK {m pc n k v lat} : ActsOn r s (s.writeK r m pc n k v lat) :=
  (modTeam (f := fun x => { x with kpend := x.kpend ++ _ }) fun _ => rfl).trans (of_schedule rfl)

theorem lateK {m n} : ActsOn r s (s.lateK r m n) := by
  unfold State.lateK
  refine ite (refl r s) ?_
  split
  · exact refl r s
  · extract_lets late s1
    have h1 : ActsOn r s s1 := modTeam fun _ => rfl
    exact h1.trans (of_schedule rfl)

theorem occupy {v : View} : ActsOn r s (s.occupy r v).1 := by
  unfold State.occupy
  extract_lets q extra s1 c
  have h1 : ActsOn r s s1 := ite (refl r s) (modCore fun _ => rfl)
  split
  · exact h1.trans (modCore fun _ => rfl)
  · split
    · exact h1.trans (modCore fun _ => rfl)
    · exact h1

theorem pushRec {x : Rec} : ActsOn r s (s.pushRec x) :=
  (modDie fun _ => rfl).trans (ite (refl r _) (of_schedule rfl))

theorem trap {m pc i key named} : ActsOn r s (s.trap r m pc i key named) := by
  unfold State.trap
  split
  · exact refl r s
  · extract_lets s1
    have h1 : ActsOn r s s1 := (modTeam (f := fun x => x.flushLanes m) fun _ => rfl).trans modLanes
    exact h1.trans pushRec

theorem bump {d off hi lo n} : ActsOn r s (s.bump d off hi lo n) := of_schedule rfl

theorem raise {pc key l quiet} : ActsOn r s (s.raise r pc key l quiet) := by
  unfold State.raise
  refine foldl (fun s k => ?_) _ s
  dsimp only
  split
  · exact refl r s
  · split
    · exact trap.trans bump
    · exact trap.trans bump
    · exact trap.trans bump
    · exact trap.trans bump
    · exact trap

theorem live {ps : List Nat} : ActsOn r s (s.live r ps) := modTeam fun _ => rfl

theorem putPair {x : Env} {pe cm f} : ActsOn x.t s (x.putPair s pe cm f) := by
  unfold Env.putPair
  extract_lets pd s1
  have h1 : ActsOn x.t s s1 := ite (refl x.t s) live
  exact h1.trans modLanes

theorem putLaneOrK {x : Env} {n lat f} : ActsOn x.t s (x.putLaneOrK s n lat f) := by
  unfold Env.putLaneOrK
  split
  · exact ite (refl x.t s) writeK
  · exact modLanes

end ActsOn

theorem front_team (s : State) (iss : Issue) (tm : Team) (v : View) : (front s iss tm v).x.t = iss.team := by
  unfold front
  extract_lets bad1 ok1 e1 off
  split <;> rfl

/-- A body that acts on the team it is issued for. -/
def OwnTeam (body : Env → State → Res) : Prop := ∀ x s, ActsOn x.t s (body x s).s

namespace OwnTeam

variable {body : Env → State → Res}

/-- An issue acts on its team where the instruction's body does. -/
theorem runIssue (hb : OwnTeam body) (v : View) (iss : Issue) (tm : Team) (s : State) :
    ActsOn iss.team { s with cur := none } (runIssue v body iss tm s) := by
  unfold Machine.runIssue
  extract_lets -merge +onlyGivenNames s0 f x
  have ht : x.t = iss.team := front_team s0 iss tm v
  split
  rename_i s1 busy e1
  have h1 : ActsOn iss.team s0 s1 := by
    have := ActsOn.occupy (r := iss.team) (s := s0) (v := v)
    rwa [e1] at this
  extract_lets -merge +onlyGivenNames extra r traps key s2 s3 s4 s5
  have h2 : ActsOn iss.team s1 r.s := by
    unfold r
    split
    · exact .refl _ _
    · exact ht ▸ hb x s1
  have h5 : ActsOn iss.team s0 s5 := (((h1.trans h2).trans .lateK).trans .modLanes).trans .modLanes |>.trans .raise
  exact .ite (h5.trans (.modTeam fun _ => rfl)) h5

/-- A body whose effect acts on the team. -/
theorem of_ok {eff : Env → State → State} {lat : Env → State → Nat} (h : ∀ x s, ActsOn x.t s (eff x s)) :
    OwnTeam fun x s => .ok (eff x s) (lat x s) := h

end OwnTeam

/-- The instructions of classes 1 to 7, but `kld`. -/
def View.onRegisters (v : View) : Bool := decide (1 ≤ v.cls) && decide (v.cls ≤ 7) && !(v.cls == 4 && v.opn == 8)

/-- A register instruction writes the lanes of E, a pair of predicates, or a register of the lanes or of the team. -/
theorem exec_onRegisters {i : Instr} {v : View} (hv : viewOf i = some v) (hr : (viewOf i).any View.onRegisters = true) :
    ∃ body, OwnTeam body ∧ ∀ s, exec i s = issueWord v body s := by
  cases i
  case iadd | isub | imul | imulhi | imad | imadw | idiv | irem | ineg | iabs | imin | imax | iclamp | isad | aadd | lea | mov |
      movi | movk | sel | and | or | xor | not | lop3 | shl | shr | sar | rot | shf | popc | clz | ctz | brev | bfe | bfi | prmt |
      sext | p2g | shfl | tscan | matchLanes | wrsr | fadd | fsub | fmul | ffma | fmin | fmax | frcp | frsq | fsqrt | fdiv | fex2 |
      flg2 | fsin | fcos | ftanh | fclass | fscale | frnd | hadd2F16 | hmul2F16 | hfma2F16 | hmin2F16 | hmax2F16 | hdot2F16 |
      hadd2Bf16 | hmul2Bf16 | hfma2Bf16 | hmin2Bf16 | hmax2Bf16 | hdot2Bf16 | cvt | quant | dequant | packPlanes | packPair |
      unpackPlanes | unpackPair =>
    cases hv
    exact ⟨_, .of_ok fun _ _ => .modLanes, fun _ => rfl⟩
  case fcmp | icmp | kcmp | pset | vote =>
    cases hv
    exact ⟨_, .of_ok fun _ _ => .putPair, fun _ => rfl⟩
  case ballot | bcast | clk | kadd | kmov | rdsr | scalmax | tred =>
    cases hv
    exact ⟨_, .of_ok fun _ _ => .putLaneOrK, fun _ => rfl⟩
  case g2p =>
    cases hv
    exact ⟨_, .of_ok fun _ _ => .trans .live .modLanes, fun _ => rfl⟩
  all_goals cases hr

/-- Settles O57: what an issue does besides its body (units, delays, lanes that go on, traps) acts on its team, and so does each body. -/
theorem registerWordsFrame : Obligations.RegisterWordsFrame := by
  intro i v hv h1 h7 hk s t iss hcur hx
  have hr : (viewOf i).any View.onRegisters = true := by
    rw [hv]
    simpa [View.onRegisters, h1, h7, ← not_and_or] using hk
  obtain ⟨body, own, run⟩ := exec_onRegisters hv hr
  rw [run] at hx
  simp only [issueWord, hcur] at hx
  split at hx
  · cases hx
  · obtain rfl := Host.Outcome.next.inj hx
    obtain ⟨rest, others, dies, cores⟩ := own.runIssue v iss _ s
    exact ⟨rest, others, dies, cores⟩

end Sys2Proof.Machine
end

section
/-! Results of the f32 instructions (O12), of the packed ones (O13), and of conversion, quantization, packing and the block maximum
(O14). An instruction of class 5 or 6 is a lane operation of one register; one of class 7 takes its options from the view that its
lanes are issued with, and its statement reads them as bits of C (Table 7-8). -/

namespace Sys2Proof.Machine

/-! ### Classes 5 and 6: one register of each lane, whole or by halves -/

/-- An f32 operation writes its own result. -/
theorem laneResult_of_fltOp {i : Instr} {v : View} {f : Env → Nat → Nat} (hx : ∀ s, exec i s = fltOp v f s) :
    LaneResult i v 1 f :=
  laneResult_fltOp i v f f hx fun _ _ _ => rfl

/-- Settles O12: each is an f32 operation with the value of R204 to R212. -/
theorem floatResults : Obligations.FloatResults := fun _ _ =>
  ⟨laneResult_of_fltOp fun _ => rfl, laneResult_of_fltOp fun _ => rfl, laneResult_of_fltOp fun _ => rfl,
    laneResult_of_fltOp fun _ => rfl, laneResult_of_fltOp fun _ => rfl, laneResult_of_fltOp fun _ => rfl,
    laneResult_of_fltOp fun _ => rfl, laneResult_of_fltOp fun _ => rfl, laneResult_of_fltOp fun _ => rfl,
    laneResult_of_fltOp fun _ => rfl, laneResult_of_fltOp fun _ => rfl, laneResult_of_fltOp fun _ => rfl,
    laneResult_of_fltOp fun _ => rfl, laneResult_of_fltOp fun _ => rfl, laneResult_of_fltOp fun _ => rfl,
    laneResult_of_fltOp fun _ => rfl, laneResult_of_fltOp fun _ => rfl, laneResult_of_fltOp fun _ => rfl⟩

/-- Settles O13: in either format five instructions work by halves, and `hdot2` makes one f32 of both. -/
theorem packedResults : Obligations.PackedResults := fun _ _ =>
  ⟨packedResult_halfOp _ _ _ fun _ => rfl, packedResult_halfOp _ _ _ fun _ => rfl, packedResult_halfOp _ _ _ fun _ => rfl,
    packedResult_halfOp _ _ _ fun _ => rfl, packedResult_halfOp _ _ _ fun _ => rfl, laneResult_of_fltOp fun _ => rfl,
    packedResult_halfOp _ _ _ fun _ => rfl, packedResult_halfOp _ _ _ fun _ => rfl, packedResult_halfOp _ _ _ fun _ => rfl,
    packedResult_halfOp _ _ _ fun _ => rfl, packedResult_halfOp _ _ _ fun _ => rfl, laneResult_of_fltOp fun _ => rfl⟩

/-! ### Class 7: the options of an instruction in register form (Table 7-8) -/

section
variable (cls opn : Nat) (h : Hdr) (o : RegForm)

@[simp] theorem RegForm.cRm_view : (o.view cls opn h).cRm = o.c.opt % 8 := rfl
@[simp] theorem RegForm.cFtz_view : (o.view cls opn h).cFtz = o.c.opt.testBit 3 := rfl
@[simp] theorem RegForm.cSat_view : (o.view cls opn h).cSat = o.c.opt.testBit 4 := rfl
@[simp] theorem RegForm.cCnt_view : (o.view cls opn h).cCnt = bits o.c.opt 9 5 := rfl
@[simp] theorem RegForm.cForm_view : (o.view cls opn h).cForm = bits o.c.opt 12 10 := rfl
@[simp] theorem RegForm.cHalf_view : (o.view cls opn h).cHalf = o.c.opt.testBit 13 := rfl

end

/-- An instruction that puts `r` registers in the lanes of E, with the value `f` of the instruction's own view. -/
theorem laneResult_of_put_of_view {i : Instr} {v : View} {r : Nat} {f g : Env → Nat → Nat} {lat : Env → Nat}
    (hx : ∀ s, exec i s = issueWord v (fun x s => .ok (x.put s r (g x)) (lat x)) s) (hf : ∀ x, x.v = v → ∀ l, g x l = f x l) :
    LaneResult i v r f :=
  laneResult_of i v r (fun _ => r) f g lat hx (fun _ _ => rfl) hf

/-- Settles O14: the lanes are issued with the instruction's own view, whose options are the bits of C that the statement names;
`scalmax` is a uniform operation. -/
theorem conversionResults : Obligations.ConversionResults := fun _ _ =>
  ⟨laneResult_of _ _ _ (fun x => x.v.ty.regs) _ _ _ (fun _ => rfl) (fun _ hv => by rw [hv]) fun _ hv _ => by simp [Env.ty, hv],
    laneResult_of_put_of_view (fun _ => rfl) fun _ hv _ => by simp [hv],
    laneResult_of_put_of_view (fun _ => rfl) fun _ hv _ => by simp [hv],
    laneResult_of_put_of_view (fun _ => rfl) fun _ hv _ => by simp [hv],
    laneResult_of_put_of_view (fun _ => rfl) fun _ hv _ => by simp [hv],
    laneResult_of_put_of_view (fun _ => rfl) fun _ hv _ => by simp [hv],
    laneResult_of_put_of_view (fun _ => rfl) fun _ hv _ => by simp [hv],
    uniformResult_of_put fun _ => rfl⟩

end Sys2Proof.Machine
end

section
/-! Events of the memory side (O33), by the rules for events of O32. -/

namespace Sys2Proof.Machine

/-- Settles O33: a performed access tests its die and where it lies, the other events test the die that they name. -/
theorem memoryEventsRun : Obligations.MemoryEventsRun :=
  ⟨fun _ => eventRuns_of_guard (fun ⟨hd, hp⟩ => by simpa [hd, or_assoc] using hp) fun _ => rfl,
    fun _ => eventRuns_of_onDie fun _ => rfl,
    fun _ _ _ => eventRuns_of_onDie fun _ => rfl,
    fun _ _ _ => eventRuns_of_onDie fun _ => rfl,
    fun _ _ _ => eventRuns_of_onDie fun _ => rfl,
    fun _ _ => eventRuns_of_onDie fun _ => rfl,
    fun _ => eventRuns_of_onDie fun _ => rfl,
    fun _ => eventRuns_of_onDie fun _ => rfl,
    fun _ => eventRuns_of_onDie fun _ => rfl,
    fun _ => eventRuns_of_onDie fun _ => rfl,
    eventRuns_of_next fun _ => rfl,
    fun _ => eventRuns_of_onDie fun _ => rfl,
    fun _ _ => eventRuns_of_onDie fun _ => rfl⟩

end Sys2Proof.Machine
end

section
/-! Loads, stores and line instructions complete (O17): what the checks of Table 8-9 come to where every lane passes them, and what fates
the bodies give then. -/

namespace Sys2Proof.Machine

/-! ### Checks that every lane passes (R246, R249) -/

/-- Every lane's check has passed. -/
def AllPass (cs : List Chk) : Prop := ∀ c ∈ cs, ∃ p, c.res = .ok p

theorem chkFates_of_allPass {cs : List Chk} (h : AllPass cs) : chkFates cs = [] :=
  List.filterMap_eq_nil_iff.2 fun c hc => by
    obtain ⟨p, hp⟩ := h c hc
    rw [hp]

/-- One lane's turn in the checks of an issue: it is passed over where the access has stopped. -/
def Env.checkStep (x : Env) (space : Bool) (size need : Nat) (plain reads : Bool) (s0 : State) (stops : Bool)
    (acc : List Chk × List Looked × State) (a : Nat × Int) : List Chk × List Looked × State :=
  let ended : Bool := match acc.1.getLast? with
    | some ⟨_, .ok _, _, _, _⟩ | none => false
    | some _ => stops
  if ended then acc else
  let (c, memo, s) := x.check s0 space size need plain reads a.1 a.2 acc.2.1 acc.2.2
  (acc.1 ++ [c], memo, s)

theorem Env.checks_eq (x : Env) (space : Bool) (size need : Nat) (plain reads : Bool) (as : List (Nat × Int)) (s0 : State)
    (stops : Bool) : x.checks space size need plain reads as s0 stops =
      (let r := as.foldl (x.checkStep space size need plain reads s0 stops) ([], [], s0)
       (r.1, r.2.1.length - 1, (badData r.1).foldl (fun s a => (s.meetError a).1) r.2.2)) := rfl

section
variable {x : Env} {space : Bool} {size need : Nat} {plain reads stops : Bool} {s0 : State}
  {acc : List Chk × List Looked × State}

/-- An access that has not stopped checks the next lane. -/
theorem Env.checkStep_eq (h : stops = false ∨ AllPass acc.1) (a : Nat × Int) :
    x.checkStep space size need plain reads s0 stops acc a =
      (acc.1 ++ [(x.check s0 space size need plain reads a.1 a.2 acc.2.1 acc.2.2).1],
        (x.check s0 space size need plain reads a.1 a.2 acc.2.1 acc.2.2).2) := by
  unfold Env.checkStep
  extract_lets ended
  refine if_neg (Bool.not_eq_true _ ▸ ?_)
  unfold ended
  split
  · rfl
  · rfl
  · next c hlast hne =>
    refine h.resolve_right fun pass => ?_
    obtain ⟨p, hp⟩ := pass c (List.mem_of_getLast? hne)
    cases c
    cases hp
    exact hlast _ _ _ _ _ rfl

/-- Checks that have been made stay. -/
theorem Env.mem_foldl_checkStep {c : Chk} (as : List (Nat × Int)) (hc : c ∈ acc.1) :
    c ∈ (as.foldl (x.checkStep space size need plain reads s0 false) acc).1 := by
  induction as generalizing acc with
  | nil => exact hc
  | cons a as ih =>
    refine ih ?_
    rw [Env.checkStep_eq (.inl rfl)]
    exact List.mem_append_left _ hc

/-- Where every lane passes, an access that would stop at the first that fails does not stop. -/
theorem Env.foldl_checkStep_stops (as : List (Nat × Int))
    (h : AllPass (as.foldl (x.checkStep space size need plain reads s0 false) acc).1) :
    as.foldl (x.checkStep space size need plain reads s0 true) acc =
      as.foldl (x.checkStep space size need plain reads s0 false) acc := by
  induction as generalizing acc with
  | nil => rfl
  | cons a as ih =>
    have pass : AllPass acc.1 := fun c hc => h c (Env.mem_foldl_checkStep (a :: as) hc)
    have step : x.checkStep space size need plain reads s0 true acc a = x.checkStep space size need plain reads s0 false acc a :=
      (Env.checkStep_eq (.inr pass) a).trans (Env.checkStep_eq (.inl rfl) a).symm
    rw [List.foldl_cons, step]
    exact ih h

/-- A run whose lanes all pass is checked to its end. -/
theorem Env.checks_stops {as : List (Nat × Int)} (h : AllPass (x.checks space size need plain reads as s0).1) :
    x.checks space size need plain reads as s0 true = x.checks space size need plain reads as s0 := by
  rw [Env.checks_eq] at h
  rw [Env.checks_eq, Env.foldl_checkStep_stops as h, Env.checks_eq]

end

theorem splitRun_of_allPass {cs : List Chk} (h : AllPass cs) (as : List (Nat × Int)) : splitRun cs as = (cs, none) := by
  have all : (cs.takeWhile fun c => match c.res with
      | .ok _ => true
      | _ => false) = cs := List.takeWhile_eq_self_iff.2 fun c hc => by
    obtain ⟨p, hp⟩ := h c hc
    rw [hp]
  unfold splitRun
  extract_lets good
  have all : good = cs := all
  rw [all, List.drop_length]

/-! ### Class 8 and `kld` (R247 to R252, R188) -/

/-- A result without fates lets every lane pass. -/
theorem Res.fate_of_nil {r : Res} (h : r.fates = []) (l : Nat) : r.fate l = .pass := by
  rw [Res.fate, h]
  rfl

/-- An instruction whose body gives no lane a fate of its own, where `ok` holds, completes with the state that its body makes. -/
theorem completes_of_fates_nil {i : Instr} {v : View} {body : Env → State → Res} {ok : Env → State → Prop}
    (hx : ∀ s, exec i s = issueWord v body s) (hb : ∀ x s, ok x s → (body x s).fates = []) :
    Completes i v ok fun x s => (body x s).s :=
  completes_of i body ok _ hx fun x s _ _ ho => ⟨rfl, fun l _ => Res.fate_of_nil (hb x s ho) l⟩

section
variable {x : Env} {s : State}

theorem ldBody_fates (x : Env) (s : State) :
    (ldBody x s).fates = chkFates (x.checks x.v.space x.v.bytes 1 x.v.plain true x.eas s).1 := rfl

theorem stBody_fates (x : Env) (s : State) :
    (stBody x s).fates = chkFates (x.checks x.v.space x.v.bytes 2 x.v.plain false x.eas s).1 := rfl

theorem atomBody_fates (ret : Bool) (f : Env → Nat → Nat → Option Nat) (x : Env) (s : State) :
    (atomBody ret f x s).fates = chkFates (x.checks x.v.space x.v.bytes 3 false true x.eas s).1 := rfl

/-- `ldk` gives a fate to the lanes alone that wait. -/
theorem ldkBody_fates_nil (h : ∀ c ∈ (x.checks x.v.space x.v.bytes 1 false true x.eas s).1, ∀ w, c.res ≠ .hold w) :
    (ldkBody x s).fates = [] :=
  List.filterMap_eq_nil_iff.2 fun c hc => by
    split
    · next w hw => exact absurd hw (h c hc w)
    · rfl

/-- A run that does not stop parks no lane. -/
theorem stcBody_fates_nil (h : Passes x 2 x.v.plain false x.runAddrs s) : (stcBody x s).fates = [] := by
  unfold stcBody
  simp only [Env.checks_stops h, splitRun_of_allPass h]
  rfl

theorem ldeBody_fates_nil (h : Passes x 1 x.v.plain true x.runAddrs s) : (ldeBody x s).fates = [] := by
  unfold ldeBody
  simp only [Env.checks_stops h, splitRun_of_allPass h]
  rfl

/-- One lane has one check. -/
theorem Env.checks_singleton (x : Env) (space : Bool) (size need : Nat) (plain reads : Bool) (a : Nat × Int) (s : State) :
    ∃ c, (x.checks space size need plain reads [a] s).1 = [c] := ⟨_, rfl⟩

theorem kldBody_passes (h : Passes x 1 x.v.plain true [(x.l0, x.ea x.l0)] s) : ∃ t lat, kldBody x s = .ok t lat := by
  obtain ⟨c, hc⟩ := x.checks_singleton x.v.space x.v.bytes 1 x.v.plain true (x.l0, x.ea x.l0) s
  obtain ⟨p, hp⟩ := h c (by rw [hc]; exact List.mem_singleton_self c)
  obtain ⟨l, res, walk, va, data⟩ := c
  cases hp
  unfold kldBody
  simp only [hc]
  split <;> exact ⟨_, _, rfl⟩

theorem cctlBody_fates_nil (op : Nat) (h : LinesPass x s) : (cctlBody op x s).fates = [] := by
  obtain ⟨ls, w, t, e⟩ := h
  unfold cctlBody
  simp only [e]
  cases ls <;> rfl

end

/-- Settles O17: the fates of a body are those of its checks, which give none to a lane that passes. -/
theorem memoryCompletes : Obligations.MemoryCompletes := fun _ _ =>
  ⟨completes_of_fates_nil (fun _ => rfl) fun x s pass => (ldBody_fates x s).trans (chkFates_of_allPass pass),
    completes_of_fates_nil (fun _ => rfl) fun x s pass => (stBody_fates x s).trans (chkFates_of_allPass pass),
    completes_of_fates_nil (fun _ => rfl) fun _ _ => ldkBody_fates_nil,
    completes_of_fates_nil (fun _ => rfl) fun _ _ => stcBody_fates_nil,
    completes_of_fates_nil (fun _ => rfl) fun _ _ => ldeBody_fates_nil,
    completes_of_body (fun _ => rfl) fun _ _ _ => kldBody_passes,
    completes_of_ok (fun _ => rfl) fun _ _ _ _ => ⟨0, rfl⟩,
    completes_of_fates_nil (fun _ => rfl) fun _ _ => cctlBody_fates_nil 0,
    completes_of_fates_nil (fun _ => rfl) fun _ _ => cctlBody_fates_nil 1,
    completes_of_fates_nil (fun _ => rfl) fun _ _ => cctlBody_fates_nil 2,
    completes_of_fates_nil (fun _ => rfl) fun _ _ => cctlBody_fates_nil 3⟩

end Sys2Proof.Machine
end

section
/-! Atomics, ordered additions and fences complete (O18). An `ordadd` needs room in the lists: what it does before it places an entry
leaves them as they are, and each lane places one entry at most. -/

namespace Sys2Proof.Machine

/-! ### Updates that leave the ordered lists as they are (R255) -/

/-- Each die's ordered lists stand in `u` as in `s`. -/
def SameOrds (s u : State) : Prop := ∀ d, (u.die d).ords = (s.die d).ords

namespace SameOrds
variable {s u w : State}

theorem refl (s : State) : SameOrds s s := fun _ => rfl

theorem trans (h : SameOrds s u) (h' : SameOrds u w) : SameOrds s w := fun d => (h' d).trans (h d)

theorem modDie {d : Nat} {f : Die → Die} (hf : ∀ x, (f x).ords = x.ords) : SameOrds s (s.modDie d f) := fun k => by
  rcases s.die_modDie d k f with e | e <;> rw [e]
  exact hf _

theorem putBucket {d : Nat} {b : Bucket} : SameOrds s (s.putBucket d b) := modDie fun _ => rfl

theorem claimCap {d res n : Nat} : SameOrds s (s.claimCap d res n) := modDie fun _ => rfl

theorem sluiceServe {d ctx res n : Nat} {copy zero : Bool} (h : s.sluiceServe d ctx res n copy zero = some u) : SameOrds s u := by
  unfold State.sluiceServe at h
  split at h
  · obtain rfl := Option.some.inj h
    exact refl s
  · split at h
    · cases h
    · split at h
      · obtain rfl := Option.some.inj h
        exact claimCap
      · extract_lets b cost r at h
        split at h
        · obtain rfl := Option.some.inj h
          exact putBucket.trans claimCap
        · cases h

theorem sluiceGo {ctx : Nat} {copy zero : Bool} {who : Waiter} (needs : List (Nat × Nat × Nat)) :
    SameOrds s (s.sluiceGo ctx copy zero who needs).2 := by
  induction needs generalizing s with
  | nil => exact refl s
  | cons n rest ih =>
    obtain ⟨res, d, n⟩ := n
    unfold State.sluiceGo
    split
    · next served => exact (sluiceServe served).trans ih
    · extract_lets s1
      have h1 : SameOrds s s1 := modDie fun _ => rfl
      refine h1.trans ?_
      split
      · exact refl s1
      · unfold State.atEnd
        split <;> exact refl s1

theorem sluiceAll {x : Env} {win write : Bool} {ps : List (Nat × Place)} : SameOrds s (s.sluiceAll x win ps write) := by
  unfold State.sluiceAll
  split
  · exact sluiceGo _
  · exact refl s

theorem bankWait {h pa dl : Nat} : SameOrds s (s.bankWait h pa dl).1 := modDie fun _ => rfl

end SameOrds

/-! ### Room in the lists (R258) -/

/-- The lists of every die take `n` entries more. -/
def OrdRoom (n : Nat) (s : State) : Prop := ∀ d, (s.die d).ords.length + n ≤ ordCap

section
variable {n : Nat} {s u : State}

theorem OrdRoom.of_sameOrds (h : OrdRoom n s) (e : SameOrds s u) : OrdRoom n u := fun d => by
  rw [e d]
  exact h d

theorem OrdRoom.mono {m : Nat} (h : OrdRoom n s) (hm : m ≤ n) : OrdRoom m s := fun d => (Nat.add_le_add_left hm _).trans (h d)

/-- Where there is room an entry is placed, and takes the room of one. -/
theorem OrdRoom.ordOne (h : OrdRoom (n + 1) s) (tm : Team) (l home va pa rcb : Nat) (value : W32) :
    ∃ u, s.ordOne tm l home va pa rcb value = some u ∧ OrdRoom n u := by
  have room := h home
  refine ⟨_, if_neg (by omega), fun d => ?_⟩
  have room := h d
  rcases s.die_modDie home d fun d => { d with ords := d.ords ++ [s.ordEntry tm l home va pa rcb value] } with e | e <;> rw [e]
  · rw [List.length_append, List.length_singleton]
    omega
  · omega

/-- The lanes of an `ordadd` so far have no fate of their own, and there is room for `n` more. -/
def Placing (n : Nat) (r : Res) : Prop := r.fates = [] ∧ OrdRoom n r.s

theorem Placing.ordLane {r : Res} (h : Placing (n + 1) r) (x : Env) (cs : List Chk) (l pa rcb lat : Nat) :
    Placing n (x.ordLane cs l pa rcb lat r) := by
  obtain ⟨fates, room⟩ := h
  unfold Env.ordLane
  split
  · exact ⟨fates, room.mono (Nat.le_succ n)⟩
  · next home _ =>
    extract_lets va v
    obtain ⟨u, placed, left⟩ := room.ordOne x.tm l home va pa rcb v
    simp only [placed]
    exact ⟨fates, left⟩

end

/-- A fold each of whose steps takes one of a number that the list's length bounds. -/
theorem foldl_countdown {α β : Type} {P : Nat → β → Prop} {f : β → α → β} {l : List α} {b : β} (h : P l.length b)
    (hf : ∀ n b, ∀ a ∈ l, P (n + 1) b → P n (f b a)) : P 0 (l.foldl f b) := by
  induction l generalizing b with
  | nil => exact h
  | cons a l ih =>
    exact ih (hf l.length b a List.mem_cons_self h) fun n b c hc => hf n b c (List.mem_cons_of_mem a hc)

/-- The checks are as many as the lanes at most. -/
theorem Env.length_checks_le {x : Env} {space : Bool} {size need : Nat} {plain reads : Bool} {as : List (Nat × Int)} {s : State} :
    (x.checks space size need plain reads as s).1.length ≤ as.length := by
  suffices ∀ acc, (as.foldl (x.checkStep space size need plain reads s false) acc).1.length ≤ acc.1.length + as.length by
    simpa [Env.checks_eq] using this ([], [], s)
  induction as with
  | nil => exact fun acc => le_rfl
  | cons a as ih =>
    intro acc
    rw [List.foldl_cons, Env.checkStep_eq (.inl rfl)]
    refine (ih _).trans_eq ?_
    simp only [List.length_append, List.length_cons, List.length_nil]
    omega

theorem length_lanesOf_le (m : Lanes) : (lanesOf m).length ≤ 32 :=
  (List.length_filter_le _ _).trans_eq (List.length_range ..)

/-- An `ordadd` in the launch's targets, whose lanes pass at addresses of memory with room for all of them, parks no lane. -/
theorem ordaddBody_fates_nil {x : Env} {s : State}
    (launch : ∃ p l, s.launchOf x.tm.grp = some (p, l) ∧ ∀ a ∈ x.eas, inTarget l a.2.toNat = true)
    (pass : ∀ c ∈ (x.checks false 4 2 false true x.eas s).1, ∃ pa, c.res = .ok (.mem pa))
    (room : OrdRoom 32 (x.checks false 4 2 false true x.eas s).2.2) : (ordaddBody x s).fates = [] := by
  obtain ⟨p, l, hl, within⟩ := launch
  have good : (x.eas.filter fun a => inTarget l a.2.toNat) = x.eas := List.filter_eq_self.2 within
  have bad : (x.eas.filter fun a => !inTarget l a.2.toNat) = [] := List.filter_eq_nil_iff.2 fun a ha => by simp [within a ha]
  have lanes : (x.checks false 4 2 false true x.eas s).1.length ≤ 32 :=
    Env.length_checks_le.trans ((List.length_map ..).trans_le (length_lanesOf_le x.e))
  unfold ordaddBody
  simp only [hl, good, bad, List.map_nil]
  refine (foldl_countdown (P := fun n (acc : Res × List (Nat × Nat)) => Placing n acc.1)
    ⟨rfl, (room.mono lanes).of_sameOrds .sluiceAll⟩ fun n acc c hc h => ?_).1
  obtain ⟨pa, hpa⟩ := pass c hc
  obtain ⟨fates, room⟩ := h
  simp only [hpa]
  split <;> refine Placing.ordLane ⟨?_, ?_⟩ ..
  · exact fates
  · exact room
  · exact fates
  · exact room.of_sameOrds .bankWait

theorem flushordBody_passes (x : Env) (s : State) : ∃ t lat, flushordBody x s = .ok t lat := by
  unfold flushordBody
  extract_lets n
  split
  · exact ⟨_, _, rfl⟩
  · extract_lets t
    cases t <;> exact ⟨_, _, rfl⟩

/-- Settles O18: the fates of an atomic's body are those of its checks, an `ordadd` finds room for each lane, and the others have none. -/
theorem atomicCompletes : Obligations.AtomicCompletes := fun _ _ _ _ =>
  ⟨completes_of_fates_nil (fun _ => rfl) fun x s pass => (atomBody_fates true atomStep x s).trans (chkFates_of_allPass pass),
    completes_of_fates_nil (fun _ => rfl) fun x s pass => (atomBody_fates false atomStep x s).trans (chkFates_of_allPass pass),
    completes_of_fates_nil (fun _ => rfl) fun x s pass => (atomBody_fates true casStep x s).trans (chkFates_of_allPass pass),
    completes_of_fates_nil (fun _ => rfl) fun _ _ ⟨launch, pass, room⟩ => ordaddBody_fates_nil launch pass room,
    completes_of_body (fun _ => rfl) fun x s _ _ => flushordBody_passes x s,
    completes_of_fates_nil (fun _ => rfl) fun _ _ _ => rfl⟩

end Sys2Proof.Machine
end

section
/-! `st` and `ld` on the scratchpad (O56). In the group's window every lane passes its checks at its own place; each lane's store is a write
of its bytes, each lane's load a read of them, and what else an access does leaves memory, scratchpad and registers as they are. -/

namespace Sys2Proof.Machine

/-! ### Updates that leave memory, scratchpad and registers as they are -/

/-- What an observed release raises is a lane's horizon. -/
theorem observe_regs (rels : List Rel) (ord scope : Nat) (who : Who) (y : Lane) :
    (observe rels ord scope who y).g = y.g ∧ (observe rels ord scope who y).p = y.p := by
  unfold observe
  extract_lets y1
  split
  · exact State.foldl_keeps (P := fun z : Lane => z.g = y.g ∧ z.p = y.p) ⟨rfl, rfl⟩ fun _ _ h => h
  · exact ⟨rfl, rfl⟩

/-- Each lane of the team `r` has the g registers and the predicates in `u` that it has in `s`. -/
def SameRegs (r : TeamRef) (s u : State) : Prop := ∀ tm, s.team? r = some tm → ∃ tm', u.team? r = some tm' ∧
  ∀ (l : Nat) (y : Lane), tm.lanes[l]? = some y → ∃ y' : Lane, tm'.lanes[l]? = some y' ∧ y'.g = y.g ∧ y'.p = y.p

/-- Memory, scratchpad and the registers of the team `r` stand in `u` as in `s`. -/
structure KeepsData (r : TeamRef) (s u : State) : Prop where
  mem : u.mem = s.mem
  scratch : u.scratch = s.scratch
  regs : SameRegs r s u

namespace KeepsData
variable {r : TeamRef} {s u w : State}

theorem of_teams (hm : u.mem = s.mem) (hs : u.scratch = s.scratch) (ht : u.teams = s.teams) : KeepsData r s u where
  mem := hm
  scratch := hs
  regs tm h := ⟨tm, by rw [← h, State.team?, ht]; rfl, fun _ y hy => ⟨y, hy, rfl, rfl⟩⟩

theorem refl (r : TeamRef) (s : State) : KeepsData r s s := of_teams rfl rfl rfl

theorem trans (h : KeepsData r s u) (h' : KeepsData r u w) : KeepsData r s w where
  mem := h'.mem.trans h.mem
  scratch := h'.scratch.trans h.scratch
  regs tm ht := by
    obtain ⟨tm1, ht1, h1⟩ := h.regs tm ht
    obtain ⟨tm2, ht2, h2⟩ := h'.regs tm1 ht1
    refine ⟨tm2, ht2, fun l y hy => ?_⟩
    obtain ⟨y1, hy1, g1, p1⟩ := h1 l y hy
    obtain ⟨y2, hy2, g2, p2⟩ := h2 l y1 hy1
    exact ⟨y2, hy2, g2.trans g1, p2.trans p1⟩

/-- An update of the team that leaves its lanes as they are. -/
theorem modTeam {f : Team → Team} (hr : ∀ x, (f x).ref = x.ref) (hl : ∀ x, (f x).lanes = x.lanes) : KeepsData r s (s.modTeam r f) where
  mem := rfl
  scratch := rfl
  regs tm h := ⟨f tm, by rw [State.team?_modTeam _ _ _ hr, h]; rfl, fun l y hy => ⟨y, by rw [hl]; exact hy, rfl, rfl⟩⟩

theorem modLanes {m : Lanes} {f : Nat → Lane → Lane} (hf : ∀ l y, (f l y).g = y.g ∧ (f l y).p = y.p) :
    KeepsData r s (s.modLanes r m f) where
  mem := rfl
  scratch := rfl
  regs tm h := by
    refine ⟨_, by rw [team?_modLanes, h]; rfl, fun l y hy => ⟨_, getElem_updLanes _ _ _ l y hy, ?_⟩⟩
    split
    · exact hf l y
    · exact ⟨rfl, rfl⟩

theorem modLane {l : Nat} {f : Lane → Lane} (hf : ∀ y, (f y).g = y.g ∧ (f y).p = y.p) : KeepsData r s (s.modLane r l f) where
  mem := rfl
  scratch := rfl
  regs tm h := by
    have named : (s.modLane r l f).team? r = some (tm.modLane l f) := by
      rw [State.modLane, State.team?_modTeam s r (fun x => x.modLane l f) fun _ => rfl, h, Option.map_some]
    refine ⟨_, named, fun k y hy => ?_⟩
    by_cases hk : k = l
    · subst hk
      exact ⟨f y, by rw [Team.modLane, getElem?_updAt_same, hy]; rfl, hf y⟩
    · exact ⟨y, by rw [Team.modLane, getElem?_updAt _ _ _ _ hk, hy], rfl, rfl⟩

theorem lateK {m n : Nat} : KeepsData r s (s.lateK r m n) := by
  unfold State.lateK
  split
  · exact refl r s
  · split
    · exact refl r s
    · next tm _ =>
      exact (modTeam (f := fun x => { x with kpend := x.kpend.take m ++ _ }) (fun _ => rfl) fun _ => rfl).trans (of_teams rfl rfl rfl)

theorem acquireDrop {d ord scope : Nat} : KeepsData r s (s.acquireDrop d ord scope) := by
  rw [State.acquireDrop_frame]
  exact of_teams rfl rfl rfl

theorem newRels {x : Env} {l ord scope : Nat} : KeepsData r s (x.newRels l ord scope s).2 := by
  unfold Env.newRels
  extract_lets y scopes
  split <;> exact of_teams rfl rfl rfl

theorem writeRels {p : Place} {n : Nat} {atomic : Bool} {new : List Rel} : KeepsData r s (s.writeRels p n atomic new) := by
  unfold State.writeRels
  extract_lets k old rest
  split <;> exact of_teams rfl rfl rfl

theorem leaveRace {x : Env} {s0 : State} {l a size : Nat} {write : Bool} : KeepsData r s (x.leaveRace s0 l (.scr a) size write s) := by
  unfold Env.leaveRace
  split <;> exact of_teams rfl rfl rfl

theorem noteAccess {x : Env} {read : Bool} {cs : List Chk} {lats : List (Nat × Option Nat)} :
    KeepsData x.t s (s.noteAccess x read cs lats) := modLanes fun _ _ => ⟨rfl, rfl⟩

end KeepsData

/-! ### Checks in the window (R225, R227) -/

/-- What the check of a lane's access to the scratchpad byte `a` comes to where it passes. -/
def scrChk (l a : Nat) : Chk := ⟨l, .ok (.scr a), 0, none, false⟩

section
variable {x : Env} {s s0 : State} {g : Group} {size need : Nat} {plain reads : Bool}

theorem window_eq_ok {off : Int} (hg : s.group? x.tm.grp = some g) (aligned : off % (size : Int) = 0) (low : 0 ≤ off)
    (high : off + size ≤ g.winLim) :
    s.window x.tm.grp off size = .ok (.scr (scrBase g.die g.core + g.winBase + off.toNat)) := by
  have inside : ¬(decide (off < 0) || decide (off + size > g.winLim)) = true := by simp [low, high]
  simp only [State.window, hg, aligned, bne_self_eq_false, Bool.false_eq_true, if_false, if_neg inside]

theorem check_eq_scrChk {l : Nat} {memo : List Looked} (hg : s.group? x.tm.grp = some g) (aligned : x.ea l % (size : Int) = 0)
    (low : 0 ≤ x.ea l) (high : x.ea l + size ≤ g.winLim)
    (race : plain = true → x.raceCheck s0 l (.scr (x.scrAddr g l)) (wrap 64 (x.ea l)) size (need == 2) = none) :
    x.check s0 true size need plain reads l (x.ea l) memo s = (scrChk l (x.scrAddr g l), memo, s) := by
  have no_race : (if plain = true then x.raceCheck s0 l (.scr (x.scrAddr g l)) (wrap 64 (x.ea l)) size (need == 2) else none) = none := by
    split
    · next h => exact race h
    · rfl
  unfold Env.check
  simp only [if_true, window_eq_ok hg aligned low high]
  rw [Env.scrAddr] at no_race ⊢
  simp only [State.portDown, no_race]
  rfl

end

/-- The place of each lane in the window. -/
def scrPlaces (x : Env) (g : Group) (ls : List Nat) : List (Nat × Place) := ls.map fun l => (l, .scr (x.scrAddr g l))

section
variable {x : Env} {s : State} {g : Group} {need : Nat} {reads : Bool}

/-- The checks of lanes in the window pass, and leave the state as it is. -/
theorem checks_eq_of_inWindow (hg : s.group? x.tm.grp = some g) (h : InWindow s x g need) :
    x.checks true x.v.bytes need x.v.plain reads x.eas s = (x.lanes.map fun l => scrChk l (x.scrAddr g l), 0, s) := by
  have run : ∀ (ls : List Nat) (cs : List Chk), (∀ l ∈ ls, l ∈ x.lanes) →
      (ls.map fun l => (l, x.ea l)).foldl (x.checkStep true x.v.bytes need x.v.plain reads s false) (cs, [], s) =
        (cs ++ ls.map fun l => scrChk l (x.scrAddr g l), [], s) := by
    intro ls
    induction ls with
    | nil => simp
    | cons l ls ih =>
      intro cs hl
      obtain ⟨aligned, low, high, race⟩ := h l (hl l List.mem_cons_self)
      rw [List.map_cons, List.foldl_cons, Env.checkStep_eq (.inl rfl), check_eq_scrChk hg aligned low high race,
        ih _ fun k hk => hl k (List.mem_cons_of_mem l hk)]
      simp
  have no_data : badData (x.lanes.map fun l => scrChk l (x.scrAddr g l)) = [] := by
    rw [badData, List.filterMap_map]
    exact congrArg List.dedup (List.filterMap_eq_nil_iff.2 fun _ _ => rfl)
  rw [Env.checks_eq, Env.eas, run x.lanes [] fun _ hl => hl]
  simp only [List.nil_append, no_data]
  rfl

theorem okPlaces_scrChks (x : Env) (g : Group) (ls : List Nat) :
    okPlaces (ls.map fun l => scrChk l (x.scrAddr g l)) = scrPlaces x g ls := by
  rw [okPlaces, List.filterMap_map]
  exact List.filterMap_eq_map_iff_forall_eq_some.2 fun _ _ => rfl

theorem chkFates_scrChks (x : Env) (g : Group) (ls : List Nat) : chkFates (ls.map fun l => scrChk l (x.scrAddr g l)) = [] :=
  chkFates_of_allPass fun c hc => by
    obtain ⟨l, -, rfl⟩ := List.mem_map.1 hc
    exact ⟨_, rfl⟩

theorem holdLanes_scrChks (t : TeamRef) (ls : List Nat) : s.holdLanes t (ls.map fun l => scrChk l (x.scrAddr g l)) = s := by
  rw [State.holdLanes, List.foldl_map]
  exact List.foldl_fixed' (fun _ => rfl) ls

/-- The scratchpad draws on no resource of Sluice. -/
theorem sluiceAll_scrPlaces (win write : Bool) (ls : List Nat) : s.sluiceAll x win (scrPlaces x g ls) write = s := by
  have none_drawn : ((scrPlaces x g ls).flatMap fun p => s.draws x.t.die p.2 write) = [] := by
    rw [scrPlaces, List.flatMap_map]
    exact List.flatMap_eq_nil_iff.2 fun _ _ => rfl
  unfold State.sluiceAll
  split
  · rw [none_drawn]
    rfl
  · rfl

theorem noteFlight_scrPlaces (s0 : State) (kept win : Bool) (ls : List Nat) (lats : List (Nat × Option Nat)) :
    s.noteFlight s0 x kept win (scrPlaces x g ls) lats = s := by
  rw [State.noteFlight, scrPlaces, List.foldl_map]
  exact List.foldl_fixed' (fun _ => rfl) ls

end

/-! ### One lane's store, and one lane's load -/

section
variable {x : Env} {s s0 : State} {l a size ord scope evict dl : Nat} {plain : Bool} {m : Touched}

/-- The scratchpad has no line to fetch, and no caches. -/
theorem Touched.load_scr (m : Touched) (d a scope evict dl : Nat) (s : State) :
    ∃ lat m', m.load d (.scr a) scope evict dl s = (lat, m', s) := by
  unfold Touched.load
  split <;> exact ⟨_, _, rfl⟩

theorem Touched.store_scr (m : Touched) (d a evict dl : Nat) (s : State) : ∃ lat m', m.store d (.scr a) evict dl s = (lat, m', s) := by
  unfold Touched.store
  simp only [Touched.heat]
  split <;> exact ⟨_, _, rfl⟩

/-- A store writes its bytes, and nothing else of memory, scratchpad and registers. -/
theorem Env.store_scr {v : Nat} :
    KeepsData x.t (s.scrPut a (leBytes size v)) (x.store l (.scr a) size ord scope evict plain v dl m s).2.2 := by
  obtain ⟨lat, m1, touched⟩ := m.store_scr x.t.die a evict dl s
  unfold Env.store
  simp only [touched]
  refine .trans (.trans ?_ .newRels) .writeRels
  split
  · exact .leaveRace
  · exact .refl _ _

/-- A load reads its bytes. -/
theorem Env.load_scr :
    (x.load l (.scr a) size ord scope evict plain dl m s0 s).2.1 = leVal (cellsGet s.scratch a size) ∧
      KeepsData x.t s (x.load l (.scr a) size ord scope evict plain dl m s0 s).2.2.2 := by
  have dropped : KeepsData x.t s (s.acquireDrop x.t.die ord scope) := .acquireDrop
  obtain ⟨lat, m1, touched⟩ := m.load_scr x.t.die a scope evict dl (s.acquireDrop x.t.die ord scope)
  unfold Env.load
  simp only [touched]
  refine ⟨congrArg (fun c => leVal (cellsGet c a size)) dropped.scratch, dropped.trans ?_⟩
  have observed : ∀ {u : State} {rels : List Rel}, KeepsData x.t u (u.modLane x.t l (observe rels ord scope x.who)) :=
    .modLane (observe_regs _ _ _ _)
  split
  · exact observed.trans .leaveRace
  · exact observed
end

/-! ### The stores of an issue, lane after lane (R247) -/

/-- Lanes write their bytes one after another. -/
def putLanes (at_ : Nat → Nat) (bs : Nat → List Byte) (c : List Host.Cell) (ls : List Nat) : List Host.Cell :=
  ls.foldl (fun c l => cellsPut c (at_ l) (bs l)) c

section
variable {at_ : Nat → Nat} {bs : Nat → List Byte} {n : Nat} {c c' : List Host.Cell} {ls : List Nat}

/-- A byte that no lane writes stays. -/
theorem cellGet_putLanes_out {a : Nat} (hc : Memory.wf c = true) (hn : ∀ l, (bs l).length = n)
    (out : ∀ l ∈ ls, a < at_ l ∨ at_ l + n ≤ a) : cellGet (putLanes at_ bs c ls) a = cellGet c a := by
  induction ls generalizing c with
  | nil => rfl
  | cons l ls ih =>
    have first := out l List.mem_cons_self
    rw [← hn l] at first
    calc cellGet (putLanes at_ bs (cellsPut c (at_ l) (bs l)) ls) a = cellGet (cellsPut c (at_ l) (bs l)) a :=
          ih (cellsPut_wf _ _ _ hc) fun k hk => out k (List.mem_cons_of_mem l hk)
      _ = cellGet c a := cellGet_cellsPut_out _ _ _ _ hc first

theorem cellsGet_congr {a : Nat} (h : ∀ i, a ≤ i → i < a + n → cellGet c i = cellGet c' i) : cellsGet c a n = cellsGet c' a n := by
  induction n generalizing a with
  | zero => rfl
  | succ n ih =>
    rw [cellsGet, cellsGet, h a le_rfl (by omega), ih fun i lo hi => h i (by omega) (by omega)]

/-- The bytes of a lane stay that no later lane overlaps. -/
theorem cellsGet_putLanes {l : Nat} (hc : Memory.wf c = true) (hn : ∀ l, (bs l).length = n) (sorted : ls.Pairwise (· < ·)) (hl : l ∈ ls)
    (last : ∀ k ∈ ls, l < k → overlap (at_ l) n (at_ k) n = false) : cellsGet (putLanes at_ bs c ls) (at_ l) n = bs l := by
  induction ls generalizing c with
  | nil => cases hl
  | cons k ls ih =>
    obtain ⟨above, sorted⟩ := List.pairwise_cons.1 sorted
    have hc' : Memory.wf (cellsPut c (at_ k) (bs k)) = true := cellsPut_wf _ _ _ hc
    rcases List.mem_cons.1 hl with rfl | later
    · calc cellsGet (putLanes at_ bs (cellsPut c (at_ l) (bs l)) ls) (at_ l) n = cellsGet (cellsPut c (at_ l) (bs l)) (at_ l) n :=
            cellsGet_congr fun i lo hi => cellGet_putLanes_out hc' hn fun j hj => by
              have apart := last j (List.mem_cons_of_mem l hj) (above j hj)
              simp only [overlap, Bool.and_eq_false_iff, decide_eq_false_iff_not] at apart
              omega
        _ = bs l := by rw [← hn l, cellsGet_cellsPut _ _ _ hc]
    · exact ih hc' sorted later fun j hj => last j (List.mem_cons_of_mem k hj)

end

/-- The bytes of a value are those of its lowest digits. -/
theorem leBytes_mod (n v : Nat) : leBytes n (v % 2 ^ (8 * n)) = leBytes n v := by
  induction n generalizing v with
  | zero => rfl
  | succ n ih =>
    have split : 2 ^ (8 * (n + 1)) = 256 * 2 ^ (8 * n) := by rw [Nat.mul_succ, Nat.pow_add, Nat.mul_comm]
    rw [leBytes, leBytes, split, Nat.mod_mul_right_div_self, ih]
    refine congrArg (· :: _) (BitVec.eq_of_toNat_eq ?_)
    rw [BitVec.toNat_ofNat, BitVec.toNat_ofNat]
    exact Nat.mod_mul_right_mod v 256 _

section
variable {x : Env} {s : State} {g : Group}

/-- A fold over the places of lanes whose every step writes the lane's bytes. -/
theorem foldl_scrPlaces_writes {β : Type} (state : β → State) {bs : Nat → List Byte} {F : β → Nat × Place → β}
    (hF : ∀ b l, KeepsData x.t ((state b).scrPut (x.scrAddr g l) (bs l)) (state (F b (l, .scr (x.scrAddr g l))))) (ls : List Nat) (b : β) :
    (state ((scrPlaces x g ls).foldl F b)).mem = (state b).mem ∧
      (state ((scrPlaces x g ls).foldl F b)).scratch = putLanes (x.scrAddr g) bs (state b).scratch ls := by
  induction ls generalizing b with
  | nil => exact ⟨rfl, rfl⟩
  | cons l ls ih =>
    obtain ⟨mem, scratch, -⟩ := hF b l
    obtain ⟨mem', scratch'⟩ := ih (F b (l, .scr (x.scrAddr g l)))
    exact ⟨mem'.trans mem, scratch'.trans (by rw [scratch]; rfl)⟩

/-- A fold over the places of lanes whose every step lists what the lane's bytes come to. -/
theorem foldl_scrPlaces_reads {β : Type} (state : β → State) (vals : β → List (Nat × Nat)) {n : Nat} {F : β → Nat × Place → β}
    (hF : ∀ b l, vals (F b (l, .scr (x.scrAddr g l))) = vals b ++ [(l, leVal (cellsGet (state b).scratch (x.scrAddr g l) n))] ∧
      KeepsData x.t (state b) (state (F b (l, .scr (x.scrAddr g l))))) (ls : List Nat) (b : β) :
    vals ((scrPlaces x g ls).foldl F b) = vals b ++ ls.map (fun l => (l, leVal (cellsGet (state b).scratch (x.scrAddr g l) n))) ∧
      KeepsData x.t (state b) (state ((scrPlaces x g ls).foldl F b)) := by
  induction ls generalizing b with
  | nil => exact ⟨(List.append_nil _).symm, .refl _ _⟩
  | cons l ls ih =>
    obtain ⟨listed, kept⟩ := hF b l
    obtain ⟨listed', kept'⟩ := ih (F b (l, .scr (x.scrAddr g l)))
    refine ⟨listed'.trans ?_, kept.trans kept'⟩
    rw [listed, kept.scratch, List.append_assoc]
    rfl

/-- The bytes that a lane of a store has for memory. -/
def Env.storeBytes (x : Env) (l : Nat) : List Byte := leBytes x.v.bytes (x.dsrc l (8 * x.v.bytes))

theorem Env.stores_scr {cs : List Chk} {extra : Nat} {ls : List Nat} (hcs : okPlaces cs = scrPlaces x g ls) :
    (x.stores cs extra s).mem = s.mem ∧ (x.stores cs extra s).scratch = putLanes (x.scrAddr g) x.storeBytes s.scratch ls := by
  unfold Env.stores
  simp only [hcs, noteFlight_scrPlaces]
  refine foldl_scrPlaces_writes (fun b : List (Nat × Option Nat) × Touched × State => b.2.2) (fun b l => ?_) ls ([], Touched.none, s)
  rw [Env.storeBytes, ← leBytes_mod]
  exact Env.store_scr (evict := x.v.evict) (dl := walkOf cs l)

theorem Env.loads_scr {cs : List Chk} {extra : Nat} {plain : Bool} {ls : List Nat} (hcs : okPlaces cs = scrPlaces x g ls) (size : Nat) :
    (x.loads cs size extra plain s).1 = ls.map (fun l => (l, leVal (cellsGet s.scratch (x.scrAddr g l) size))) ∧
      KeepsData x.t s (x.loads cs size extra plain s).2.2.2 := by
  unfold Env.loads
  simp only [hcs, noteFlight_scrPlaces]
  refine And.imp_right (fun kept => KeepsData.trans kept .noteAccess)
    (foldl_scrPlaces_reads (fun b : List (Nat × Nat) × List (Nat × Option Nat) × Touched × State => b.2.2.2) (·.1) (fun b l => ?_) ls
      ([], [], Touched.none, s))
  obtain ⟨value, kept⟩ := Env.load_scr (x := x) (s := b.2.2.2) (s0 := s) (l := l) (a := x.scrAddr g l) (size := size) (ord := x.v.ord)
    (scope := x.v.scope) (evict := x.v.evict) (dl := walkOf cs l) (plain := plain) (m := b.2.2.1)
  exact ⟨congrArg (fun v => b.1 ++ [(l, v)]) value, kept⟩

end

/-! ### The bodies of `st` and `ld` in the window -/

section
variable {x : Env} {s : State} {g : Group}

/-- `st` writes each lane's bytes at the lane's place. -/
theorem stBody_scr (hspace : x.v.space = true) (hg : s.group? x.tm.grp = some g) (h : InWindow s x g 2) :
    (stBody x s).fates = [] ∧ (stBody x s).s.mem = s.mem ∧
      (stBody x s).s.scratch = putLanes (x.scrAddr g) x.storeBytes s.scratch x.lanes := by
  unfold stBody
  simp only [hspace, checks_eq_of_inWindow hg h, okPlaces_scrChks, sluiceAll_scrPlaces, holdLanes_scrChks, chkFates_scrChks, true_and]
  exact Env.stores_scr (okPlaces_scrChks x g x.lanes)

/-- What a lane of an `ld` puts in its registers. -/
def Env.loadVal (x : Env) (g : Group) (s : State) (l : Nat) : Nat :=
  extendVal x.v.ty (leVal (cellsGet s.scratch (x.scrAddr g l) x.v.bytes))

/-- `ld` puts each lane's bytes, extended, in the lane's registers. -/
theorem ldBody_scr (hspace : x.v.space = true) (hg : s.group? x.tm.grp = some g) (h : InWindow s x g 1) :
    (ldBody x s).fates = [] ∧ ∃ u, KeepsData x.t s u ∧
      (ldBody x s).s = x.putVals u x.v.ty.regs (x.lanes.map fun l => (l, x.loadVal g s l)) := by
  unfold ldBody
  simp only [hspace, checks_eq_of_inWindow hg h, okPlaces_scrChks, sluiceAll_scrPlaces, holdLanes_scrChks, chkFates_scrChks, true_and]
  rw [(Env.loads_scr (okPlaces_scrChks x g x.lanes) x.v.bytes).1, List.map_map]
  exact ⟨_, (Env.loads_scr (okPlaces_scrChks x g x.lanes) x.v.bytes).2, rfl⟩

/-- A list with a value for each lane of E is written to each. -/
theorem team?_putVals {tm : Team} {r : Nat} {f : Nat → Nat} (ht : s.team? x.t = some tm) :
    ∃ tm', (x.putVals s r (x.lanes.map fun l => (l, f l))).team? x.t = some tm' ∧
      ∀ l ∈ x.lanes, ∀ y, tm.lanes[l]? = some y → tm'.lanes[l]? = some (writeG x.v.d r (f l) y) := by
  have mask : maskOf ((x.lanes.map fun l => (l, f l)).map (·.1)) = x.e := by
    rw [List.map_map]
    exact (congrArg maskOf (List.map_id _)).trans (maskOf_lanesOf x.e)
  refine ⟨_, by rw [Env.putVals, mask, team?_modLanes, ht]; rfl, fun l hl y hy => ?_⟩
  have written := getElem_updLanes tm.lanes x.e (fun l y => writeG x.v.d r (lookD (x.lanes.map fun l => (l, f l)) l 0) y) l y hy
  rwa [if_pos ((mem_lanesOf x.e l).1 hl).2, lookD_map f 0 hl] at written

/-- What a write of g registers leaves depends on what they held alone. -/
theorem Lane.wgs_g_congr {y y' : Lane} (n r v : Nat) (h : y'.g = y.g) : (y'.wgs n r v).g = (y.wgs n r v).g := by
  induction r generalizing y y' n v with
  | zero => exact h
  | succ r ih => exact ih (n + 1) (v / 2 ^ 32) (congrArg (updAt · n fun _ => BitVec.ofNat 32 v) h)

theorem writeG_g_congr {y y' : Lane} (o : Opd) (r v : Nat) (h : y'.g = y.g) : (writeG o r v y').g = (writeG o r v y).g := by
  cases o with
  | g _ _ n => exact Lane.wgs_g_congr n.toNat r v h
  | k | i | f => exact h

theorem writeG_p (o : Opd) (r v : Nat) (y : Lane) : (writeG o r v y).p = y.p := by
  cases o with
  | g _ _ n => rw [writeG, y.wgs_frame]
  | k | i | f => rfl

end

/-- Whether lanes lie in the window depends on the race records of the scratchpad alone. -/
theorem InWindow.of_srace {s u : State} {x : Env} {g : Group} {need : Nat} (h : InWindow s x g need) (e : u.srace = s.srace) :
    InWindow u x g need := fun l hl => by
  obtain ⟨aligned, low, high, race⟩ := h l hl
  refine ⟨aligned, low, high, fun hp => ?_⟩
  rw [← race hp, Env.raceCheck, Env.raceCheck, State.raceAt, State.raceAt, e]

section
variable {i : Instr} {v : View} {body : Env → State → Res} {s : State} {iss : Issue} {tm : Team}

/-- What an issue's effect leaves: that of the body, where some lane executes. -/
def effectOf (body : Env → State → Res) (s : State) (iss : Issue) (tm : Team) (v : View) : State :=
  if issueE iss tm v = 0 then begun s iss v else (body (envOf iss tm v) (begun s iss v)).s

/-- An issue whose body gives no lane a fate goes on, with lanes that execute or without. -/
theorem exec_goesOn (hx : ∀ s, exec i s = issueWord v body s) (h : Ready s iss tm v)
    (hf : (body (envOf iss tm v) (begun s iss v)).fates = []) :
    ∃ t, exec i s = .next t ∧ GoesOn (settled s iss tm v (effectOf body s iss tm v)) t iss tm v := by
  refine ⟨_, (hx s).trans (issueWord_ready h body), ?_⟩
  have pass : ∀ l, (if issueE iss tm v = 0 then Res.ok (begun s iss v) 0 else body (envOf iss tm v) (begun s iss v)).fate l = .pass :=
    fun l => Res.fate_of_nil (by split <;> [rfl; exact hf]) l
  have goes := runIssue_goesTo h body _ (fun _ => some (nextPc iss.pc)) rfl (fun l _ => .inl ⟨rfl, pass l⟩)
    fun l i _ => by rw [pass l]; exact ⟨nofun, nofun⟩
  rwa [apply_ite Res.s] at goes

/-- Occupying a unit keeps memory, scratchpad and registers. -/
theorem begun_keepsData (s : State) (iss : Issue) (v : View) (r : TeamRef) : KeepsData r s (begun s iss v) := by
  rw [begun_frame]
  exact .of_teams rfl rfl rfl

theorem settled_keepsData (s : State) (iss : Issue) (tm : Team) (v : View) (u : State) : KeepsData iss.team u (settled s iss tm v u) := .lateK

variable {g : Group}

theorem begun_group? (h : s.group? tm.grp = some g) (v : View) : (begun s iss v).group? (envOf iss tm v).tm.grp = some g := by
  rw [begun_frame]
  exact h

theorem InWindow.begun {need : Nat} (h : InWindow s (envOf iss tm v) g need) : InWindow (begun s iss v) (envOf iss tm v) g need :=
  h.of_srace (by rw [begun_frame])

theorem lanes_of_issueE_eq_zero (h : issueE iss tm v = 0) : (envOf iss tm v).lanes = [] :=
  (congrArg lanesOf h).trans lanesOf_zero

/-- A store to the window writes the bytes of the lanes of E, and no other of memory or scratchpad. -/
theorem exec_scr_store (hx : ∀ s, exec i s = issueWord v stBody s) (hspace : v.space = true) (hg : s.group? tm.grp = some g)
    (ready : Ready s iss tm v) (win : InWindow s (envOf iss tm v) g 2) :
    ∃ t, exec i s = .next t ∧ t.mem = s.mem ∧
      t.scratch = putLanes ((envOf iss tm v).scrAddr g) (envOf iss tm v).storeBytes s.scratch (envOf iss tm v).lanes := by
  obtain ⟨fates, mem, scratch⟩ := stBody_scr (x := envOf iss tm v) hspace (begun_group? hg v) win.begun
  obtain ⟨t, next, goes⟩ := exec_goesOn hx ready fates
  have start := begun_keepsData s iss v iss.team
  have late := settled_keepsData s iss tm v (effectOf stBody s iss tm v)
  have effect : (effectOf stBody s iss tm v).mem = s.mem ∧ (effectOf stBody s iss tm v).scratch =
      putLanes ((envOf iss tm v).scrAddr g) (envOf iss tm v).storeBytes s.scratch (envOf iss tm v).lanes := by
    unfold effectOf
    split
    · next none_in =>
      rw [lanes_of_issueE_eq_zero none_in]
      exact ⟨start.mem, start.scratch⟩
    · exact ⟨mem.trans start.mem, by rw [scratch, start.scratch]⟩
  refine ⟨t, next, ?_, ?_⟩
  · rw [goes.rest, ← effect.1, ← late.mem]
  · rw [goes.rest, ← effect.2, ← late.scratch]

/-- What a load from the window has done when its effect is made. -/
theorem effectOf_ldBody_scr (hspace : v.space = true) (hg : s.group? tm.grp = some g) (ht : s.team? iss.team = some tm)
    (win : InWindow s (envOf iss tm v) g 1) :
    (effectOf ldBody s iss tm v).mem = s.mem ∧ (effectOf ldBody s iss tm v).scratch = s.scratch ∧
      ∃ tm', (effectOf ldBody s iss tm v).team? iss.team = some tm' ∧
        ∀ l ∈ (envOf iss tm v).lanes, ∀ y, tm.lanes[l]? = some y → ∃ y', tm'.lanes[l]? = some y' ∧ y'.p = y.p ∧
          y'.g = (writeG v.d v.ty.regs ((envOf iss tm v).loadVal g s l) y).g := by
  have start := begun_keepsData s iss v iss.team
  unfold effectOf
  split
  · next none_in =>
    rw [lanes_of_issueE_eq_zero none_in]
    exact ⟨start.mem, start.scratch, tm, (begun_team? s iss v _).trans ht, nofun⟩
  · obtain ⟨-, u, kept, loaded⟩ := ldBody_scr (x := envOf iss tm v) hspace (begun_group? hg v) win.begun
    have kept := start.trans kept
    obtain ⟨tm1, ht1, same⟩ := kept.regs tm ht
    obtain ⟨tm2, ht2, written⟩ := team?_putVals (x := envOf iss tm v) (r := v.ty.regs)
      (f := (envOf iss tm v).loadVal g (begun s iss v)) ht1
    rw [loaded]
    refine ⟨kept.mem, kept.scratch, tm2, ht2, fun l hl y hy => ?_⟩
    obtain ⟨y1, hy1, g1, p1⟩ := same l y hy
    refine ⟨_, written l hl y1 hy1, (writeG_p ..).trans p1, ?_⟩
    rw [writeG_g_congr _ _ _ g1, Env.loadVal, start.scratch]
    rfl

/-- A load from the window leaves memory and scratchpad, and puts its value in D in each lane of E. -/
theorem exec_scr_load (hx : ∀ s, exec i s = issueWord v ldBody s) (hspace : v.space = true) (hg : s.group? tm.grp = some g)
    (ready : Ready s iss tm v) (win : InWindow s (envOf iss tm v) g 1) :
    ∃ t tm', exec i s = .next t ∧ t.mem = s.mem ∧ t.scratch = s.scratch ∧ t.team? iss.team = some tm' ∧
      ∀ l ∈ (envOf iss tm v).lanes, ∀ y, tm.lanes[l]? = some y → ∃ y', tm'.lanes[l]? = some y' ∧ y'.p = y.p ∧
        y'.pc = nextPc iss.pc ∧ y'.g = (writeG v.d v.ty.regs ((envOf iss tm v).loadVal g s l) y).g := by
  obtain ⟨fates, -⟩ := ldBody_scr (x := envOf iss tm v) hspace (begun_group? hg v) win.begun
  obtain ⟨t, next, goes⟩ := exec_goesOn hx ready fates
  obtain ⟨mem, scratch, tm1, ht1, loaded⟩ := effectOf_ldBody_scr hspace hg ready.team win
  have late := settled_keepsData s iss tm v (effectOf ldBody s iss tm v)
  obtain ⟨tm2, ht2, same⟩ := late.regs tm1 ht1
  obtain ⟨tm3, ht3, -, -, passed⟩ := goes.team tm2 ht2
  refine ⟨t, tm3, next, ?_, ?_, ht3, fun l hl y hy => ?_⟩
  · rw [goes.rest, ← mem, ← late.mem]
  · rw [goes.rest, ← scratch, ← late.scratch]
  · obtain ⟨y1, hy1, p1, g1⟩ := loaded l hl y hy
    obtain ⟨y2, hy2, g2, p2⟩ := same l y1 hy1
    obtain ⟨y3, hy3, on, -⟩ := passed l y2 hy2
    have on : Passed y2 y3 (nextPc iss.pc) := on ((mem_lanes_envOf iss tm v l).1 hl)
    refine ⟨y3, hy3, ?_, ?_, ?_⟩ <;> rw [on]
    · exact p2.trans p1
    · exact g2.trans g1

end

/-- Settles O56: the checks of lanes in the window pass without a trace, the stores are writes of the lanes' bytes in ascending order, and
what else an issue does keeps memory, scratchpad and registers. -/
theorem scratchpadAccess : Obligations.ScratchpadAccess := by
  intro h o s iss tm g hspace hmem hg
  have wf := (s.memOk_iff.1 hmem).2
  refine ⟨fun ready win => ?store, fun ready win => exec_scr_load (fun _ => rfl) hspace hg ready win⟩
  case store =>
    obtain ⟨t, next, mem, scratch⟩ := exec_scr_store (i := .st h o) (fun _ => rfl) hspace hg ready win
    have length : ∀ l, ((envOf iss tm (o.view 8 1 h)).storeBytes l).length = 2 ^ o.size.toNat := fun l => length_leBytes _ _
    refine ⟨t, next, mem, fun a out => ?_, fun l hl last => ?_⟩
    · rw [scratch]
      exact cellGet_putLanes_out wf length out
    · rw [scratch]
      exact cellsGet_putLanes wf length (pairwise_lanesOf _) hl last

end Sys2Proof.Machine
end

section
/-! Frames of accesses (O55). `LoadsOnly` does not ask that memory stands in its canonical form, as `StoresOnly` does. A hotness record
(R240) that a load leaves in its ring lists no byte that is 0, and takes the cells of such bytes away; in a list of cells that is out of
order, a cell that a greater address has hidden then comes into view. -/

namespace Sys2Proof.Machine

namespace DisorderedMemory

/-- The guard p7 is always true, with no lookahead. -/
def hdr : Hdr := ⟨0xFF, 7, 7, 7, 0, false⟩

/-- `ld.b32 g6, [g4]`. -/
def load : MemForm := ⟨.g 0 8 6, .g 0 0 4, 0, 0, 0, false, 2, 0⟩

/-- A team of die 0's firmware core, whose g4 and g5 name the first byte of die 1's memory. -/
def team : Team :=
  let tm := Team.init ⟨0, 0, 0⟩ ⟨8192, 0, 0⟩ 0 0x10000 [] 0
  { tm with lanes := tm.lanes.map fun y => y.wg 5 0x30 }

/-- Lane 0 issues. -/
def issue : Issue := ⟨⟨0, 0, 0⟩, 0x10000, 1, none⟩

/-- The cell of 0x1000 stands behind that of 0x2000, where die 1's ring of one record begins; its threshold is 1. -/
def state : State :=
  { State.reset with teams := [team], mem := [(0x2000, 1), (0x1000, 1)], hw := [(0x10920, 1), (0x10928, 0x2000)], cur := some issue }

theorem eq_zero_of_mem_issue {l : Nat} (h : issue.lanes.getLsbD l = true) : l = 0 := by
  have bound := lt_of_getLsbD _ _ h
  revert h
  interval_cases l <;> decide

theorem ready : Ready state issue team (load.view 8 0 hdr) where
  cur := rfl
  team := by decide +kernel
  check := by decide +kernel
  guards l h := by
    obtain rfl := eq_zero_of_mem_issue h
    decide +kernel
  operands l h := by
    rw [issueE, getLsbD_pick, Bool.and_eq_true] at h
    obtain rfl := eq_zero_of_mem_issue h.1
    decide +kernel

theorem ringFree : state.ringFree 0x1000 := by
  intro d hd
  interval_cases d <;> decide +kernel

theorem byte_before : cellGet state.mem 0x1000 = 0 := by decide

/-- The record's first byte is 0: it takes the cell of 0x2000 away, and that of 0x1000 comes first. -/
theorem byte_after : cellGet (runIssue (load.view 8 0 hdr) ldBody issue team state).mem 0x1000 = 1 := by decide +kernel

end DisorderedMemory

/-- Refutes O55: where memory is not in its canonical form, a load of another die's memory can change a byte that lies in no ring. -/
theorem not_accessFrames : ¬ Obligations.AccessFrames := by
  intro h
  obtain ⟨-, -, -, -, -, ld, -⟩ := h DisorderedMemory.hdr DisorderedMemory.load
  obtain ⟨mem, -⟩ := ld DisorderedMemory.state DisorderedMemory.issue DisorderedMemory.team _ (by decide +kernel) DisorderedMemory.ready
    (issueWord_ready DisorderedMemory.ready ldBody)
  have same := mem 0x1000 DisorderedMemory.ringFree
  rw [DisorderedMemory.byte_before, DisorderedMemory.byte_after] at same
  exact absurd same (by decide)

end Sys2Proof.Machine
end

section
/-! Events of copies and pipes (O34), by the rules for events of O32. -/

namespace Sys2Proof.Machine

/-- Settles O34: the events name their units by references and indexes, and test none of them. -/
theorem copyAndPipeEventsRun : Obligations.CopyAndPipeEventsRun :=
  ⟨-- copies and handles (R260 to R270)
    fun _ _ _ => eventRuns_of_next fun _ => rfl,
    fun _ _ _ => eventRuns_of_next fun _ => rfl,
    fun _ _ _ _ _ => eventRuns_of_next fun _ => rfl,
    fun _ _ _ => eventRuns_of_next fun _ => rfl,
    fun _ _ => eventRuns_of_next fun _ => rfl,
    -- pipes and staging (R283 to R300)
    fun _ => eventRuns_of_next fun _ => rfl,
    fun _ _ => eventRuns_of_next fun _ => rfl,
    fun _ => eventRuns_of_next fun _ => rfl,
    fun _ => eventRuns_of_next fun _ => rfl,
    fun _ => eventRuns_of_next fun _ => rfl,
    fun _ _ _ => eventRuns_of_next fun _ => rfl,
    fun _ _ => eventRuns_of_next fun _ => rfl,
    fun _ => eventRuns_of_next fun _ => rfl⟩

end Sys2Proof.Machine
end

section
/-! Copies and handles (O19, O20): what the bodies of class 10 come to where no lane traps or waits. The lemmas read the operands from
the issue's view; the statements name the instruction's own fields, which are those of its view. -/

namespace Sys2Proof.Machine

/-! ### Handles in the state that an instruction asks for (R269, Table 9-2) -/

section
variable {x : Env} {s : State} {hn : Nat}

/-- An instruction goes on where its handle stands in one of the states. -/
theorem Env.needs_of_mem {sts : List HSt} (h : (s.handle x.tm.grp hn).st ∈ sts) (f : Handle → Res) :
    x.needs hn sts s f = f (s.handle x.tm.grp hn) :=
  if_pos (List.contains_iff_mem.2 h)

theorem Env.needs_of_eq {st : HSt} (h : (s.handle x.tm.grp hn).st = st) (f : Handle → Res) :
    x.needs hn [st] s f = f (s.handle x.tm.grp hn) :=
  Env.needs_of_mem (List.mem_singleton.2 h) f

/-- An out-copy and `bset.drain` take a handle that is FULL or DRAINING. -/
theorem Env.needs_of_full_or_draining
    (h : (s.handle x.tm.grp hn).st = .full ∨ (s.handle x.tm.grp hn).st = .draining) (f : Handle → Res) :
    x.needs hn [.full, .draining] s f = f (s.handle x.tm.grp hn) :=
  Env.needs_of_mem (List.mem_pair.2 h) f

end

theorem handleReady_handleFree_iff (g : Group) (n : Nat) : g.handleReady (.handleFree n) = true ↔
    (g.hd n).st = .free ∨ (g.hd n).st = .full ∨ ((g.hd n).st = .draining ∧ (g.hd n).outs = 0) := by
  simp [Group.handleReady, or_assoc]

theorem handleReady_wptr_iff (g : Group) (n k : Nat) :
    g.handleReady (.wptr n k) = true ↔ k ≤ (g.hd n).wptr ∨ (g.hd n).st ≠ .filling := by
  simp [Group.handleReady]

section
variable {x : Env} {s : State}

/-! ### Copies (R273 to R276) -/

/-- A `cpy` of which no lane stops lets its lanes pass. -/
theorem cpyBody_passes {y : Handle} {s1 : State} (hy : s.handle x.tm.grp x.v.d.idx = y) (filling : y.st = .filling)
    (hs1 : s1 = s.modHandle x.tm.grp x.v.d.idx fun z => z.reserve ((cpyPlaces x y).2 * x.v.bytes))
    (hrun : (cpyRun x (x.group s) y x.v.d.idx s1 (cpyPlaces x y).1 [] s1).2.1 = none) :
    ∃ t lat, cpyBody x s = .ok t lat := by
  subst hy hs1
  rw [cpyBody, Env.needs_of_eq filling]
  simp only [hrun]
  exact ⟨_, _, rfl⟩

/-- A `cpyt.in` whose slots pass and whose bytes the handle has room for. -/
theorem cpytInBody_passes {m ml hs hl : List W64} {s' : State} (hslots : x.cpytSlots s = (.ok ((m, ml), (hs, hl)), s'))
    (filling : (s'.handle x.tm.grp x.v.d.idx).st = .filling)
    (room : (s'.handle x.tm.grp x.v.d.idx).res + tileUnits m ml * unitBytes hs ≤ (s'.handle x.tm.grp x.v.d.idx).len) :
    ∃ t lat, cpytInBody x s = .ok t lat := by
  simp only [cpytInBody, hslots, Env.needs_of_eq filling, if_neg (Nat.not_lt.2 room)]
  exact ⟨_, _, rfl⟩

theorem cpytOutBody_passes {m ml hs hl : List W64} {s' : State} (hslots : x.cpytSlots s = (.ok ((m, ml), (hs, hl)), s'))
    (ready : (s'.handle x.tm.grp x.v.d.idx).st = .full ∨ (s'.handle x.tm.grp x.v.d.idx).st = .draining) :
    ∃ t lat, cpytOutBody x s = .ok t lat := by
  simp only [cpytOutBody, hslots, Env.needs_of_full_or_draining ready]
  exact ⟨_, _, rfl⟩

/-- `cpycsr` queues its descriptor where both its handles are FILLING. -/
theorem cpycsrBody_of_filling (hc : (s.handle x.tm.grp x.v.d.idx).st = .filling)
    (hv : (s.handle x.tm.grp x.v.cOpd.idx).st = .filling) :
    cpycsrBody x s = .ok ((x.release0 s).2.enqueue x.t.die x.t.core (x.v.d.idx % 2)
      (.make (.csr (x.a0 64 % 2 ^ 48) (x.b0 64 % 2 ^ 32) (x.b0 64 / 2 ^ 32) x.v.cOpd.idx
          (s.handle x.tm.grp x.v.cOpd.idx).serial.toNat)
        x.tm.grp x.v.d.idx (s.handle x.tm.grp x.v.d.idx).serial false [] s.clock (x.release0 s).1 none)) 0 := by
  simp only [cpycsrBody, hc, hv]
  rfl

/-! ### `bset`, `bwait` and `wptr` (R277 to R280) -/

/-- `bset.arm` of a free handle, with a base and a length that are aligned and lie in the window. -/
theorem bsetArmBody_of_free (base : x.a0 32 % 16 = 0) (len : x.b0 32 % 4 = 0) (inside : x.a0 32 + x.b0 32 ≤ (x.group s).winLim)
    (free : (s.handle x.tm.grp x.v.d.idx).st = .free) :
    bsetArmBody x s = .ok (s.setHandle x.tm.grp x.v.d.idx fun y =>
      y.armed (x.a0 32) (x.b0 32) (x.v.opt.testBit 3) (bits x.v.opt 7 4)) 0 := by
  simp only [bsetArmBody, base, len, bne_self_eq_false, Bool.or_self, Bool.false_eq_true, if_false,
    if_neg (Nat.not_lt.2 inside), Env.needs_of_eq free]

theorem bsetDrainBody_of_full_or_draining
    (ready : (s.handle x.tm.grp x.v.d.idx).st = .full ∨ (s.handle x.tm.grp x.v.d.idx).st = .draining) :
    bsetDrainBody x s = .ok (s.setHandle x.tm.grp x.v.d.idx fun y => { y with st := .draining }) 0 := by
  rw [bsetDrainBody, Env.needs_of_full_or_draining ready]

theorem bsetFreeBody_of_ready (ready : (x.group s).handleReady (.handleFree x.v.d.idx) = true) :
    bsetFreeBody x s =
      .ok (s.setHandle x.tm.grp x.v.d.idx fun y => { y with st := .free, ending := false, rstamp := 0 }) 0 :=
  if_pos ready

/-- `bwait` goes on with the stamp of the state it waited for, but for a FULL handle with an error. -/
theorem bwaitBody_of_reached (reached : (s.handle x.tm.grp x.v.d.idx).st = HSt.ofCode (bits x.v.opt 1 0))
    (sound : (s.handle x.tm.grp x.v.d.idx).st = .full → (s.handle x.tm.grp x.v.d.idx).err = 0) :
    bwaitBody x s = .ok (s.modLanes x.t x.e fun _ y => y.acquire (match HSt.ofCode (bits x.v.opt 1 0) with
      | .full => (s.handle x.tm.grp x.v.d.idx).stamp
      | .free => (s.handle x.tm.grp x.v.d.idx).rstamp
      | .filling | .draining => 0)) 0 := by
  have noTrap : ¬ (HSt.ofCode (bits x.v.opt 1 0) == .full && (s.handle x.tm.grp x.v.d.idx).err != 0) = true := by
    rw [← reached]
    simpa using sound
  rw [bwaitBody, Env.needs_of_eq reached]
  exact if_neg noTrap

theorem wptrGeBody_of_ready (ready : (x.group s).handleReady (.wptr x.v.a.idx (x.b0 32)) = true) :
    wptrGeBody x s = x.putWptr (s.handle x.tm.grp x.v.a.idx) s :=
  if_pos ready

end

/-- Settles O19: a handle in the state that Table 9-2 asks for lets the copy go on, and the rest of its condition lets no lane trap. -/
theorem copyResults : Obligations.CopyResults := fun _ _ _ =>
  ⟨completes_of_body (fun _ => rfl) fun
      | ⟨_, _, _, _, _⟩, _, rfl, ⟨filling, run⟩ => cpyBody_passes rfl filling rfl (run _ rfl),
    completes_of_body (fun _ => rfl) fun
      | ⟨_, _, _, _, _⟩, _, rfl, ⟨⟨(_, _), (_, _)⟩, _, slots, filling, room⟩ => cpytInBody_passes slots filling room,
    completes_of_body (fun _ => rfl) fun
      | ⟨_, _, _, _, _⟩, _, rfl, ⟨⟨(_, _), (_, _)⟩, _, slots, ready⟩ => cpytOutBody_passes slots ready,
    completes_of_ok (fun _ => rfl) fun
      | ⟨_, _, _, _, _⟩, _, rfl, ⟨hc, hv⟩ => ⟨0, cpycsrBody_of_filling hc hv⟩⟩

/-- Settles O20: each instruction goes on where its handle stands as Table 9-2 asks, and sets the handle, or reads it. -/
theorem handleResults : Obligations.HandleResults := fun _ _ =>
  ⟨completes_of_ok (fun _ => rfl) fun
      | ⟨_, _, _, _, _⟩, _, rfl, ⟨base, len, inside, free⟩ => ⟨0, bsetArmBody_of_free base len inside free⟩,
    completes_of_ok (fun _ => rfl) fun | ⟨_, _, _, _, _⟩, _, rfl, _ => ⟨0, rfl⟩,
    completes_of_ok (fun _ => rfl) fun
      | ⟨_, _, _, _, _⟩, _, rfl, ready => ⟨0, bsetDrainBody_of_full_or_draining ready⟩,
    completes_of_ok (fun _ => rfl) fun
      | ⟨_, _, _, _, _⟩, _, rfl, ready => ⟨0, bsetFreeBody_of_ready ((handleReady_handleFree_iff ..).2 ready)⟩,
    completes_of_ok (fun _ => rfl) fun _ _ _ _ => ⟨0, rfl⟩,
    completes_of_ok (fun _ => rfl) fun
      | ⟨_, _, _, _, _⟩, _, rfl, ⟨reached, sound⟩ => ⟨0, bwaitBody_of_reached reached sound⟩,
    completes_of_ok (fun _ => rfl) fun _ _ _ _ => ⟨4, rfl⟩,
    completes_of_ok (fun _ => rfl) fun | ⟨_, _, _, _, _⟩, _, rfl, _ => ⟨4, rfl⟩,
    completes_of_ok (fun _ => rfl) fun
      | ⟨_, _, _, _, _⟩, _, rfl, ready => ⟨4, wptrGeBody_of_ready ((handleReady_wptr_iff ..).2 ready)⟩⟩

end Sys2Proof.Machine
end

section
/-! Pipes (O21): where the group's stage has the side of the pipe, or the group holds the slot, the bodies of class 11 trap in no lane. -/

namespace Sys2Proof.Machine

section
variable {x : Env} {s : State}

/-! ### Instructions that name a pipe (R287, R288, R293) -/

/-- The lanes of a request stay until the home serves it. -/
theorem Env.request_stays (x : Env) (take : Bool) (p : Pipe) (s : State) :
    x.request take p s = .all (x.request take p s).s x .stay := rfl

theorem presBody_stays (side : (x.port .prod s).isSome = true) : presBody x s = .all (presBody x s).s x .stay := by
  obtain ⟨p, hp⟩ := Option.isSome_iff_exists.1 side
  simp only [presBody, hp]
  exact x.request_stays false p s

theorem ptakeBody_stays (side : (x.port .cons s).isSome = true) : ptakeBody x s = .all (ptakeBody x s).s x .stay := by
  obtain ⟨p, hp⟩ := Option.isSome_iff_exists.1 side
  simp only [ptakeBody, hp]
  exact x.request_stays true p s

theorem pqueryBody_passes (side : (x.port .either s).isSome = true) : ∃ t lat, pqueryBody x s = .ok t lat := by
  obtain ⟨p, hp⟩ := Option.isSome_iff_exists.1 side
  simp only [pqueryBody, hp]
  exact ⟨_, _, rfl⟩

theorem pspillBody_passes (side : (x.port .either s).isSome = true) : ∃ t lat, pspillBody x s = .ok t lat := by
  obtain ⟨p, hp⟩ := Option.isSome_iff_exists.1 side
  simp only [pspillBody, hp]
  exact ⟨_, _, rfl⟩

theorem pdrainBody_passes (side : (x.port .prod s).isSome = true) : ∃ t lat, pdrainBody x s = .ok t lat := by
  obtain ⟨p, hp⟩ := Option.isSome_iff_exists.1 side
  simp only [pdrainBody, hp]
  exact ⟨_, _, rfl⟩

/-! ### Instructions that name a slot (R289 to R292) -/

/-- `pcom` of a reserved slot, at a covered logical time whose summary under the pipe's path is not `noTime`. -/
theorem pcomBody_passes {p : Pipe} {i : Nat} {u : W64} (slot : x.reserved s = some (p, i))
    (covered : s.covered (x.group s) (x.tm.lane x.l0).ltnow = true) (time : summary p.path (x.tm.lane x.l0).ltnow = some u)
    (hu : u ≠ noTime) : ∃ t lat, pcomBody x s = .ok t lat := by
  simp only [pcomBody, slot, covered, time, beq_eq_false_iff_ne.2 hu, Bool.not_true, Bool.false_eq_true, if_false]
  exact ⟨_, _, rfl⟩

theorem prelBody_passes (slot : (x.taken s).isSome = true) : ∃ t lat, prelBody x s = .ok t lat := by
  obtain ⟨⟨p, i, spilled⟩, held⟩ := Option.isSome_iff_exists.1 slot
  simp only [prelBody, held]
  exact ⟨_, _, rfl⟩

/-- `pcpy.in` of a taken tile that the handle has room for. -/
theorem pcpyInBody_passes {q : Pipe × Nat × Bool} (slot : x.taken s = some q)
    (filling : (s.handle x.tm.grp x.v.d.idx).st = .filling)
    (room : (s.handle x.tm.grp x.v.d.idx).res + q.1.slotSize ≤ (s.handle x.tm.grp x.v.d.idx).len) :
    ∃ t lat, pcpyInBody x s = .ok t lat := by
  simp only [pcpyInBody, slot, Env.needs_of_eq filling, if_neg (Nat.not_lt.2 room)]
  exact ⟨_, _, rfl⟩

theorem pcpyOutBody_passes (slot : (x.reserved s).isSome = true)
    (ready : (s.handle x.tm.grp x.v.d.idx).st = .full ∨ (s.handle x.tm.grp x.v.d.idx).st = .draining) :
    ∃ t lat, pcpyOutBody x s = .ok t lat := by
  obtain ⟨⟨p, i⟩, held⟩ := Option.isSome_iff_exists.1 slot
  simp only [pcpyOutBody, held, Env.needs_of_full_or_draining ready]
  exact ⟨_, _, rfl⟩

end

/-- Settles O21: `pres` and `ptake` leave their lanes where they are, with a request at the home; the others find the pipe, the slot
and the handle that they name, and let their lanes pass. -/
theorem pipeResults : Obligations.PipeResults := fun _ _ =>
  ⟨completesTo_of_stay (fun _ => rfl) fun _ _ _ => presBody_stays,
    completesTo_of_stay (fun _ => rfl) fun _ _ _ => ptakeBody_stays,
    completes_of_body (fun _ => rfl) fun _ _ _ ⟨_, _, _, slot, covered, time, hu⟩ => pcomBody_passes slot covered time hu,
    completes_of_body (fun _ => rfl) fun _ _ _ => prelBody_passes,
    completes_of_body (fun _ => rfl) fun
      | ⟨_, _, _, _, _⟩, _, rfl, ⟨_, slot, filling, room⟩ => pcpyInBody_passes slot filling room,
    completes_of_body (fun _ => rfl) fun
      | ⟨_, _, _, _, _⟩, _, rfl, ⟨slot, ready⟩ => pcpyOutBody_passes slot ready,
    completes_of_body (fun _ => rfl) fun _ _ _ => pqueryBody_passes,
    completes_of_body (fun _ => rfl) fun _ _ _ => pspillBody_passes,
    completes_of_body (fun _ => rfl) fun _ _ _ => pdrainBody_passes⟩

end Sys2Proof.Machine
end

section
/-! Events of the matrix engines (O35), by the rules for events of O32. -/

namespace Sys2Proof.Machine

/-- An event of a unit with three numbers (an engine of a cluster of a die) tests them all. -/
theorem eventRuns_of_three_bounds {i : Instr} {ev : Event} {op : State → State} {a b c k m n : Nat}
    (hx : ∀ s : State, exec i { s with ev := some ev } =
      if (decide (a < k) && decide (b < m) && decide (c < n)) = true then .next (op { s with ev := none }) else .fault .noUnit) :
    EventRuns i ev (a < k ∧ b < m ∧ c < n) op :=
  eventRuns_of_guard (fun ⟨ha, hb, hc⟩ => by simp [ha, hb, hc]) hx

/-- Settles O35: a job's events name an engine of a cluster, the self-test an engine of a die, the load of the control stores a die,
and an operand's arrival its job by references. -/
theorem matrixEventsRun : Obligations.MatrixEventsRun :=
  ⟨fun _ _ _ => eventRuns_of_three_bounds fun _ => rfl,
    fun _ _ _ => eventRuns_of_three_bounds fun _ => rfl,
    fun _ _ _ _ => eventRuns_of_next fun _ => rfl,
    fun _ _ _ => eventRuns_of_three_bounds fun _ => rfl,
    fun _ _ _ => eventRuns_of_two_bounds fun _ => rfl,
    fun _ => eventRuns_of_onDie fun _ => rfl⟩

end Sys2Proof.Machine
end

section
/-! Matrix engines (O22): a record that passes the checks of R310 is posted, `mx.post` waits for its record, and `mx.ring` and
`mx.stat` let their lanes pass. -/

namespace Sys2Proof.Machine

section
variable {x : Env} {s : State}

/-! ### Posting (R309 to R311) -/

/-- A record that passes the checks is posted, with the slot, the layout and the tiles that the checks found. -/
theorem Env.post_of_checked {w r l : List W64} {ts : List (PipeRef × Nat × Bool)}
    (checked : (s.checkJob x.t.die (x.group s) w).1 = .ok r l ts) :
    x.post w s = .ok ((s.checkJob x.t.die (x.group s) w).2.postJob x.t x.e x.tm.grp w r l ts) 0 := by
  rw [Env.post, ← Prod.mk.eta (p := s.checkJob x.t.die (x.group s) w), checked]

/-- The record that a short form makes of its operands (R309): `mx.clr` has no B, and C may be none. -/
def Env.shortWords (x : Env) : List W64 :=
  shortRecord x.v.opn x.v.sig (x.a0 128) (if x.v.opn = 4 then 0 else x.b0 64) (if x.v.cOpd.isNone then 0 else x.c0 64)

theorem shortBody_eq_post (x : Env) (s : State) : shortBody x s = x.post x.shortWords s := by
  simp only [shortBody, Env.shortWords, beq_iff_eq]

/-- A short form whose record passes the checks puts its job and lets its lanes pass. -/
theorem shortBody_of_checked {r l : List W64} {ts : List (PipeRef × Nat × Bool)}
    (checked : (s.checkJob x.t.die (x.group s) x.shortWords).1 = .ok r l ts) :
    shortBody x s = .ok ((s.checkJob x.t.die (x.group s) x.shortWords).2.postJob x.t x.e x.tm.grp x.shortWords r l ts) 0 :=
  (shortBody_eq_post x s).trans (Env.post_of_checked checked)

/-! ### `mx.post` (R309, R311) -/

/-- Two ways to wait, of which a test chooses one. -/
theorem Env.exists_waitAll_ite (c : Prop) [Decidable c] (w₁ w₂ : Wait) (s₁ s₂ : State) :
    ∃ w t, (if c then x.waitAll w₁ s₁ else x.waitAll w₂ s₂) = x.waitAll w t := by
  split <;> exact ⟨_, _, rfl⟩

/-- Where the check of its record's 64 bytes passes, `mx.post` waits for the read, or for Sluice to let the read pass. -/
theorem mxPostBody_waits {p : Place}
    (passes : (x.check s x.v.space 64 1 false true x.l0 (x.ea x.l0) [] s).1.res = .ok p) :
    ∃ w t, mxPostBody x s = x.waitAll w t := by
  simp only [mxPostBody, passes]
  exact Env.exists_waitAll_ite ..

theorem mxPostBody_stays {p : Place}
    (passes : (x.check s x.v.space 64 1 false true x.l0 (x.ea x.l0) [] s).1.res = .ok p) :
    mxPostBody x s = .all (mxPostBody x s).s x .stay := by
  obtain ⟨w, t, waits⟩ := mxPostBody_waits passes
  rw [waits]
  rfl

end

/-- Settles O22: the five short forms have one body, which posts the record where the checks pass; `mx.post` leaves its lanes where they
are; `mx.ring` and `mx.stat` let them pass in every state. -/
theorem matrixResults : Obligations.MatrixResults := by
  intro h o m q
  refine ⟨fun i v listed => ?short, completesTo_of_stay (fun _ => rfl) fun
      | ⟨_, _, _, _, _⟩, _, rfl, ⟨_, passes⟩ => mxPostBody_stays passes,
    completes_of_ok (fun _ => rfl) fun | ⟨_, _, _, _, _⟩, _, rfl, _ => ⟨0, rfl⟩,
    completes_of_ok (fun _ => rfl) fun x s hv _ => ⟨4, ?stat⟩⟩
  case short =>
    obtain ⟨runs, cOpd⟩ : (∀ s, exec i s = issueWord v shortBody s) ∧ v.cOpd = o.c := by
      simp only [List.mem_cons, Prod.mk.injEq, List.not_mem_nil, or_false] at listed
      obtain ⟨rfl, rfl⟩ | ⟨rfl, rfl⟩ | ⟨rfl, rfl⟩ | ⟨rfl, rfl⟩ | ⟨rfl, rfl⟩ := listed <;> exact ⟨fun _ => rfl, rfl⟩
    refine completes_of_body runs ?_
    rintro x s rfl ⟨_, _, _, checked⟩
    rw [← cOpd] at checked
    exact ⟨_, _, shortBody_of_checked checked⟩
  case stat =>
    have three : x.v.imm = 3 ↔ m.imm = 3 := by
      rw [hv]
      exact (BitVec.toNat_eq (x := m.imm) (y := 3)).symm
    simp only [mxStatBody, three]
    rw [hv]
    rfl

end Sys2Proof.Machine
end

section
/-! Events of barriers, timelines, Tideline and the ready queue (O36), by the rules for events of O32. -/

namespace Sys2Proof.Machine

/-- Settles O36: the events of Tideline name their die by its number and test it, but for the release of a waiter; the other events
name their unit by a reference. -/
theorem orderEventsRun : Obligations.OrderEventsRun :=
  ⟨-- barriers and timelines (R350 to R361)
    fun _ => eventRuns_of_next fun _ => rfl,
    fun _ => eventRuns_of_next fun _ => rfl,
    fun _ _ _ _ _ => eventRuns_of_next fun _ => rfl,
    fun _ _ => eventRuns_of_next fun _ => rfl,
    -- Tideline (R371 to R374)
    fun _ _ => eventRuns_of_onDie fun _ => rfl,
    fun _ => eventRuns_of_onDie fun _ => rfl,
    fun _ _ => eventRuns_of_next fun _ => rfl,
    fun _ => eventRuns_of_onDie fun _ => rfl,
    -- the ready queue (R378 to R381)
    fun _ => eventRuns_of_next fun _ => rfl,
    fun _ => eventRuns_of_next fun _ => rfl⟩

end Sys2Proof.Machine
end

section
/-! Barriers and timelines (O23, O24): which lanes of E wait, and that none traps, where the barrier's scope has the team in it. The
lemmas read the operands from the issue's view; the statements name the instruction's own fields, which are those of its view. -/

namespace Sys2Proof.Machine

/-! ### Lanes of E that wait -/

section
variable {x : Env} {p : Nat → Bool}

theorem Env.pick_of_forall (h : ∀ l ∈ x.lanes, p l = true) : pick x.e p = x.e :=
  pick_eq_self _ _ fun l hl => h l ((mem_lanesOf _ l).2 ⟨lt_of_getLsbD _ l hl, hl⟩)

theorem Env.pick_not_of_forall (h : ∀ l ∈ x.lanes, p l = true) : (pick x.e fun l => !p l) = 0 := by
  have none_left : (x.lanes.filter fun l => !p l) = [] := List.filter_eq_nil_iff.2 fun l hl => by simp [h l hl]
  rw [pick, ← Env.lanes, none_left]
  rfl

end

theorem lookD_map_of_not_mem {α : Type} (f : Nat → α) {ls : List Nat} {l : Nat} (d : α) (h : l ∉ ls) :
    lookD (ls.map fun k => (k, f k)) l d = d := by
  induction ls with
  | nil => rfl
  | cons k ls ih =>
    obtain ⟨hk, hl⟩ := List.ne_and_not_mem_of_not_mem_cons h
    exact (if_neg (Ne.symm hk)).trans (ih hl)

/-- The lanes of a mask that stay, beside lanes that pass. -/
theorem lookD_stay (m : Lanes) (l : Nat) :
    lookD ((lanesOf m).map fun k => (k, Fate.stay)) l .pass = if m.getLsbD l then .stay else .pass := by
  split
  · next hl => exact lookD_map (fun _ => Fate.stay) .pass ((mem_lanesOf m l).2 ⟨lt_of_getLsbD m l hl, hl⟩)
  · next hl => exact lookD_map_of_not_mem (fun _ => Fate.stay) .pass fun h => hl ((mem_lanesOf m l).1 h).2

/-- An instruction whose waiting lanes are none lets its lanes pass. -/
theorem Res.ok_of_no_waiter {m : Lanes} (h : m = 0) (s : State) (t : TeamRef) (f : Nat → Lane → Lane) :
    (⟨s.modLanes t m f, 0, [], (lanesOf m).map fun l => (l, .stay), false⟩ : Res) = .ok s 0 := by
  rw [h, State.modLanes_zero, lanesOf_zero]
  rfl

section
variable {x : Env} {s : State}

/-! ### Barriers (R347, R356 to R359) -/

/-- An instruction on a barrier whose scope has the team in it does not trap for the scope (R347). -/
theorem Env.barScoped_of_inside (inside : s.barExcludes (x.bar s) x.t = false) (f : BarRef → Res) :
    x.barScoped s f = f (x.bar s) :=
  if_neg (by rw [inside]; exact Bool.false_ne_true)

/-- The lanes of a `bar.arr` that have arrived already wait at the instruction, and the others pass. -/
theorem barArrBody_fate (inside : s.barExcludes (x.bar s) x.t = false) {l : Nat} (hl : x.e.getLsbD l = true) :
    (barArrBody x s).fate l = if (x.tm.arrOf x.v.a.idx).1.getLsbD l then .stay else .pass := by
  have again : (x.e &&& (x.tm.arrOf x.v.a.idx).1).getLsbD l = (x.tm.arrOf x.v.a.idx).1.getLsbD l := by
    rw [BitVec.getLsbD_and, hl, Bool.true_and]
  rw [barArrBody, Env.barScoped_of_inside inside, ← again]
  exact lookD_stay _ l

theorem barSyncBody_stays (inside : s.barExcludes (x.bar s) x.t = false) :
    barSyncBody x s = .all (barSyncBody x s).s x .stay := by
  rw [barSyncBody, Env.barScoped_of_inside inside]
  rfl

/-- `bar.wait` whose every lane's generation has passed. -/
theorem barWaitBody_of_passed (inside : s.barExcludes (x.bar s) x.t = false)
    (passed : ∀ l ∈ x.lanes, genPassed (s.bar (x.bar s)).gen (BitVec.ofNat 16 (x.b l 32)) = true) :
    barWaitBody x s = .ok (s.barAcquire (x.bar s) x.t x.e) 0 := by
  rw [barWaitBody, Env.barScoped_of_inside inside]
  simp only [Env.pick_of_forall passed]
  exact Res.ok_of_no_waiter (Env.pick_not_of_forall passed) ..

/-- `bar.bytes` of at most 2^24 bytes. -/
theorem barBytesBody_of_le (inside : s.barExcludes (x.bar s) x.t = false) (few : x.b0 32 ≤ 2 ^ 24) :
    barBytesBody x s = .ok ((x.release0 s).2.atBar (x.bar s) fun y =>
      { y with counts := y.counts ++ [((x.b0 32 : Int), (x.release0 s).1)] }) 0 :=
  (Env.barScoped_of_inside inside _).trans (if_neg (Nat.not_lt.2 few))

/-- `bar.mem` within the barrier's limit. -/
theorem barMemBody_of_le (inside : s.barExcludes (x.bar s) x.t = false) (few : x.b0 32 ≤ s.barLimit (x.bar s)) :
    barMemBody x s = .ok (s.atBar (x.bar s) fun y => { y with mems := y.mems ++ [(x.key, x.b0 32)] }) 0 :=
  (Env.barScoped_of_inside inside _).trans (if_neg (Nat.not_lt.2 few))

/-- `bar.mem` binds a barrier that is not in use to a context barrier that exists. -/
theorem barMemBindBody_passes (number : x.b0 32 ≤ 63) (idle : s.barBusy (x.bar s) = false) :
    ∃ t lat, barMemBindBody x s = .ok t lat := by
  simp only [barMemBindBody, if_neg (Nat.not_lt.2 number), idle, Bool.false_eq_true, if_false]
  exact ⟨_, _, rfl⟩

theorem barMemUnbindBody_of_idle (idle : s.barBusy (x.bar s) = false) :
    barMemUnbindBody x s = .ok { s with binds := s.binds.filter (·.who != (x.group s).ownBar x.v.a.idx) } 0 :=
  if_neg (by rw [idle]; exact Bool.false_ne_true)

/-! ### Timelines (R353, R360, R361) -/

/-- `tl.wait` whose every lane's number the counter has reached. -/
theorem tlWaitBody_of_reached
    (reached : ∀ l ∈ x.lanes, BitVec.ofNat 64 (x.b l 64) ≤ ((x.group s).tc x.v.a.idx).v) :
    tlWaitBody x s = .ok (s.modLanes x.t x.e fun _ y => y.acquire ((x.group s).tc x.v.a.idx).stamp) 0 := by
  have reached : ∀ l ∈ x.lanes, decide (BitVec.ofNat 64 (x.b l 64) ≤ ((x.group s).tc x.v.a.idx).v) = true :=
    fun l hl => decide_eq_true (reached l hl)
  simp only [tlWaitBody, Env.pick_of_forall reached]
  exact Res.ok_of_no_waiter (Env.pick_not_of_forall reached) ..

end

/-- Settles O23: inside the barrier's scope no lane traps; a `bar.arr` keeps the lanes that have arrived already, a `bar.sync` keeps all,
and the others let all pass. -/
theorem barrierResults : Obligations.BarrierResults := by
  intro h o
  refine ⟨completesTo_of _ _ _ _ _ (fun _ => rfl) fun x s hv _ inside => ⟨rfl, fun l hl => ?arr⟩,
    completes_of_ok (fun _ => rfl) fun _ _ _ ⟨inside, passed⟩ => ⟨0, barWaitBody_of_passed inside passed⟩,
    completesTo_of_stay (fun _ => rfl) fun _ _ _ => barSyncBody_stays,
    completes_of_ok (fun _ => rfl) fun _ _ _ ⟨inside, few⟩ => ⟨0, barBytesBody_of_le inside few⟩,
    completes_of_ok (fun _ => rfl) fun _ _ _ ⟨inside, few⟩ => ⟨0, barMemBody_of_le inside few⟩,
    completes_of_body (fun _ => rfl) fun _ _ _ ⟨number, idle⟩ => barMemBindBody_passes number idle,
    completes_of_ok (fun _ => rfl) fun
      | ⟨_, _, _, _, _⟩, _, rfl, idle => ⟨0, barMemUnbindBody_of_idle idle⟩⟩
  case arr =>
    have fate := barArrBody_fate inside hl
    have operand : x.v.a = o.a := by rw [hv]; rfl
    rw [operand] at fate
    cases arrived : (x.tm.arrOf o.a.idx).1.getLsbD l
    case false => exact .inl ⟨rfl, by rw [fate, arrived]; rfl⟩
    case true => exact .inr (.inr ⟨rfl, by rw [fate, arrived]; rfl⟩)

/-- Settles O24: `tl.sig` and `tl.rd` let their lanes pass in every state, and `tl.wait` where the counter has reached each lane's
number. -/
theorem timelineResults : Obligations.TimelineResults := fun _ _ =>
  ⟨completes_of_body (fun _ => rfl) fun _ _ _ _ => ⟨_, _, rfl⟩,
    completes_of_ok (fun _ => rfl) fun
      | ⟨_, _, _, _, _⟩, _, rfl, reached => ⟨0, tlWaitBody_of_reached reached⟩,
    completes_of_body (fun _ => rfl) fun _ _ _ _ => ⟨_, _, rfl⟩⟩

end Sys2Proof.Machine
end

section
/-! Logical time (O25): LTNOW, a group's holds, its stage's root and the frontier. The lemmas read the operands from the issue's view;
the statements name the instruction's own fields, which are those of its view. -/

namespace Sys2Proof.Machine

/-- Two updates that agree on the lanes of the mask have one effect. -/
theorem State.modLanes_congr {s : State} {t : TeamRef} {m : Lanes} {f g : Nat → Lane → Lane}
    (h : ∀ l, m.getLsbD l = true → f l = g l) : s.modLanes t m f = s.modLanes t m g := by
  have same : ∀ l y, (if m.getLsbD l then f l y else y) = if m.getLsbD l then g l y else y := fun l y => by
    split
    · next hl => rw [h l hl]
    · rfl
  simp only [State.modLanes, same]

section
variable {x : Env} {s : State}

theorem Env.mem_lanes_of_getLsbD {l : Nat} (h : x.e.getLsbD l = true) : l ∈ x.lanes :=
  (mem_lanesOf x.e l).2 ⟨lt_of_getLsbD x.e l h, h⟩

/-! ### LTNOW (R384) -/

theorem ltSetBody_of_times (times : ∀ l ∈ x.lanes, BitVec.ofNat 64 (x.a l 64) ≠ noTime) :
    ltSetBody x s = .ok (s.modLanes x.t x.e fun l y => { y with ltnow := BitVec.ofNat 64 (x.a l 64) }) 0 := by
  simp only [ltSetBody]
  rw [Env.pick_of_forall fun l hl => bne_iff_ne.2 (times l hl),
    List.filter_eq_nil_iff.2 fun l hl => by simp [times l hl]]
  rfl

/-- `lt.adv` whose every lane's time has the advance: the lane takes it, and none traps. -/
theorem ltAdvBody_of_advances
    (advances : ∀ l ∈ x.lanes, ∃ t, advance x.v.a.opt (x.b l 32) (x.tm.lane l).ltnow = some t ∧ t ≠ noTime) :
    ltAdvBody x s = .ok (s.modLanes x.t x.e fun l y =>
      { y with ltnow := (advance x.v.a.opt (x.b l 32) (x.tm.lane l).ltnow).getD y.ltnow }) 0 := by
  simp only [ltAdvBody]
  rw [State.modLanes_congr fun l hl => ?taken, List.filter_eq_nil_iff.2 fun l hl => ?noTrap]
  · rfl
  case taken =>
    obtain ⟨t, ht, time⟩ := advances l (Env.mem_lanes_of_getLsbD hl)
    simp [ht, time]
  case noTrap =>
    obtain ⟨t, ht, time⟩ := advances l hl
    simp [ht, time]

/-! ### Holds and the root (R369, R370, R385) -/

/-- A hold takes one more where its count is not at its end, and a new one where the group has fewer than eight. -/
theorem ltHoldBody_of_room (time : x.time0 x.v.a ≠ noTime) (covered : s.covered (x.group s) (x.time0 x.v.a) = true)
    (count : ∀ c, (x.group s).holds.find? (·.1 == x.time0 x.v.a) = some c → c.2 ≠ 65535)
    (room : (x.group s).holds.find? (·.1 == x.time0 x.v.a) = none → (x.group s).holds.length < 8) :
    ltHoldBody x s = .ok ((s.modGroup (x.group s).ref fun y => { y with
        holds := upsert y.holds (·.1 == x.time0 x.v.a) (x.time0 x.v.a, 0) fun h => (h.1, h.2 + 1) }).formBatch
      x.t.die (x.group s).plan [(.stage (x.group s).stage, x.time0 x.v.a)] [] 0 x.key) 0 := by
  have notFull : ((((x.group s).holds.find? (·.1 == x.time0 x.v.a)).map (·.2)).isNone && decide ((x.group s).holds.length ≥ 8) ||
      ((x.group s).holds.find? (·.1 == x.time0 x.v.a)).map (·.2) == some 65535) = false := by
    cases held : (x.group s).holds.find? (·.1 == x.time0 x.v.a) with
    | none => simp [room held]
    | some c => simp [count c held]
  simp only [ltHoldBody, beq_eq_false_iff_ne.2 time, covered, notFull, Bool.not_true, Bool.false_eq_true, if_false]

theorem ltHoldRootBody_passes {old : W64} (time : x.time0 x.v.a ≠ noTime) (root : (s.stageOf (x.group s)).root = some old)
    (forward : old ≤ x.time0 x.v.a) : ∃ t lat, ltHoldRootBody x s = .ok t lat := by
  simp only [ltHoldRootBody, beq_eq_false_iff_ne.2 time, root, if_neg (BitVec.not_lt.2 forward), Bool.false_eq_true, if_false]
  exact ⟨_, _, rfl⟩

theorem ltDropBody_passes (held : (x.group s).holds.any (·.1 == x.time0 x.v.a) = true) : ∃ t lat, ltDropBody x s = .ok t lat := by
  simp only [ltDropBody, held, Bool.not_true, Bool.false_eq_true, if_false]
  exact ⟨_, _, rfl⟩

theorem ltDropRootBody_passes (root : (s.stageOf (x.group s)).root.isSome = true) : ∃ t lat, ltDropRootBody x s = .ok t lat := by
  obtain ⟨old, hold⟩ := Option.isSome_iff_exists.1 root
  simp only [ltDropRootBody, hold]
  exact ⟨_, _, rfl⟩

/-! ### The frontier (R386) -/

theorem ltFrontBody_of_location {loc : Loc} (located : x.location s = .ok loc) :
    ltFrontBody x s = .ok (x.putOne s x.v.d 2 (s.frontier x.t.die x.ctx (x.group s).rcb loc).toNat 4) 4 := by
  rw [ltFrontBody, located]

/-- `lt.await` that the frontier has passed in every lane; there is one, and its acquire drops the die's aperture lines. -/
theorem ltAwaitBody_of_passed {loc : Loc} (someLane : x.e ≠ 0) (located : x.location s = .ok loc)
    (passed : ∀ l ∈ x.lanes, BitVec.ofNat 64 (x.b l 64) < s.frontier x.t.die x.ctx (x.group s).rcb loc) :
    ltAwaitBody x s = .ok ((s.acquireDrop x.t.die 2 5).modLanes x.t x.e fun _ y =>
      y.acquire (s.tlStamp x.t.die x.ctx (x.group s).rcb)) 0 := by
  have passed : ∀ l ∈ x.lanes,
      decide (BitVec.ofNat 64 (x.b l 64) < s.frontier x.t.die x.ctx (x.group s).rcb loc) = true :=
    fun l hl => decide_eq_true (passed l hl)
  simp only [ltAwaitBody, located, Env.pick_of_forall passed, State.lanesDrop, if_neg someLane]
  exact Res.ok_of_no_waiter (Env.pick_not_of_forall passed) ..

end

/-- Settles O25: each condition rules out the traps of its instruction, and no lane of an `lt.await` waits for a frontier that has
passed its time. -/
theorem logicalTimeResults : Obligations.LogicalTimeResults := fun _ _ =>
  ⟨completes_of_ok (fun _ => rfl) fun _ _ _ times => ⟨0, ltSetBody_of_times times⟩,
    completes_of_ok (fun _ => rfl) fun
      | ⟨_, _, _, _, _⟩, _, rfl, advances => ⟨0, ltAdvBody_of_advances advances⟩,
    completes_of_ok (fun _ => rfl) fun
      | ⟨_, _, _, _, _⟩, _, rfl, ⟨time, covered, count, room⟩ => ⟨0, ltHoldBody_of_room time covered count room⟩,
    completes_of_body (fun _ => rfl) fun
      | ⟨_, _, _, _, _⟩, _, rfl, ⟨time, _, root, forward⟩ => ltHoldRootBody_passes time root forward,
    completes_of_body (fun _ => rfl) fun
      | ⟨_, _, _, _, _⟩, _, rfl, held => ltDropBody_passes held,
    completes_of_body (fun _ => rfl) fun _ _ _ => ltDropRootBody_passes,
    completes_of_body (fun _ => rfl) fun _ _ _ ⟨_, located⟩ => ⟨_, _, ltFrontBody_of_location located⟩,
    completes_of _ _ _ _ (fun _ => rfl) fun _ _ _ someLane ⟨_, located, passed⟩ => by
      rw [ltAwaitBody_of_passed someLane located passed]
      exact ⟨rfl, fun _ _ => rfl⟩⟩

end Sys2Proof.Machine
end

section
/-! Task instructions (O26): where no lane traps, a request to the ready queue's node or a take leaves its lanes to wait, and the
bindings of a shadow slot that no other group holds let them pass. The lemmas read the operands from the issue's view; the statements
name the instruction's own fields, which are those of its view. -/

namespace Sys2Proof.Machine

section
variable {x : Env} {s : State}

/-! ### Requests to the node (R468, R480) -/

/-- A request for a task whose number is in range leaves its lanes to wait for the verdict. -/
theorem Env.taskRequest_stays {mk : Nat → TaskReq} (number : x.a0 32 ≤ 4095) :
    x.taskRequest mk s = .all (x.taskRequest mk s).s x .stay := by
  simp only [Env.taskRequest, if_neg (Nat.not_lt.2 number)]
  rfl

/-! ### Shadow slots (R80 to R82, R388) -/

/-- An instruction on a slot that is not bound to another group does not trap for its owner. -/
theorem Env.ownSlot_of_own (own : ∀ sh, x.shadow s = some sh → sh.grp = x.tm.grp) (f : Option Shadow → Res) :
    x.ownSlot s f = f (x.shadow s) := by
  cases bound : x.shadow s with
  | none => simp only [Env.ownSlot, bound]
  | some sh => simp only [Env.ownSlot, bound, own sh bound, beq_self_eq_true, if_true]

theorem tkArmBindBody_passes {r : List W64 × List W64} {s' : State}
    (slot : s.readSlot x.t.die x.ctx x.v.a.tsNum = (.ok r, s')) (own : ∀ sh, x.shadow s' = some sh → sh.grp = x.tm.grp) :
    ∃ t lat, tkArmBindBody x s = .ok t lat := by
  obtain ⟨words, layout⟩ := r
  simp only [tkArmBindBody, slot, Env.ownSlot_of_own own]
  exact ⟨_, _, rfl⟩

theorem tkArmUnbindBody_passes (own : ∀ sh, x.shadow s = some sh → sh.grp = x.tm.grp) :
    ∃ t lat, tkArmUnbindBody x s = .ok t lat := by
  rw [tkArmUnbindBody, Env.ownSlot_of_own own]
  cases x.shadow s with
  | none => exact ⟨_, _, rfl⟩
  | some sh => exact ⟨_, _, rfl⟩

/-- A take waits for the node's round trip where the slot is LOADED, and for the slot where it is not. -/
theorem tkArmTakeBody_waits (own : ∀ sh, x.shadow s = some sh → sh.grp = x.tm.grp) :
    ∃ w t, tkArmTakeBody x s = x.waitAll w t := by
  rw [tkArmTakeBody, Env.ownSlot_of_own own]
  cases x.shadow s with
  | none => exact ⟨_, _, rfl⟩
  | some sh =>
    dsimp only
    split
    · exact ⟨_, _, rfl⟩
    · exact ⟨_, _, rfl⟩

theorem tkArmTakeBody_stays (own : ∀ sh, x.shadow s = some sh → sh.grp = x.tm.grp) :
    tkArmTakeBody x s = .all (tkArmTakeBody x s).s x .stay := by
  obtain ⟨w, t, waits⟩ := tkArmTakeBody_waits own
  rw [waits]
  rfl

end

/-- Settles O26: `tk.post`, `tk.done` and the two takes leave their lanes where they are; binding and unbinding find the slot free, or
the group's own, and let their lanes pass. -/
theorem taskResults : Obligations.TaskResults := fun _ _ =>
  ⟨completesTo_of_stay (fun _ => rfl) fun _ _ _ => Env.taskRequest_stays,
    completesTo_of_stay (fun _ => rfl) fun _ _ _ => Env.taskRequest_stays,
    completes_of_body (fun _ => rfl) fun
      | ⟨_, _, _, _, _⟩, _, rfl, ⟨_, _, slot, own⟩ => tkArmBindBody_passes slot own,
    completes_of_body (fun _ => rfl) fun _ _ _ => tkArmUnbindBody_passes,
    completesTo_of_stay (fun _ => rfl) fun _ _ _ => tkArmTakeBody_stays,
    completesTo_of_stay (fun _ => rfl) fun _ _ _ _ => rfl⟩

end Sys2Proof.Machine
end

section
/-! Every step answers (O44). A word that decodes has fields, so that it is issued to the team it was read for; an event's meaning is its
operation, under the test of its unit where it names one by number. -/

namespace Sys2Proof.Machine

/-- A meaning answers with a next state, or finds that the package does not have the unit. -/
def Answers (r : Host.Outcome State Fault Refusal) : Prop := (∃ t, r = .next t) ∨ r = .fault .noUnit

theorem Answers.next (t : State) : Answers (.next t) := .inl ⟨t, rfl⟩

/-- An operation under a test of the unit. -/
theorem Answers.guarded (c : Prop) [Decidable c] (t : State) : Answers (if c then .next t else .fault .noUnit) := by
  split
  · exact .next t
  · exact .inr rfl

/-- An issued word answers, where its team is resident. -/
theorem answers_issueWord {s : State} {iss : Issue} {tm : Team} (hcur : s.cur = some iss) (ht : s.team? iss.team = some tm)
    (v : View) (body : Env → State → Res) : Answers (issueWord v body s) := by
  simp only [issueWord, hcur, ht]
  exact .next _

/-- A word that decodes is an instruction with fields, so no event. -/
theorem exists_viewOf_of_decode {w : W96} {i : Instr} (hd : decode w = .ok i) : ∃ v, viewOf i = some v := by
  obtain ⟨henc, -⟩ := decodedWordsEncode w i hd
  obtain ⟨v, hv, -⟩ := Option.map_eq_some_iff.mp henc
  exact ⟨v, hv⟩

theorem answers_stepIssue {s : State} {i : Issue} {tm : Team} (ht : s.team? i.team = some tm) : Answers (stepIssue s i tm) := by
  unfold stepIssue
  extract_lets w
  split
  case h_1 ins hd =>
    obtain ⟨v, hv⟩ := exists_viewOf_of_decode hd
    obtain ⟨body, hx⟩ := exec_eq_issueWord hv
    rw [hx]
    exact answers_issueWord (s := { s with cur := some i }) rfl ht v body
  case h_2 => exact .next _

/-- The event that happens is the one that its instruction asks for; its operation runs, under the test of its unit where it names one
by number. -/
theorem answers_stepEvent (s : State) (e : Event) : Answers (stepEvent s e) := by
  cases e with
  -- a die, alone or with a part of it that the event does not test
  | fifoEntryEvaluation | firmwareRestart | sluiceDeferredServe | dieUnreachable | translationWalk | rdcProbe | probeAck | dropNotice
  | hbmRefresh | invalidationStart | invalidationComplete | migrationStart | migrationEnd | orderedOverflow | orddrop
  | controlStoreLoad | tidelineBatchApply | frontierRecompute | tidelineHeldTimeout | faultRecordWrite | engineReset | channelReset
  | walkerReset | tidelineNodeReset | coreReset | dieReset | dieBoot | hbmChannelRecalibration | firmwareActivation | thermalEvent
  | thermalReset | counterReadClear | registerWrite | fqbaseWrite | fqtailWrite | firmwareRestartEnd => exact .guarded ..
  -- a queue of a die
  | tailSubmission | tailerrClear | queueEnable | qheadWrite | cmdNop | cmdResume | cmdPreempt | cmdDrainPlan | cmdIndirect
  | cmdReturn | cmdSignal | cmdWaitTime | cmdFence | waitTimePoll | fenceCommit | ctxidWrite | waitTimeClockReached => exact .guarded ..
  -- other units named by numbers: quads, cores, engines, pairs of dies, a place of memory, ports, windows, wavelengths
  | quadIssue | shadowSlotTake | jobStart | jobLastRead | jobComplete | selfTest | dieLinkFail | memoryAccessPerform | ualinkReplay
  | ualinkPortFail | ualinkPortRetrain | receiveWindowEnable | wavelengthRecalibration => exact .guarded ..
  -- units named by references, or the package
  | _ => exact .next _

theorem answers_stepIdle (s : State) : Answers (stepIdle s) := by
  unfold stepIdle
  split
  · exact answers_stepEvent _ _
  · split
    · exact .next _
    · split
      · exact .next _
      · split <;> exact .next _

theorem answers_step (s : State) : Answers (step s) := by
  unfold step
  split
  · exact answers_stepIdle s
  · split
    · exact answers_stepEvent _ _
    · extract_lets i s1
      split
      next tm ht =>
        split
        · exact .next _
        · exact answers_stepIssue ht
      next => exact .next _

/-- Settles O44: a step is that of an issued word, of an event, or a move of the schedule, and each of them answers. -/
theorem stepsAnswer : Obligations.StepsAnswer := answers_step

end Sys2Proof.Machine
end

section
/-! Events of UALink, the fabric and collectives (O37), of fault records, interruption and retirement (O38), and of service (O39), by the
rules for events of O32. -/

namespace Sys2Proof.Machine

/-- An event of a unit with one number (a port, a receive window) tests it. -/
theorem eventRuns_of_one_bound {i : Instr} {ev : Event} {op : State → State} {a k : Nat}
    (hx : ∀ s : State, exec i { s with ev := some ev } = if a < k then .next (op { s with ev := none }) else .fault .noUnit) :
    EventRuns i ev (a < k) op :=
  eventRuns_of_guard id hx

/-- Settles O37: the events of a port and of a receive window test its number; frames, circuits and chunks are named by references. -/
theorem fabricEventsRun : Obligations.FabricEventsRun :=
  ⟨-- UALink (R390 to R393)
    fun _ => eventRuns_of_one_bound fun _ => rfl,
    fun _ => eventRuns_of_one_bound fun _ => rfl,
    fun _ => eventRuns_of_one_bound fun _ => rfl,
    fun _ => eventRuns_of_next fun _ => rfl,
    -- the optical fabric, its circuits and the receive windows (R394 to R403)
    fun _ => eventRuns_of_next fun _ => rfl,
    eventRuns_of_next fun _ => rfl,
    eventRuns_of_next fun _ => rfl,
    fun _ => eventRuns_of_next fun _ => rfl,
    fun _ _ _ => eventRuns_of_next fun _ => rfl,
    fun _ => eventRuns_of_next fun _ => rfl,
    fun _ _ => eventRuns_of_next fun _ => rfl,
    eventRuns_of_next fun _ => rfl,
    fun _ => eventRuns_of_next fun _ => rfl,
    fun _ _ => eventRuns_of_one_bound fun _ => rfl,
    -- collectives (R404 to R408)
    fun _ _ _ _ _ _ => eventRuns_of_next fun _ => rfl,
    fun _ _ => eventRuns_of_next fun _ => rfl,
    fun _ _ _ => eventRuns_of_next fun _ => rfl,
    fun _ _ _ _ => eventRuns_of_next fun _ => rfl,
    fun _ _ => eventRuns_of_next fun _ => rfl,
    fun _ _ => eventRuns_of_next fun _ => rfl,
    fun _ _ => eventRuns_of_next fun _ => rfl⟩

/-- Settles O38: a die writes its fault records; the other events name a context, a group or a plan. -/
theorem retirementEventsRun : Obligations.RetirementEventsRun :=
  ⟨fun _ => eventRuns_of_onDie fun _ => rfl,
    fun _ => eventRuns_of_next fun _ => rfl,
    fun _ => eventRuns_of_next fun _ => rfl,
    fun _ => eventRuns_of_next fun _ => rfl,
    fun _ => eventRuns_of_next fun _ => rfl,
    fun _ => eventRuns_of_next fun _ => rfl,
    fun _ => eventRuns_of_next fun _ => rfl⟩

/-- Settles O39: an event of service tests its die, its queue or its wavelength, unless it is one of the whole package. -/
theorem serviceEventsRun : Obligations.ServiceEventsRun :=
  ⟨-- resets of a die's units, of a die, and of the package
    fun _ _ => eventRuns_of_onDie fun _ => rfl,
    fun _ _ => eventRuns_of_onDie fun _ => rfl,
    fun _ => eventRuns_of_onDie fun _ => rfl,
    fun _ => eventRuns_of_onDie fun _ => rfl,
    fun _ _ => eventRuns_of_onDie fun _ => rfl,
    fun _ _ => eventRuns_of_onDie fun _ => rfl,
    eventRuns_of_next fun _ => rfl,
    eventRuns_of_next fun _ => rfl,
    eventRuns_of_next fun _ => rfl,
    -- boot, recalibration, firmware, heat and telemetry
    fun _ => eventRuns_of_onDie fun _ => rfl,
    fun _ _ => eventRuns_of_onDie fun _ => rfl,
    fun _ _ => eventRuns_of_two_bounds fun _ => rfl,
    fun _ => eventRuns_of_next fun _ => rfl,
    fun _ => eventRuns_of_onDie fun _ => rfl,
    fun _ => eventRuns_of_onDie fun _ => rfl,
    fun _ => eventRuns_of_onDie fun _ => rfl,
    fun _ => eventRuns_of_next fun _ => rfl,
    -- registers
    fun _ _ => eventRuns_of_onDie fun _ => rfl,
    fun _ _ _ => eventRuns_of_onDie fun _ => rfl,
    fun _ => eventRuns_of_two_bounds fun _ => rfl,
    fun _ _ => eventRuns_of_onDie fun _ => rfl,
    fun _ _ => eventRuns_of_onDie fun _ => rfl,
    fun _ => eventRuns_of_onDie fun _ => rfl⟩

end Sys2Proof.Machine
end

section
/-! Fabric and collectives (O27, O28): what the bodies of class 14 come to where no lane traps. The lemmas read the operands from the
issue's view; the statements name the instruction's own fields, which are those of its view. -/

namespace Sys2Proof.Machine

section
variable {x : Env} {s : State}

/-! ### The optical fabric (R402, R410 to R414) -/

/-- `fx.send` of a sound descriptor to a device that is routed, under the present topology. -/
theorem fxSendBody_passes (fresh : s.stale (x.b0 32 % 65536) = none)
    (sound : sendField s (bits (x.a0 128) 95 64) (bits (x.a0 128) 127 96) (x.c0 64) = none)
    (routed : s.routed (bits (bits (x.a0 128) 127 96) 9 0) = true) : ∃ t lat, fxSendBody x s = .ok t lat := by
  simp only [fxSendBody, fresh, sound, routed, Bool.not_true, Bool.false_eq_true, if_false]
  exact ⟨_, _, rfl⟩

/-- `fx.circ` of the fabric's owner answers at once where a request is under way already (2) or no table is staged (3). -/
theorem fxCircBody_of_no_request (owner : x.fxOwner s = true) (fresh : s.stale (x.a0 32 % 65536) = none)
    (noRequest : s.fab.circ.isSome = true ∨ s.fab.staged.isNone = true) :
    fxCircBody x s = .ok (x.putOne s x.v.d 1 (if s.fab.circ.isSome then 2 else 3) 4) 4 := by
  simp only [fxCircBody, owner, fresh, Bool.not_true, Bool.false_eq_true, if_false]
  cases pending : s.fab.circ.isSome with
  | true => rfl
  | false =>
    have unstaged : s.fab.staged.isNone = true := noRequest.resolve_left (ne_true_of_eq_false pending)
    simp [unstaged]

/-- `fx.circ` with a table staged and no request under way makes one, and waits for its answer. -/
theorem fxCircBody_stays (owner : x.fxOwner s = true) (fresh : s.stale (x.a0 32 % 65536) = none)
    (idle : s.fab.circ.isNone = true) (staged : s.fab.staged.isSome = true) :
    fxCircBody x s = .all (fxCircBody x s).s x .stay := by
  have idle' := Option.isSome_eq_false_iff.2 idle
  have staged' := Option.isNone_eq_false_iff.2 staged
  simp only [fxCircBody, owner, fresh, idle', staged', Bool.not_true, Bool.false_eq_true, if_false]
  rfl

/-- `fx.gen.ne` goes on as `fx.gen` where the generation is not the one that it names. -/
theorem fxGenNeBody_of_ne (other : x.b0 32 % 65536 ≠ s.topoGen) : fxGenNeBody x s = .ok (x.putOne s x.v.d 1 s.topoGen 4) 4 :=
  if_neg fun same => other (beq_iff_eq.1 same)

/-- `fx.slot` whose image is read and is a table, and no request under way. -/
theorem fxSlotBody_passes {hd bs : List Byte} {lat lat' : Nat} {s1 s2 : State} {tbl : SlotTable} (owner : x.fxOwner s = true)
    (head : x.readImage (x.a0 64) 1 0 [] 0 s = (.ok (hd, lat), s1))
    (body : x.readImage (x.a0 64) (bits (leVal (hd.take 8)) 55 50) 1 hd lat s1 = (.ok (bs, lat'), s2))
    (table : parseTable s2.fab.devid bs = some tbl) (idle : s2.fab.circ.isNone = true) : ∃ t l, fxSlotBody x s = .ok t l := by
  have idle' := Option.isSome_eq_false_iff.2 idle
  simp only [fxSlotBody, owner, head, body, table, idle', Bool.not_true, Bool.false_eq_true, if_false]
  exact ⟨_, _, rfl⟩

/-! ### Collectives (R415 to R417) -/

/-- `co.fire` of the chunk that the map gives the group, which it has not fired. -/
theorem coFireBody_passes {s' : State} (entry : s.chunkEntry (x.group s) = (some (x.a0 32), s'))
    (inside : x.a0 32 < s'.chunkCount (x.group s)) (unfired : (x.group s).fired.contains (x.a0 32) = false) :
    ∃ t lat, coFireBody x s = .ok t lat := by
  simp only [coFireBody, entry, unfired, decide_eq_false (Nat.not_le.2 inside), bne_self_eq_false, Bool.or_self,
    Bool.false_eq_true, if_false]
  exact ⟨_, _, rfl⟩

/-- `co.ack` of a chunk that has a status. -/
theorem coAckBody_of_status (inside : x.a0 32 < s.chunkCount (x.group s))
    (done : ((s.chunk? x.ctx (x.group s).rcb (x.a0 32)).bind Chunk.status).isSome = true) :
    coAckBody x s = .ok (x.putOne (x.ackResults (x.group s).rcb [x.a0 32] s) x.v.d 1
      (((s.chunk? x.ctx (x.group s).rcb (x.a0 32)).bind Chunk.status).getD 0) 4) 4 := by
  obtain ⟨n, status⟩ := Option.isSome_iff_exists.1 done
  simp only [coAckBody, if_neg (Nat.not_le.2 inside), status]
  rfl

/-- `co.ack.all` where every chunk of the launch has a status. -/
theorem coAckAllBody_passes (chunks : 0 < s.chunkCount (x.group s)) (done : ∀ c < s.chunkCount (x.group s),
      ((s.chunk? x.ctx (x.group s).rcb c).bind Chunk.status).isSome = true) : ∃ t lat, coAckAllBody x s = .ok t lat := by
  have all : (((List.range (s.chunkCount (x.group s))).map fun c =>
      (s.chunk? x.ctx (x.group s).rcb c).bind Chunk.status).all (·.isSome)) = true := by
    simpa using done
  simp only [coAckAllBody, if_neg (Nat.ne_of_gt chunks), all, if_true]
  exact ⟨_, _, rfl⟩

theorem coStatBody_passes (inside : x.a0 32 < s.chunkCount (x.group s)) : ∃ t lat, coStatBody x s = .ok t lat := by
  simp only [coStatBody, if_neg (Nat.not_le.2 inside)]
  exact ⟨_, _, rfl⟩

end

/-- Settles O27: each condition rules out the traps of its instruction; `fx.gen` and `fx.qstat` have none, and the `fx.circ` that makes
a request leaves its lanes where they are. -/
theorem fabricResults : Obligations.FabricResults := fun _ _ =>
  ⟨completes_of_body (fun _ => rfl) fun _ _ _ ⟨fresh, sound, routed⟩ => fxSendBody_passes fresh sound routed,
    completes_of_ok (fun _ => rfl) fun
      | ⟨_, _, _, _, _⟩, _, rfl, ⟨owner, fresh, noRequest⟩ => ⟨4, fxCircBody_of_no_request owner fresh noRequest⟩,
    completesTo_of_stay (fun _ => rfl) fun _ _ _ ⟨owner, fresh, idle, staged⟩ => fxCircBody_stays owner fresh idle staged,
    completes_of_ok (fun _ => rfl) fun | ⟨_, _, _, _, _⟩, _, rfl, _ => ⟨4, rfl⟩,
    completes_of_ok (fun _ => rfl) fun | ⟨_, _, _, _, _⟩, _, rfl, other => ⟨4, fxGenNeBody_of_ne other⟩,
    completes_of_body (fun _ => rfl) fun _ _ _ ⟨owner, _, _, _, _, _, _, _, head, body, table, idle⟩ =>
      fxSlotBody_passes owner head body table idle,
    completes_of_body (fun _ => rfl) fun _ _ _ _ => ⟨_, _, rfl⟩⟩

/-- Settles O28: a chunk of the launch traps in no lane where the group may fire it, and waits in none where it has a status. -/
theorem collectiveResults : Obligations.CollectiveResults := fun _ _ =>
  ⟨completes_of_body (fun _ => rfl) fun _ _ _ ⟨_, entry, inside, unfired⟩ => coFireBody_passes entry inside unfired,
    completes_of_ok (fun _ => rfl) fun
      | ⟨_, _, _, _, _⟩, _, rfl, ⟨inside, done⟩ => ⟨4, coAckBody_of_status inside done⟩,
    completes_of_body (fun _ => rfl) fun _ _ _ ⟨chunks, done⟩ => coAckAllBody_passes chunks done,
    completes_of_body (fun _ => rfl) fun _ _ _ => coStatBody_passes⟩

end Sys2Proof.Machine
end

section
/-! Instructions that trap (O29) and the return from a trap (O50). -/

namespace Sys2Proof.Machine

/-! ### Every lane of E takes one trap (R420, R421) -/

/-- Where every lane of E takes the trap `i`, the issue's list of traps has one for each of them. -/
theorem Res.traps_all_trap (s : State) (x : Env) (i : TrapInfo) :
    (Res.all s x (.trap i)).traps x.e = x.lanes.map fun l => (l, i) :=
  List.filterMap_eq_map_iff_forall_eq_some.2 fun l hl => by rw [Res.fate_all s x _ ((mem_lanesOf _ l).1 hl).2]

/-- Each of these lanes is named by the record. -/
theorem Res.quiet_all_trap (s : State) (x : Env) (i : TrapInfo) : (Res.all s x (.trap i)).quiet x.e = 0 := by
  apply BitVec.eq_of_getLsbD_eq
  intro l _
  rw [Res.quiet, getLsbD_pick]
  cases hl : x.e.getLsbD l with
  | false => simp
  | true => simp [Res.fate_all s x (.trap i) hl]

/-- Releases change the clocks of stamps of dies alone. -/
theorem State.releaseLanes_frame (s : State) (t : TeamRef) (m : Lanes) :
    (s.releaseLanes t m).2 = { s with dies := (s.releaseLanes t m).2.dies } :=
  State.foldl_keeps (P := fun r : Nat × State => r.2 = { s with dies := r.2.dies }) rfl fun r _ h => by
    rw [State.release, State.modDie, h]

theorem settled_clock (s : State) (iss : Issue) (tm : Team) (v : View) (u : State) : (settled s iss tm v u).clock = u.clock := by
  rw [settled, State.lateK_frame]

section
variable {s : State} {iss : Issue} {tm : Team} {v : View}

/-- An issue whose body makes the effect `u`, which takes no time, and then traps every lane of E in the same way. -/
theorem runIssue_of_all_trap (h : Ready s iss tm v) (hE : issueE iss tm v ≠ 0) {body : Env → State → Res} {u : State} {j : TrapInfo}
    (hr : body (envOf iss tm v) (begun s iss v) = .all u (envOf iss tm v) (.trap j)) (hc : u.clock = s.clock) :
    ∃ t0, GoesTo (settled s iss tm v u) t0 iss tm v (fun _ => none) ∧
      runIssue v body iss tm s = afterRaise t0 (envOf iss tm v) ((envOf iss tm v).lanes.map fun l => (l, j)) := by
  obtain ⟨late, extra, e⟩ := runIssue_ready h body _ ((if_neg hE).trans hr)
  have traps : (Res.all u (envOf iss tm v) (.trap j)).traps (issueE iss tm v) = (envOf iss tm v).lanes.map fun l => (l, j) :=
    Res.traps_all_trap u (envOf iss tm v) j
  have quiet : (Res.all u (envOf iss tm v) (.trap j)).quiet (issueE iss tm v) = 0 := Res.quiet_all_trap u (envOf iss tm v) j
  have named : maskOf (((envOf iss tm v).lanes.map fun l => (l, j)).map (·.1)) = issueE iss tm v := maskOf_traps _ j
  have goes : GoesTo (settled s iss tm v u)
      (afterLanes s iss tm v late extra (.all u (envOf iss tm v) (.trap j)) (settled s iss tm v u)) iss tm v (fun _ => none) :=
    goesTo_afterLanes late extra _ _ _ fun l hl => .inr (.inr ⟨rfl, .inr ⟨j, Res.fate_all u (envOf iss tm v) _ hl⟩⟩)
  have clock := (congrArg State.clock goes.rest).trans ((settled_clock s iss tm v u).trans hc)
  refine ⟨_, goes, ?_⟩
  rw [e, traps, quiet, named, afterRaise, clock]
  rfl

end

/-- An instruction whose body is an effect that takes no time, and then one trap for all lanes of E. -/
theorem trapsWith_of_all_trap {i : Instr} {v : View} {ok : Env → State → Prop} {eff : Env → State → State} {info : Env → TrapInfo}
    {body : Env → State → Res} (hx : ∀ s, exec i s = issueWord v body s)
    (hb : ∀ x s, x.v = v → body x s = .all (eff x s) x (.trap (info x))) (hc : ∀ x s, (eff x s).clock = s.clock) :
    TrapsWith i v ok eff info := by
  intro s iss tm h hE _
  obtain ⟨t0, goes, e⟩ := runIssue_of_all_trap h hE (hb (envOf iss tm v) (begun s iss v) rfl) ((hc _ _).trans (begun_clock s iss v))
  exact ⟨t0, goes, by rw [hx, issueWord_ready h, e]⟩

/-- The trap of an instruction that releases first has the instruction's immediate as DETAIL0. -/
theorem Env.relTrap_of_view {x : Env} {h : Hdr} {m : ImmForm} {cls opn : Nat} (hv : x.v = m.view cls opn h) (kind d1 : Nat) (s : State) :
    x.relTrap kind d1 s = .all (s.releaseLanes x.t x.e).2 x (.trap ⟨kind, m.imm, BitVec.ofNat 64 d1, 0, 0, 0⟩) := by
  have imm : BitVec.ofNat 32 (m.view cls opn h).imm = m.imm := BitVec.ofNat_toNat ..
  rw [Env.relTrap, TrapInfo.simple, hv, imm]

theorem State.releaseLanes_clock (s : State) (t : TeamRef) (m : Lanes) : (s.releaseLanes t m).2.clock = s.clock := by
  rw [State.releaseLanes_frame]

/-- Settles O29: each releases its lanes, and traps all of them with its own kind. -/
theorem trapInstructionResults : Obligations.TrapInstructionResults := fun _ _ =>
  ⟨trapsWith_of_all_trap (fun _ => rfl) (fun _ s hv => Env.relTrap_of_view hv 0x21 0 s) fun x s => s.releaseLanes_clock x.t x.e,
    trapsWith_of_all_trap (fun _ => rfl) (fun _ s hv => Env.relTrap_of_view hv 0x22 0 s) fun x s => s.releaseLanes_clock x.t x.e,
    trapsWith_of_all_trap (fun _ => rfl) (fun x s hv => Env.relTrap_of_view hv 0x23 (x.a0 64) s) fun x s =>
      s.releaseLanes_clock x.t x.e⟩

/-! ### Return from a trap (R426, R439) -/

/-- A lane whose record says that it sleeps, waits at a barrier, or waits for a reply. -/
def Wait.OutlastsTrap (w : Wait) : Prop := (∃ n, w = .sleep n) ∨ (∃ b g, w = .bar b g) ∨ w = .sysc

/-- A lane returns to its wait where its record says one that outlasts the trap, and runs from the next cycle on where it does not. -/
theorem resumedLane_cases (clock : Nat) (l : Lane) :
    (l.wait.OutlastsTrap ∧
      resumedLane clock l = { l with psv := false, pserial := 0, win := [], wakeAt := none, st := .op }) ∨
    resumedLane clock l = { l with
      psv := false, pserial := 0, win := [], wakeAt := none, st := .runnable, wait := .none, hold := max l.hold (clock + 1) } := by
  unfold resumedLane
  split
  case h_1 n hw => exact .inl ⟨.inl ⟨n, hw⟩, by rw [← hw]⟩
  case h_2 b g hw => exact .inl ⟨.inr (.inl ⟨b, g, hw⟩), by rw [← hw]⟩
  case h_3 hw => exact .inl ⟨.inr (.inr hw), by rw [← hw]⟩
  case h_4 => exact .inr rfl

/-- Settles O50: in both cases of the return nothing of the lane changes but what the statement names. -/
theorem trapReturn : Obligations.TrapReturn := by
  intro clock l
  obtain ⟨waits, e⟩ | e := resumedLane_cases clock l
  · refine ⟨by rw [e], .inr (by rw [e]; exact ⟨rfl, rfl, rfl⟩), fun sleep bar sysc => ?_⟩
    obtain ⟨n, hw⟩ | ⟨b, g, hw⟩ | hw := waits
    · exact absurd hw (sleep n)
    · exact absurd hw (bar b g)
    · exact absurd hw sysc
  · refine ⟨by rw [e], .inl ?_, fun _ _ _ => by rw [e]⟩
    rw [e]
    exact ⟨rfl, rfl, Nat.lt_of_succ_le (Nat.le_max_right l.hold (clock + 1))⟩

end Sys2Proof.Machine
end

section
/-! The state after reset (O51). -/

namespace Sys2Proof.Machine

/-- No register is stored at reset: each reads its reset value. -/
theorem reg_reset (d off : Nat) : State.reset.reg d off = hwReset off := rfl

theorem fld_reset (d off hi lo : Nat) : State.reset.fld d off hi lo = bits (hwReset off).toNat hi lo := rfl

/-- The register block of each queue starts with the reset value of Table 2-1. -/
theorem hwReset_queue {q : Nat} (h : q < 32) : hwReset (0x1000 + 64 * q) = BitVec.ofNat 64 (10 * 2 ^ 48) := by
  refine if_pos ?_
  simp only [Bool.and_eq_true, decide_eq_true_eq, beq_iff_eq]
  omega

theorem eq_init_of_mem_reset_dies {d : Die} (h : d ∈ State.reset.dies) : ∃ n, d = Die.init n := by
  simp only [State.reset, List.mem_cons, List.not_mem_nil, or_false] at h
  obtain rfl | rfl | rfl | rfl := h <;> exact ⟨_, rfl⟩

/-- Settles O51: the lists of the state are empty, its dies are in their first state, and its registers read their reset values. -/
theorem resetState : Obligations.ResetState := by
  refine ⟨rfl, rfl, rfl, rfl, rfl, rfl, rfl, rfl, fun d hd => ?dies, fun d _ q hq => ?queues, fun d _ => ?registers, rfl⟩
  case dies =>
    obtain ⟨n, rfl⟩ := eq_init_of_mem_reset_dies hd
    exact ⟨rfl, rfl, rfl, rfl, rfl, rfl, rfl, rfl⟩
  case queues =>
    rw [fld_reset, hwReset_queue hq]
    rfl
  case registers =>
    exact ⟨reg_reset .., reg_reset .., reg_reset .., reg_reset .., fld_reset ..⟩

end Sys2Proof.Machine
end
